-- ==== Sys2Proof/Word.lean ====
section
/-! DEFINITION. The words of the WSR-4812 and the plainest arithmetic on them: bit ranges, sign
extension and the two ways of reading a register as a number (R138, R149). -/

namespace Sys2Proof

/-- A 32-bit register value, the unit of g0 to g511 (R20). -/
abbrev Word := BitVec 32

/-- A 64-bit value: a register pair, a VA, a counter. -/
abbrev DWord := BitVec 64

/-- The low 56 bits of a code or data address (R133). -/
abbrev Addr56 := BitVec 56

/-- One byte of memory. -/
abbrev Byte := BitVec 8

/-- A register field of the instruction word: g0 to g511 (R123). -/
abbrev Reg := BitVec 9

/-- Bits `[lo+len-1 : lo]` of `x`. -/
def slice {n : Nat} (x : BitVec n) (lo len : Nat) : BitVec len :=
  BitVec.ofNat len (x.toNat / 2 ^ lo)

/-- Bit `i` of `x`. -/
def bitOf {n : Nat} (x : BitVec n) (i : Nat) : Bool := x.getLsbD i

/-- Bits `[lo+len-1 : lo]` of a number. -/
def natBits (x lo len : Nat) : Nat := x / 2 ^ lo % 2 ^ len

/-- `U(x)`: the value read as an unsigned integer (R138). -/
abbrev uval {n : Nat} (x : BitVec n) : Nat := x.toNat

/-- `S(x)`: the value read as two's complement (R138). -/
abbrev sval {n : Nat} (x : BitVec n) : Int := x.toInt

/-- `Wrap32(v)`: v modulo 2^32 (R138). -/
abbrev wrap32 (v : Int) : Word := BitVec.ofInt 32 v

/-- `Wrap64(v)`: v modulo 2^64 (R138). -/
abbrev wrap64 (v : Int) : DWord := BitVec.ofInt 64 v

/-- The low 32 bits of a pair: the even register (R123). -/
def lo32 (v : DWord) : Word := v.setWidth 32

/-- The high 32 bits of a pair: the odd register (R123). -/
def hi32 (v : DWord) : Word := (v >>> 32).setWidth 32

/-- The pair with the given halves (R123). -/
def pair64 (lo hi : Word) : DWord := hi ++ lo

/-- A Bool as one bit. -/
def bit (b : Bool) : Nat := if b then 1 else 0

theorem slice_toNat {n : Nat} (x : BitVec n) (lo len : Nat) :
    (slice x lo len).toNat = x.toNat / 2 ^ lo % 2 ^ len := by
  simp [slice]

end Sys2Proof
end

