-- ==== Sys2Proof/Config.lean ====
section
/-! DEFINITION. What the implementation fixes and the free values that the spec leaves open. -/

namespace Sys2Proof

/-- The word that a read of undefined contents returns, the n-th time one is read (R230, R388; log 5). -/
opaque Config.freeWord : Nat → BitVec 32

/-- The physical address at which a window of a partition stands for the peers that write to it (R291, R294): the
spec names none (log 6). -/
opaque Config.windowBase : Nat → Nat → Nat

/-- The ML-DSA-65 signature of bits [5119:0] of a usage record under the device attestation key (Table 15-6, R313):
the spec gives no key (log 6). -/
opaque Config.signature : BitVec 5120 → BitVec 26472

/-- SHA-384 (Table 15-6, R316): its values are those of another standard (log 6). -/
opaque Config.sha384 : BitVec 31592 → BitVec 384

/-- The key pair of a blob sealed to the device; zero where it fails to unseal (R307, R392; log 6). -/
opaque Config.unseal : BitVec 512 → BitVec 512

/-- What a line that was encrypted under one pair of XTS keys reads as under another: the first and the second pair, the
line's number (the tweak) and the bytes written (R306; log 48). -/
opaque Config.decrypt : BitVec 512 → BitVec 512 → Nat → BitVec 512 → BitVec 512

/-- The page in which the firmware places the context of a partition on an isle, of 64 KiB in the isle's channel group (R303;
log 44). -/
opaque Config.contextPage : Nat → Nat → Nat

/-- The number of a port in DETAIL of events 0x1E and 0x1A, by its kind and its number: the spec numbers no port
(R316, R416; log 6). -/
opaque Config.portNumber : Nat → Nat → Nat

end Sys2Proof
end

