-- ==== Sys2Proof/Syntax.lean ====
section
/-! DEFINITION. The instructions of the WSR-4812 as syntax: the shared field types (R121 to R132), the
operand records of Tables 8-1, 8-4, 8-7, 8-8, 9-1, 10-1, 11-1 and 12-1, and `Instr`, one constructor per row
of the opcode table (instruction forms, then the steps of the machine that carry no word). -/

namespace Sys2Proof

/-- TY: signed or unsigned 32-bit integers (R131, R149). -/
inductive IntTy where
  | s32
  | n32
  deriving DecidableEq, Repr

/-- The code of a `IntTy`. -/
def IntTy.code : IntTy → BitVec 1
  | .s32 => 0#1
  | .n32 => 1#1

/-- The `IntTy` with a given code; none for a reserved code. -/
def IntTy.ofCode (c : BitVec 1) : Option IntTy :=
  match c.toNat with
  | 0 => some .s32
  | _ => some .n32

/-- KEEP: which operand value to keep (R126). -/
inductive Keep where
  | none
  | keepA
  | keepB
  deriving DecidableEq, Repr

/-- The code of a `Keep`. -/
def Keep.code : Keep → BitVec 2
  | .none => 0#2
  | .keepA => 1#2
  | .keepB => 2#2

/-- The `Keep` with a given code; none for a reserved code. -/
def Keep.ofCode (c : BitVec 2) : Option Keep :=
  match c.toNat with
  | 0 => some .none
  | 1 => some .keepA
  | 2 => some .keepB
  | _ => none

/-- The memory spaces (R41, Table 7-5). -/
inductive Space where
  | priv
  | scr
  | clu
  | lag
  | glb
  deriving DecidableEq, Repr

/-- The code of a `Space`. -/
def Space.code : Space → BitVec 3
  | .priv => 0#3
  | .scr => 1#3
  | .clu => 2#3
  | .lag => 3#3
  | .glb => 4#3

/-- The `Space` with a given code; none for a reserved code. -/
def Space.ofCode (c : BitVec 3) : Option Space :=
  match c.toNat with
  | 0 => some .priv
  | 1 => some .scr
  | 2 => some .clu
  | 3 => some .lag
  | 4 => some .glb
  | _ => none

/-- The access widths (R131). -/
inductive Width where
  | w8
  | w16
  | w32
  | w64
  | w128
  deriving DecidableEq, Repr

/-- The code of a `Width`. -/
def Width.code : Width → BitVec 3
  | .w8 => 0#3
  | .w16 => 1#3
  | .w32 => 2#3
  | .w64 => 3#3
  | .w128 => 4#3

/-- The `Width` with a given code; none for a reserved code. -/
def Width.ofCode (c : BitVec 3) : Option Width :=
  match c.toNat with
  | 0 => some .w8
  | 1 => some .w16
  | 2 => some .w32
  | 3 => some .w64
  | 4 => some .w128
  | _ => none

/-- Rounding codes (R75, Table 4-6). -/
inductive Round where
  | rn
  | rz
  | ru
  | rd
  | ra
  | dyn
  deriving DecidableEq, Repr

/-- The code of a `Round`. -/
def Round.code : Round → BitVec 3
  | .rn => 0#3
  | .rz => 1#3
  | .ru => 2#3
  | .rd => 3#3
  | .ra => 4#3
  | .dyn => 7#3

/-- The `Round` with a given code; none for a reserved code. -/
def Round.ofCode (c : BitVec 3) : Option Round :=
  match c.toNat with
  | 0 => some .rn
  | 1 => some .rz
  | 2 => some .ru
  | 3 => some .rd
  | 4 => some .ra
  | 7 => some .dyn
  | _ => none

/-- Integer compare conditions (R131). -/
inductive Cc where
  | eq
  | ne
  | lt
  | le
  | gt
  | ge
  deriving DecidableEq, Repr

/-- The code of a `Cc`. -/
def Cc.code : Cc → BitVec 3
  | .eq => 0#3
  | .ne => 1#3
  | .lt => 2#3
  | .le => 3#3
  | .gt => 4#3
  | .ge => 5#3

/-- The `Cc` with a given code; none for a reserved code. -/
def Cc.ofCode (c : BitVec 3) : Option Cc :=
  match c.toNat with
  | 0 => some .eq
  | 1 => some .ne
  | 2 => some .lt
  | 3 => some .le
  | 4 => some .gt
  | 5 => some .ge
  | _ => none

/-- Floating-point compare conditions (Table 9-4). -/
inductive FCc where
  | eq
  | ne
  | lt
  | le
  | gt
  | ge
  | un
  | ord
  deriving DecidableEq, Repr

/-- The code of a `FCc`. -/
def FCc.code : FCc → BitVec 3
  | .eq => 0#3
  | .ne => 1#3
  | .lt => 2#3
  | .le => 3#3
  | .gt => 4#3
  | .ge => 5#3
  | .un => 6#3
  | .ord => 7#3

/-- The `FCc` with a given code; none for a reserved code. -/
def FCc.ofCode (c : BitVec 3) : Option FCc :=
  match c.toNat with
  | 0 => some .eq
  | 1 => some .ne
  | 2 => some .lt
  | 3 => some .le
  | 4 => some .gt
  | 5 => some .ge
  | 6 => some .un
  | _ => some .ord

/-- CSCAN operations (R131, R161). -/
inductive ScanOp where
  | add
  | min
  | max
  | and
  | or
  | xor
  | fadd
  deriving DecidableEq, Repr

/-- The code of a `ScanOp`. -/
def ScanOp.code : ScanOp → BitVec 3
  | .add => 0#3
  | .min => 1#3
  | .max => 2#3
  | .and => 3#3
  | .or => 4#3
  | .xor => 5#3
  | .fadd => 6#3

/-- The `ScanOp` with a given code; none for a reserved code. -/
def ScanOp.ofCode (c : BitVec 3) : Option ScanOp :=
  match c.toNat with
  | 0 => some .add
  | 1 => some .min
  | 2 => some .max
  | 3 => some .and
  | 4 => some .or
  | 5 => some .xor
  | 6 => some .fadd
  | _ => none

/-- CRED operations (R135, R160). -/
inductive CredOp where
  | add
  | min
  | max
  | and
  | or
  | xor
  | fadd
  | fmin
  | fmax
  deriving DecidableEq, Repr

/-- The code of a `CredOp`. -/
def CredOp.code : CredOp → BitVec 4
  | .add => 0#4
  | .min => 1#4
  | .max => 2#4
  | .and => 3#4
  | .or => 4#4
  | .xor => 5#4
  | .fadd => 6#4
  | .fmin => 7#4
  | .fmax => 8#4

/-- The `CredOp` with a given code; none for a reserved code. -/
def CredOp.ofCode (c : BitVec 4) : Option CredOp :=
  match c.toNat with
  | 0 => some .add
  | 1 => some .min
  | 2 => some .max
  | 3 => some .and
  | 4 => some .or
  | 5 => some .xor
  | 6 => some .fadd
  | 7 => some .fmin
  | 8 => some .fmax
  | _ => none

/-- ATOM and RED operations (R192). -/
inductive AtomOp where
  | add
  | minS
  | minN
  | maxS
  | maxN
  | and
  | or
  | xor
  | exch
  | fadd
  | fmin
  | fmax
  deriving DecidableEq, Repr

/-- The code of a `AtomOp`. -/
def AtomOp.code : AtomOp → BitVec 4
  | .add => 0#4
  | .minS => 1#4
  | .minN => 2#4
  | .maxS => 3#4
  | .maxN => 4#4
  | .and => 5#4
  | .or => 6#4
  | .xor => 7#4
  | .exch => 8#4
  | .fadd => 9#4
  | .fmin => 10#4
  | .fmax => 11#4

/-- The `AtomOp` with a given code; none for a reserved code. -/
def AtomOp.ofCode (c : BitVec 4) : Option AtomOp :=
  match c.toNat with
  | 0 => some .add
  | 1 => some .minS
  | 2 => some .minN
  | 3 => some .maxS
  | 4 => some .maxN
  | 5 => some .and
  | 6 => some .or
  | 7 => some .xor
  | 8 => some .exch
  | 9 => some .fadd
  | 10 => some .fmin
  | 11 => some .fmax
  | _ => none

/-- INSP target of BARW and of requests (R131, R204). -/
inductive InspTarget where
  | none
  | gang
  | band
  deriving DecidableEq, Repr

/-- The code of a `InspTarget`. -/
def InspTarget.code : InspTarget → BitVec 2
  | .none => 0#2
  | .gang => 1#2
  | .band => 2#2

/-- The `InspTarget` with a given code; none for a reserved code. -/
def InspTarget.ofCode (c : BitVec 2) : Option InspTarget :=
  match c.toNat with
  | 0 => some .none
  | 1 => some .gang
  | 2 => some .band
  | _ => none

/-- Completion sink kinds (R213). -/
inductive SinkKind where
  | token
  | arrival
  | counter
  | interrupt
  deriving DecidableEq, Repr

/-- The code of a `SinkKind`. -/
def SinkKind.code : SinkKind → BitVec 2
  | .token => 0#2
  | .arrival => 1#2
  | .counter => 2#2
  | .interrupt => 3#2

/-- The `SinkKind` with a given code; none for a reserved code. -/
def SinkKind.ofCode (c : BitVec 2) : Option SinkKind :=
  match c.toNat with
  | 0 => some .token
  | 1 => some .arrival
  | 2 => some .counter
  | _ => some .interrupt

/-- The floating-point operations of ATOM and RED (R192). -/
def AtomOp.isFloat : AtomOp → Bool
  | .fadd | .fmin | .fmax => true
  | _ => false

/-- Source A: a register, or the literal zero of SRCSEL[1] (R124). -/
inductive SrcA where
  | reg (r : Reg)
  | zero
  deriving DecidableEq, Repr

/-- Source B: a register, or IMM under SRCSEL[0] (R124). -/
inductive SrcB where
  | reg (r : Reg)
  | imm (v : Word)
  deriving DecidableEq, Repr

/-- The guard and the hints, which every instruction word carries (R122, R126 to R128). -/
structure Hdr where
  neg  : Bool
  pred : BitVec 3
  keep : Keep
  look : BitVec 4
  yld  : Bool
  solo : Bool
  deriving DecidableEq, Repr

/-- An IMM alone: BRA, CALL, SPLIT, TRAP, BKPT (Table 8-1). -/
structure OffArgs where
  off : BitVec 32
  deriving DecidableEq, Repr

/-- A register pair in B: BRX, CALLX (Table 8-1). -/
structure PairArgs where
  b : Reg
  deriving DecidableEq, Repr

/-- BRT: the index, the table offset and COUNT (Table 8-1, R140). -/
structure BrtArgs where
  a : Reg
  off : BitVec 32
  count : BitVec 11
  deriving DecidableEq, Repr

/-- YIELD: its count (Table 8-1). -/
structure CountArgs where
  n : BitVec 16
  deriving DecidableEq, Repr

/-- One source in B: SLEEP, CUT (Tables 8-1, 12-1). -/
structure OneArgs where
  b : SrcB
  deriving DecidableEq, Repr

/-- IRET: an instruction count from FPC, or a pair (Table 8-1). -/
structure IretArgs where
  b : SrcB
  deriving DecidableEq, Repr

/-- SVC: the reply register and the service number (Table 8-1). -/
structure SvcArgs where
  d : Reg
  n : BitVec 16
  deriving DecidableEq, Repr

/-- ADD, SUB, MUL: TY, SAT and two sources (Table 8-4). -/
structure IntSatArgs where
  ty : IntTy
  sat : Bool
  d : Reg
  a : SrcA
  b : SrcB
  deriving DecidableEq, Repr

/-- DIV, REM, MIN, MAX, ADDC, BFX: TY and two sources (Table 8-4). -/
structure IntTyArgs where
  ty : IntTy
  d : Reg
  a : SrcA
  b : SrcB
  deriving DecidableEq, Repr

/-- Bitwise, shifts and BFI: two sources (Table 8-4). -/
structure IntArgs where
  d : Reg
  a : SrcA
  b : SrcB
  deriving DecidableEq, Repr

/-- MULH: TY, a register and a source (Table 8-4). -/
structure MulhArgs where
  ty : IntTy
  d : Reg
  a : Reg
  b : SrcB
  deriving DecidableEq, Repr

/-- MAD: TY, SAT, a register and a source (Table 8-4). -/
structure MadArgs where
  ty : IntTy
  sat : Bool
  d : Reg
  a : Reg
  b : SrcB
  deriving DecidableEq, Repr

/-- MADW: TY, a destination pair and two sources (Table 8-4). -/
structure MadwArgs where
  ty : IntTy
  d : Reg
  a : Reg
  b : SrcB
  deriving DecidableEq, Repr

/-- ADD64, SUB64: pairs, or an immediate in B (Table 8-4). -/
structure WideArgs where
  d : Reg
  a : Reg
  b : SrcB
  deriving DecidableEq, Repr

/-- ABS, NEG: SAT and one register (Table 8-4). -/
structure UnSatArgs where
  sat : Bool
  d : Reg
  b : Reg
  deriving DecidableEq, Repr

/-- A destination and one register in B: CLZ, POPC, BREV, MATCH, FCLASS (Tables 8-4, 8-8, 9-1). -/
structure UnArgs where
  d : Reg
  b : Reg
  deriving DecidableEq, Repr

/-- LEA: TY, pairs, an index register and a shift (R151). -/
structure LeaArgs where
  ty : IntTy
  d : Reg
  a : SrcA
  b : Reg
  sh : BitVec 5
  deriving DecidableEq, Repr

/-- PRMB: two sources and the byte selector (R153). -/
structure PrmbArgs where
  d : Reg
  a : SrcA
  b : Reg
  pick : BitVec 16
  deriving DecidableEq, Repr

/-- SEL: two sources, a predicate and its negate bit (R153). -/
structure SelArgs where
  d : Reg
  a : SrcA
  b : Reg
  p : BitVec 3
  neg : Bool
  deriving DecidableEq, Repr

/-- A destination and one source: MOV, MWAIT (Tables 8-4, 10-1). -/
structure MovArgs where
  d : Reg
  b : SrcB
  deriving DecidableEq, Repr

/-- ICMP: CC, TY, a predicate and two sources (Table 8-7). -/
structure IcmpArgs where
  cc : Cc
  ty : IntTy
  p : BitVec 3
  a : SrcA
  b : SrcB
  deriving DecidableEq, Repr

/-- PLOP: four predicates and a truth table (R155). -/
structure PlopArgs where
  p : BitVec 3
  pa : BitVec 3
  pb : BitVec 3
  pc : BitVec 3
  table : BitVec 8
  deriving DecidableEq, Repr

/-- A destination register alone: P2G, MARK, STEAL, INSP.s. -/
structure DstArgs where
  d : Reg
  deriving DecidableEq, Repr

/-- A destination pair alone: JNEXT (Table 11-1). -/
structure DstPairArgs where
  d : Reg
  deriving DecidableEq, Repr

/-- G2P: a register and a predicate mask (R156). -/
structure G2pArgs where
  b : Reg
  mask : BitVec 7
  deriving DecidableEq, Repr

/-- SHFL: a value and a lane argument (Table 8-8). -/
structure ShflArgs where
  d : Reg
  a : Reg
  b : SrcB
  deriving DecidableEq, Repr

/-- VOTE.all, VOTE.any: predicates (Table 8-8). -/
structure VotePredArgs where
  p : BitVec 3
  pa : BitVec 3
  deriving DecidableEq, Repr

/-- VOTE.ballot, VOTE.count: a register and a predicate (Table 8-8). -/
structure VoteRegArgs where
  d : Reg
  pa : BitVec 3
  deriving DecidableEq, Repr

/-- CRED: TY, a destination and a value (Table 8-8). -/
structure CredArgs where
  ty : IntTy
  d : Reg
  b : SrcB
  deriving DecidableEq, Repr

/-- CSCAN: TY, the operation, a destination and a value (Table 8-8). -/
structure CscanArgs where
  ty : IntTy
  op : ScanOp
  d : Reg
  b : SrcB
  deriving DecidableEq, Repr

/-- ELECT: a predicate (Table 8-8). -/
structure ElectArgs where
  p : BitVec 3
  deriving DecidableEq, Repr

/-- FADD, FSUB, FMUL, FMA, FDIV: rounding, modifiers, saturation and two sources (Table 9-1). -/
structure FpArgs where
  rnd : Round
  na : Bool
  aa : Bool
  nb : Bool
  ab : Bool
  sat : Bool
  d : Reg
  a : SrcA
  b : SrcB
  deriving DecidableEq, Repr

/-- DADD, DMUL, DFMA: as FADD, over pairs (Table 9-1). -/
structure DpArgs where
  rnd : Round
  na : Bool
  aa : Bool
  nb : Bool
  ab : Bool
  sat : Bool
  d : Reg
  a : SrcA
  b : SrcB
  deriving DecidableEq, Repr

/-- FMIN, FMAX: modifiers and two sources (Table 9-1). -/
structure FminArgs where
  na : Bool
  aa : Bool
  nb : Bool
  ab : Bool
  d : Reg
  a : SrcA
  b : SrcB
  deriving DecidableEq, Repr

/-- FCMP: the condition, modifiers, a predicate and two sources (Table 9-1). -/
structure FcmpArgs where
  cc : FCc
  na : Bool
  aa : Bool
  nb : Bool
  ab : Bool
  p : BitVec 3
  a : SrcA
  b : SrcB
  deriving DecidableEq, Repr

/-- DCMP: as FCMP, over pairs (Table 9-1). -/
structure DcmpArgs where
  cc : FCc
  na : Bool
  aa : Bool
  nb : Bool
  ab : Bool
  p : BitVec 3
  a : SrcA
  b : SrcB
  deriving DecidableEq, Repr

/-- FRCP to FCOSP: rounding, modifiers of B, saturation and one source (Table 9-1). -/
structure FunArgs where
  rnd : Round
  nb : Bool
  ab : Bool
  sat : Bool
  d : Reg
  b : SrcB
  deriving DecidableEq, Repr

/-- FSCALE: rounding, modifiers of A, saturation, a register and a count (Table 9-1). -/
structure FscaleArgs where
  rnd : Round
  na : Bool
  aa : Bool
  sat : Bool
  d : Reg
  a : Reg
  b : SrcB
  deriving DecidableEq, Repr

/-- FRINT: rounding, modifiers of B and one source (Table 9-1). -/
structure FrintArgs where
  rnd : Round
  nb : Bool
  ab : Bool
  d : Reg
  b : SrcB
  deriving DecidableEq, Repr

/-- FCVT: two entries, rounding and registers (R175). -/
structure FcvtArgs where
  ed : BitVec 5
  d : Reg
  a : Reg
  es : BitVec 5
  rnd : Round
  deriving DecidableEq, Repr

/-- FTOI: rounding, TY and one register (R176). -/
structure FtoiArgs where
  rnd : Round
  ty : IntTy
  d : Reg
  b : Reg
  deriving DecidableEq, Repr

/-- ITOF: rounding, TY and one source (R176). -/
structure ItofArgs where
  rnd : Round
  ty : IntTy
  d : Reg
  b : SrcB
  deriving DecidableEq, Repr

/-- HADD2, HMUL2, HFMA2: rounding, modifiers, saturation and the entry (Table 9-1). -/
structure PackedArgs where
  rnd : Round
  na : Bool
  aa : Bool
  nb : Bool
  ab : Bool
  sat : Bool
  d : Reg
  a : SrcA
  b : Reg
  e : BitVec 5
  deriving DecidableEq, Repr

/-- FDOT2, FDOT4: three registers and two entries (R179). -/
structure FdotArgs where
  d : Reg
  a : Reg
  b : Reg
  ea : BitVec 5
  eb : BitVec 5
  deriving DecidableEq, Repr

/-- Three pairs: CMUL, CWAIT (Tables 9-1, 11-1). -/
structure Pair3Args where
  d : Reg
  a : Reg
  b : Reg
  deriving DecidableEq, Repr

/-- LD, ST: space, width, hint, an address and an offset (Table 10-1). -/
structure MemArgs where
  space : Space
  width : Width
  hint : BitVec 2
  d : Reg
  a : SrcA
  off : BitVec 32
  deriving DecidableEq, Repr

/-- LDF, STF: width, a line address and an element number; the space is `.glb` (R187). -/
structure ElemArgs where
  width : Width
  d : Reg
  a : Reg
  e : BitVec 32
  deriving DecidableEq, Repr

/-- PREF: hint, an address and an offset; the space is `.glb` (R189). -/
structure PrefArgs where
  hint : BitVec 2
  a : SrcA
  off : BitVec 32
  deriving DecidableEq, Repr

/-- CINV: a base and a length; the space is `.glb` (R190). -/
structure CinvArgs where
  a : Reg
  len : SrcB
  deriving DecidableEq, Repr

/-- ATOM, ATOMCAS: space, width, scope, hint, an address, an operand and an offset (Table 10-1). -/
structure AtomArgs where
  space : Space
  width : Width
  scope : BitVec 3
  hint : BitVec 2
  d : Reg
  a : SrcA
  b : Reg
  off : BitVec 32
  deriving DecidableEq, Repr

/-- RED: the operation in D, then as ATOM (R194). -/
structure RedArgs where
  op : AtomOp
  space : Space
  width : Width
  scope : BitVec 3
  hint : BitVec 2
  a : SrcA
  b : Reg
  off : BitVec 32
  deriving DecidableEq, Repr

/-- ATOMB: as ATOM at width 2 (R195). -/
structure AtombArgs where
  space : Space
  scope : BitVec 3
  hint : BitVec 2
  d : Reg
  a : SrcA
  b : Reg
  off : BitVec 32
  deriving DecidableEq, Repr

/-- INSP.t, .g, .b: the scope, the status register and the handle (R196). -/
structure InspArgs where
  scope : BitVec 3
  d : Reg
  a : Reg
  deriving DecidableEq, Repr

/-- INSP.a: space, scope, the status register, a base and a length (R196). -/
structure InspRangeArgs where
  space : Space
  scope : BitVec 3
  d : Reg
  a : Reg
  len : SrcB
  deriving DecidableEq, Repr

/-- MONITOR: space, an address and an offset (R199). -/
structure MonitorArgs where
  space : Space
  a : SrcA
  off : BitVec 32
  deriving DecidableEq, Repr

/-- BARINIT: space, the object address and the count (R202). -/
structure BarinitArgs where
  space : Space
  a : Reg
  n : SrcB
  deriving DecidableEq, Repr

/-- BARA: space, the phase register, the object address and the units (R203). -/
structure BaraArgs where
  space : Space
  d : Reg
  a : Reg
  n : SrcB
  deriving DecidableEq, Repr

/-- BARW: space, target, scope, the phase register, the object address and the awaited phase (R204). -/
structure BarwArgs where
  space : Space
  target : InspTarget
  scope : BitVec 3
  d : Reg
  a : Reg
  b : Reg
  deriving DecidableEq, Repr

/-- ELIDE: the lock word register, its address and the fallback offset; the space is `.glb` (R205). -/
structure ElideArgs where
  d : Reg
  a : Reg
  off : BitVec 32
  deriving DecidableEq, Repr

/-- COPY: the sink, source and destination spaces less one, pairs and the length (Table 11-1). -/
structure CopyArgs where
  kind : SinkKind
  target : InspTarget
  sc : BitVec 3
  ss : BitVec 2
  ds : BitVec 2
  d : Reg
  a : Reg
  b : Reg
  len : BitVec 32
  deriving DecidableEq, Repr

/-- KICK: the sink, the list address and the item count (R218). -/
structure KickArgs where
  kind : SinkKind
  target : InspTarget
  sc : BitVec 3
  d : Reg
  a : Reg
  n : SrcB
  deriving DecidableEq, Repr

/-- TILEH: the descriptor address and the handle slot (R221). -/
structure TilehArgs where
  a : Reg
  slot : BitVec 6
  deriving DecidableEq, Repr

/-- TILEF: the sink, the slot and set word, and the destination offset (R224). -/
structure TilefArgs where
  kind : SinkKind
  target : InspTarget
  sc : BitVec 3
  d : Reg
  a : Reg
  b : Reg
  deriving DecidableEq, Repr

/-- FABX: the sink, the source space less one, pairs and the length (R220). -/
structure FabxArgs where
  kind : SinkKind
  target : InspTarget
  sc : BitVec 3
  ss : BitVec 2
  d : Reg
  a : Reg
  b : Reg
  len : BitVec 32
  deriving DecidableEq, Repr

/-- MMA: the sink and the parameter block address (R226). -/
structure MmaArgs where
  kind : SinkKind
  target : InspTarget
  sc : BitVec 3
  d : Reg
  a : Reg
  deriving DecidableEq, Repr

/-- MLOADB: the sink, the load word, the offsets and K (R225). -/
structure MloadbArgs where
  kind : SinkKind
  target : InspTarget
  sc : BitVec 3
  d : Reg
  a : Reg
  b : Reg
  k : BitVec 32
  deriving DecidableEq, Repr

/-- MREAD, MWRITE: a register, an element index and an offset (R230). -/
structure AccArgs where
  d : Reg
  a : SrcA
  off : BitVec 32
  deriving DecidableEq, Repr

/-- MZERO: the first row and the row count (R230). -/
structure MzeroArgs where
  a : SrcA
  n : BitVec 32
  deriving DecidableEq, Repr

/-- QPUT: G, the index register, the source offset and the pipe (R231). -/
structure QputArgs where
  g : Bool
  d : Reg
  a : Reg
  pipe : BitVec 2
  deriving DecidableEq, Repr

/-- QGET: the index register, the destination offset and the pipe (R231). -/
structure QgetArgs where
  d : Reg
  a : Reg
  pipe : BitVec 2
  deriving DecidableEq, Repr

/-- QCOUNT: the count register and the pipe (R231). -/
structure QcountArgs where
  d : Reg
  pipe : BitVec 2
  deriving DecidableEq, Repr

/-- MSEND: status, source offset, destination gang, length and tag (R232). -/
structure MsendArgs where
  d : Reg
  a : Reg
  b : Reg
  len : BitVec 9
  tag : BitVec 16
  deriving DecidableEq, Repr

/-- MPOST: the handle register, buffer offset, match word and size (R233). -/
structure MpostArgs where
  d : Reg
  a : Reg
  b : Reg
  size : BitVec 9
  deriving DecidableEq, Repr

/-- MTEST: W, the status pair and the receive handle (R234). -/
structure MtestArgs where
  w : Bool
  d : Reg
  a : Reg
  deriving DecidableEq, Repr

/-- JSPAWN: status, the card VA and the stream (R235). -/
structure JspawnArgs where
  d : Reg
  a : Reg
  b : SrcB
  deriving DecidableEq, Repr

/-- POSTI: status, designator and payload (R237). -/
structure PostiArgs where
  d : Reg
  a : Reg
  b : Reg
  deriving DecidableEq, Repr

/-- TRY: K - 1, L - 1, steal, the first window register and the table offset (Table 12-1). -/
structure TryArgs where
  cnt : BitVec 4
  wlen : BitVec 5
  steal : Bool
  d : Reg
  off : BitVec 32
  deriving DecidableEq, Repr

/-- TRAILW: the first register and their number (Table 12-1). -/
structure TrailwArgs where
  a : Reg
  n : BitVec 6
  deriving DecidableEq, Repr

/-- FMTSET: the sink, the image pair and the entry (R253). -/
structure FmtsetArgs where
  kind : SinkKind
  sc : BitVec 3
  d : Reg
  a : Reg
  n : BitVec 5
  deriving DecidableEq, Repr

/-- FMTGET: the image pair and the entry (R254). -/
structure FmtgetArgs where
  d : Reg
  n : BitVec 5
  deriving DecidableEq, Repr

/-- MOVS, SETS: a register and a special register index (R137). -/
structure SpecArgs where
  d : Reg
  idx : BitVec 12
  deriving DecidableEq, Repr

/-- A Causeway frame as it arrives: whether MACsec validates it, its header and its payload (R289, R290). -/
structure CwFrame where
  valid   : Bool
  port    : Nat
  channel : Nat
  assoc   : Nat
  header  : BitVec 256
  payload : List (BitVec 8)
  deriving DecidableEq, Repr

/-- A MACsec key that the firmware loads: the direction, the secure channel and one of its two associations, the key, and
the partition that the channel is assigned to (R289). -/
structure MacsecKey where
  transmit : Bool
  channel  : Nat
  assoc    : Nat
  key      : BitVec 256
  part     : Nat
  deriving DecidableEq, Repr

/-- What receives a flit of another partition (R286, R396): the L1 of a core, a home slice, a bank of an isle's Lagoon, or
the front end of an isle. -/
inductive FlitReceiver where
  | l1 (core : Nat)
  | slice (slice : Nat)
  | bank (isle bank : Nat)
  | frontEnd (isle : Nat)
  deriving DecidableEq, Repr

/-- A port of the package (R276, R288): the memory port of an isle, a core's port, an Ethernet port, or a Strait
boundary. -/
inductive Port where
  | memory (isle : Nat)
  | core (core : Nat)
  | ethernet (port : Nat)
  | strait (boundary : Nat)
  deriving DecidableEq, Repr

/-- What the boot meets (R315, R316): the header and the image verify or not, their hashes, and the ports that fail to
train. -/
structure BootInput where
  headerOk   : Bool
  headerHash : BitVec 384
  imageOk    : Bool
  imageHash  : BitVec 384
  failed     : List Port
  deriving DecidableEq, Repr

/-- What the scrubber reads (Table 27-1). -/
inductive ScrubTarget where
  | reg (thread : Nat) (r : Reg)
  | entry (thread seq : Nat)
  | scratch (gang word : Nat)
  | cluster (core word : Nat)
  | priv (thread word : Nat)
  | lagoon (isle word : Nat)
  | acc (core element : Nat)
  | matrix (core m : Nat)
  | l1 (core asid line : Nat)
  | l2 (slice asid line : Nat)
  | code (core asid line : Nat)
  | loop (core : Nat)
  | tlb (isle asid va : Nat)
  | tag (slice asid line : Nat)
  | control (thread : Nat)
  | dram (isle key : Nat)
  | replica (asid line die : Nat)
  | unscrubbed (isle page : Nat)
  | coreImage (part core : Nat)
  | lagoonImage (part isle : Nat)
  deriving DecidableEq, Repr

/-- What a code says of a word (R413). -/
inductive EccResult where
  | clean
  | corrected
  | uncorrectable
  deriving DecidableEq, Repr

/-- A stage of a die warm reset (R417 to R419): it begins, with the partitions that continue; the die is reset; a lane
is repaired; the die is readmitted, or stays out of service. -/
inductive DieStage where
  | start (continuing : List Nat)
  | reset
  | repaired (port : Port) (lane : Nat)
  | readmit
  | fail
  deriving DecidableEq, Repr

/-- A debugger's write into a stopped gang (R321). -/
inductive DebugWrite where
  | reg (thread : Nat) (r : Reg) (v : Word)
  | pred (thread : Nat) (p : BitVec 3) (v : Bool)
  | special (thread : Nat) (idx : BitVec 12) (v : DWord)
  | scratch (off : Nat) (v : Byte)
  | priv (thread off : Nat) (v : Byte)
  deriving DecidableEq, Repr

/-- A firmware write of a descriptor (R260, R300). -/
inductive DescriptorWrite where
  | stream (vdev stream : Nat) (image : BitVec 64)
  | vdev (vdev : Nat) (image : BitVec 192) (asid root : Nat)
  deriving DecidableEq, Repr

/-- A pair of the remap filter: contexts and VAs of a secondary page and its primary, of equal size (R57). -/
structure RemapPair where
  asid  : Nat
  page  : Nat
  pasid : Nat
  ppage : Nat
  size  : Nat
  deriving DecidableEq, Repr

/-- One constructor per row of the opcode table. Instruction forms carry the header and the operands of
their word; the other rows are steps of the machine's agents, and carry what the agent chooses. -/
inductive Instr where
  /-- Changes nothing (R145). -/
  | nop (h : Hdr)
  /-- Branches relative to the next instruction (R139). -/
  | bra (h : Hdr) (x : OffArgs)
  /-- Branches to an absolute address (R139). -/
  | brx (h : Hdr) (x : PairArgs)
  /-- Branches through a table (R140). -/
  | brt (h : Hdr) (x : BrtArgs)
  /-- Pushes a call frame and branches (R139, R141). -/
  | call (h : Hdr) (x : OffArgs)
  /-- Pushes a call frame and branches to an absolute address (R139, R141). -/
  | callx (h : Hdr) (x : PairArgs)
  /-- Pops a call frame (R141). -/
  | ret (h : Hdr)
  /-- Ends the thread (R28, R144). -/
  | exit (h : Hdr)
  /-- Pushes a rejoin record (R26, R143). -/
  | split (h : Hdr) (x : OffArgs)
  /-- Waits at a rejoin PC (R27, R143). -/
  | join (h : Hdr)
  /-- Leaves the threads out of issue for some cycles (R145). -/
  | yield (h : Hdr) (x : CountArgs)
  /-- Stalls the thread for some isle cycles (R145). -/
  | sleep (h : Hdr) (x : OneArgs)
  /-- Raises SOFTWARE (R146). -/
  | trap (h : Hdr) (x : OffArgs)
  /-- Returns from the handler (R148). -/
  | iret (h : Hdr) (x : IretArgs)
  /-- Raises BREAKPOINT or stops for the debugger (R146). -/
  | bkpt (h : Hdr) (x : OffArgs)
  /-- Asks the runtime for a service (R147). -/
  | svc (h : Hdr) (x : SvcArgs)
  /-- Sum (R149). -/
  | add (h : Hdr) (x : IntSatArgs)
  /-- Difference (R149). -/
  | sub (h : Hdr) (x : IntSatArgs)
  /-- Product (R149). -/
  | mul (h : Hdr) (x : IntSatArgs)
  /-- High half of the product (R149). -/
  | mulh (h : Hdr) (x : MulhArgs)
  /-- Product plus destination (R149). -/
  | mad (h : Hdr) (x : MadArgs)
  /-- Product added to a pair (R149). -/
  | madw (h : Hdr) (x : MadwArgs)
  /-- Quotient (R150). -/
  | div (h : Hdr) (x : IntTyArgs)
  /-- Remainder (R150). -/
  | rem (h : Hdr) (x : IntTyArgs)
  /-- Lesser (R149). -/
  | min (h : Hdr) (x : IntTyArgs)
  /-- Greater (R149). -/
  | max (h : Hdr) (x : IntTyArgs)
  /-- Magnitude (R149). -/
  | abs (h : Hdr) (x : UnSatArgs)
  /-- Negation (R149). -/
  | neg (h : Hdr) (x : UnSatArgs)
  /-- Carry or overflow of a sum (R149). -/
  | addc (h : Hdr) (x : IntTyArgs)
  /-- Base pair plus shifted index (R151). -/
  | lea (h : Hdr) (x : LeaArgs)
  /-- Sum of pairs (R149). -/
  | add64 (h : Hdr) (x : WideArgs)
  /-- Difference of pairs (R149). -/
  | sub64 (h : Hdr) (x : WideArgs)
  /-- Bitwise and (R149). -/
  | and (h : Hdr) (x : IntArgs)
  /-- Bitwise or (R149). -/
  | or (h : Hdr) (x : IntArgs)
  /-- Bitwise exclusive or (R149). -/
  | xor (h : Hdr) (x : IntArgs)
  /-- Bitwise and-not (R149). -/
  | andn (h : Hdr) (x : IntArgs)
  /-- Left shift (R152). -/
  | shl (h : Hdr) (x : IntArgs)
  /-- Logical right shift (R152). -/
  | shr (h : Hdr) (x : IntArgs)
  /-- Arithmetic right shift (R152). -/
  | sar (h : Hdr) (x : IntArgs)
  /-- Left rotation (R152). -/
  | rotl (h : Hdr) (x : IntArgs)
  /-- Leading zeros (R149). -/
  | clz (h : Hdr) (x : UnArgs)
  /-- Ones (R149). -/
  | popc (h : Hdr) (x : UnArgs)
  /-- Bit reversal (R149). -/
  | brev (h : Hdr) (x : UnArgs)
  /-- Bit-field extraction (R152). -/
  | bfx (h : Hdr) (x : IntTyArgs)
  /-- Bit-field insertion (R152). -/
  | bfi (h : Hdr) (x : IntArgs)
  /-- Byte selection (R153). -/
  | prmb (h : Hdr) (x : PrmbArgs)
  /-- Copy (R149). -/
  | mov (h : Hdr) (x : MovArgs)
  /-- Selection by a predicate (R153). -/
  | sel (h : Hdr) (x : SelArgs)
  /-- Integer compare (R154). -/
  | icmp (h : Hdr) (x : IcmpArgs)
  /-- Predicate logic (R155). -/
  | plop (h : Hdr) (x : PlopArgs)
  /-- Predicates to a register (R156). -/
  | p2g (h : Hdr) (x : DstArgs)
  /-- Register to predicates (R156). -/
  | g2p (h : Hdr) (x : G2pArgs)
  /-- Value of a lane by index (R158). -/
  | shflIdx (h : Hdr) (x : ShflArgs)
  /-- Value of a lower lane (R158). -/
  | shflUp (h : Hdr) (x : ShflArgs)
  /-- Value of a higher lane (R158). -/
  | shflDown (h : Hdr) (x : ShflArgs)
  /-- Value of a lane by exclusive or (R158). -/
  | shflXor (h : Hdr) (x : ShflArgs)
  /-- And of the contributors' predicates (R159). -/
  | voteAll (h : Hdr) (x : VotePredArgs)
  /-- Or of the contributors' predicates (R159). -/
  | voteAny (h : Hdr) (x : VotePredArgs)
  /-- Lanes whose predicate is true (R159). -/
  | voteBallot (h : Hdr) (x : VoteRegArgs)
  /-- Number of lanes whose predicate is true (R159). -/
  | voteCount (h : Hdr) (x : VoteRegArgs)
  /-- Reduction over the crew (R160). -/
  | cred (h : Hdr) (op : CredOp) (x : CredArgs)
  /-- Inclusive scan over the crew (R161). -/
  | cscan (h : Hdr) (x : CscanArgs)
  /-- Lanes with an equal value (R162). -/
  | matchLanes (h : Hdr) (x : UnArgs)
  /-- Lowest contributor (R162). -/
  | elect (h : Hdr) (x : ElectArgs)
  /-- FP32 sum (R167). -/
  | fadd (h : Hdr) (x : FpArgs)
  /-- FP32 difference (R167). -/
  | fsub (h : Hdr) (x : FpArgs)
  /-- FP32 product (R167). -/
  | fmul (h : Hdr) (x : FpArgs)
  /-- FP32 fused multiply-add (R167). -/
  | fma (h : Hdr) (x : FpArgs)
  /-- FP32 lesser (R169). -/
  | fmin (h : Hdr) (x : FminArgs)
  /-- FP32 greater (R169). -/
  | fmax (h : Hdr) (x : FminArgs)
  /-- FP32 compare (R170). -/
  | fcmp (h : Hdr) (x : FcmpArgs)
  /-- FP32 quotient (R167). -/
  | fdiv (h : Hdr) (x : FpArgs)
  /-- Reciprocal (R171). -/
  | frcp (h : Hdr) (x : FunArgs)
  /-- Reciprocal square root (R171). -/
  | frsq (h : Hdr) (x : FunArgs)
  /-- Square root (R171). -/
  | fsqrt (h : Hdr) (x : FunArgs)
  /-- Power of two (R171). -/
  | fexp2 (h : Hdr) (x : FunArgs)
  /-- Logarithm to base two (R171). -/
  | flog2 (h : Hdr) (x : FunArgs)
  /-- Sine of pi times the operand (R171). -/
  | fsinp (h : Hdr) (x : FunArgs)
  /-- Cosine of pi times the operand (R171). -/
  | fcosp (h : Hdr) (x : FunArgs)
  /-- Scaling by a power of two (R172). -/
  | fscale (h : Hdr) (x : FscaleArgs)
  /-- Class of an FP32 value (R173). -/
  | fclass (h : Hdr) (x : UnArgs)
  /-- Rounding to an integral value (R174). -/
  | frint (h : Hdr) (x : FrintArgs)
  /-- Conversion between entries (R175). -/
  | fcvt (h : Hdr) (x : FcvtArgs)
  /-- FP32 to integer (R176). -/
  | ftoi (h : Hdr) (x : FtoiArgs)
  /-- Integer to FP32 (R176). -/
  | itof (h : Hdr) (x : ItofArgs)
  /-- FP64 sum (R177). -/
  | dadd (h : Hdr) (x : DpArgs)
  /-- FP64 product (R177). -/
  | dmul (h : Hdr) (x : DpArgs)
  /-- FP64 fused multiply-add (R177). -/
  | dfma (h : Hdr) (x : DpArgs)
  /-- FP64 compare (R177). -/
  | dcmp (h : Hdr) (x : DcmpArgs)
  /-- Packed sum (R178). -/
  | hadd2 (h : Hdr) (x : PackedArgs)
  /-- Packed product (R178). -/
  | hmul2 (h : Hdr) (x : PackedArgs)
  /-- Packed fused multiply-add (R178). -/
  | hfma2 (h : Hdr) (x : PackedArgs)
  /-- Exact dot product of two 16-bit elements (R179). -/
  | fdot2 (h : Hdr) (x : FdotArgs)
  /-- Exact dot product of four 8-bit elements (R179). -/
  | fdot4 (h : Hdr) (x : FdotArgs)
  /-- Complex multiply-add (R180). -/
  | cmul (h : Hdr) (x : Pair3Args)
  /-- Load (R185). -/
  | ld (h : Hdr) (x : MemArgs)
  /-- Load that binds after earlier loads (R185, R93). -/
  | ldAfter (h : Hdr) (x : MemArgs)
  /-- Store (R186). -/
  | st (h : Hdr) (x : MemArgs)
  /-- Formatted load (R187). -/
  | ldf (h : Hdr) (x : ElemArgs)
  /-- Formatted store (R188). -/
  | stf (h : Hdr) (x : ElemArgs)
  /-- Prefetch (R189). -/
  | pref (h : Hdr) (x : PrefArgs)
  /-- Drops data lines (R190). -/
  | cinvD (h : Hdr) (x : CinvArgs)
  /-- Drops instruction lines (R190). -/
  | cinvI (h : Hdr) (x : CinvArgs)
  /-- Drops instruction lines and restarts issue (R190). -/
  | cinvIf (h : Hdr) (x : CinvArgs)
  /-- Atomic sum (R192). -/
  | atomAdd (h : Hdr) (x : AtomArgs)
  /-- Atomic signed lesser (R192). -/
  | atomMinS (h : Hdr) (x : AtomArgs)
  /-- Atomic unsigned lesser (R192). -/
  | atomMinN (h : Hdr) (x : AtomArgs)
  /-- Atomic signed greater (R192). -/
  | atomMaxS (h : Hdr) (x : AtomArgs)
  /-- Atomic unsigned greater (R192). -/
  | atomMaxN (h : Hdr) (x : AtomArgs)
  /-- Atomic and (R192). -/
  | atomAnd (h : Hdr) (x : AtomArgs)
  /-- Atomic or (R192). -/
  | atomOr (h : Hdr) (x : AtomArgs)
  /-- Atomic exclusive or (R192). -/
  | atomXor (h : Hdr) (x : AtomArgs)
  /-- Atomic exchange (R192). -/
  | atomExch (h : Hdr) (x : AtomArgs)
  /-- Atomic FP32 sum (R192). -/
  | atomFadd (h : Hdr) (x : AtomArgs)
  /-- Atomic FP32 lesser (R192). -/
  | atomFmin (h : Hdr) (x : AtomArgs)
  /-- Atomic FP32 greater (R192). -/
  | atomFmax (h : Hdr) (x : AtomArgs)
  /-- Atomic compare and swap (R193). -/
  | atomcas (h : Hdr) (x : AtomArgs)
  /-- Atomic operation without a result (R194). -/
  | red (h : Hdr) (x : RedArgs)
  /-- Bounded increment (R195). -/
  | atombInc (h : Hdr) (x : AtombArgs)
  /-- Bounded decrement (R195). -/
  | atombDec (h : Hdr) (x : AtombArgs)
  /-- Inspects a thread (R196). -/
  | inspT (h : Hdr) (x : InspArgs)
  /-- Inspects a gang (R196). -/
  | inspG (h : Hdr) (x : InspArgs)
  /-- Inspects a band (R196). -/
  | inspB (h : Hdr) (x : InspArgs)
  /-- Inspects an address range (R196). -/
  | inspA (h : Hdr) (x : InspRangeArgs)
  /-- Inspects nothing (R196). -/
  | inspS (h : Hdr) (x : DstArgs)
  /-- Arms the watch (R199). -/
  | monitor (h : Hdr) (x : MonitorArgs)
  /-- Waits for a watch event (R200). -/
  | mwait (h : Hdr) (x : MovArgs)
  /-- Initialises an arrival object (R202). -/
  | barinit (h : Hdr) (x : BarinitArgs)
  /-- Arrives at an object (R203). -/
  | bara (h : Hdr) (x : BaraArgs)
  /-- Waits for a phase (R204). -/
  | barw (h : Hdr) (x : BarwArgs)
  /-- Opens an elide section (R205). -/
  | elide (h : Hdr) (x : ElideArgs)
  /-- Commits an elide section (R206). -/
  | elend (h : Hdr)
  /-- Copies a range (R217). -/
  | copy (h : Hdr) (x : CopyArgs)
  /-- Performs a list of copies (R218). -/
  | kick (h : Hdr) (x : KickArgs)
  /-- Loads a tile descriptor (R221). -/
  | tileh (h : Hdr) (x : TilehArgs)
  /-- Fetches a tile image (R224). -/
  | tilef (h : Hdr) (x : TilefArgs)
  /-- Waits for a counter (R219). -/
  | cwait (h : Hdr) (x : Pair3Args)
  /-- Writes to a fabric window (R220). -/
  | fabxWr (h : Hdr) (x : FabxArgs)
  /-- Contributes to a reduction window (R220). -/
  | fabxRed (h : Hdr) (x : FabxArgs)
  /-- Matrix multiply-accumulate (R226). -/
  | mma (h : Hdr) (x : MmaArgs)
  /-- Loads B macros (R225). -/
  | mloadb (h : Hdr) (x : MloadbArgs)
  /-- Reads an accumulator element (R230). -/
  | mread (h : Hdr) (x : AccArgs)
  /-- Writes an accumulator element (R230). -/
  | mwrite (h : Hdr) (x : AccArgs)
  /-- Zeroes accumulator rows (R230). -/
  | mzero (h : Hdr) (x : MzeroArgs)
  /-- Appends to a pipe (R231). -/
  | qput (h : Hdr) (x : QputArgs)
  /-- Takes from a pipe (R231). -/
  | qget (h : Hdr) (x : QgetArgs)
  /-- Reads a pipe's count (R231). -/
  | qcount (h : Hdr) (x : QcountArgs)
  /-- Sends a message (R232). -/
  | msend (h : Hdr) (x : MsendArgs)
  /-- Posts a receive (R233). -/
  | mpost (h : Hdr) (x : MpostArgs)
  /-- Tests a receive (R234). -/
  | mtest (h : Hdr) (x : MtestArgs)
  /-- Places a card on a stream (R235). -/
  | jspawn (h : Hdr) (x : JspawnArgs)
  /-- Takes the next chunk (R236). -/
  | jnext (h : Hdr) (x : DstPairArgs)
  /-- Posts a user-level interrupt (R237). -/
  | posti (h : Hdr) (x : PostiArgs)
  /-- Pushes a try frame (R243). -/
  | tryAlt (h : Hdr) (x : TryArgs)
  /-- Leaves the current alternative (R245). -/
  | fail (h : Hdr)
  /-- Discards frames (R246). -/
  | cut (h : Hdr) (x : OneArgs)
  /-- Reads the depth (R246). -/
  | mark (h : Hdr) (x : DstArgs)
  /-- Takes an alternative from another lane (R248). -/
  | steal (h : Hdr) (x : DstArgs)
  /-- Trails registers (R244). -/
  | trailw (h : Hdr) (x : TrailwArgs)
  /-- Writes a format entry (R253). -/
  | fmtset (h : Hdr) (x : FmtsetArgs)
  /-- Reads a format entry (R254). -/
  | fmtget (h : Hdr) (x : FmtgetArgs)
  /-- Reads a special register (R256). -/
  | movs (h : Hdr) (x : SpecArgs)
  /-- Reads CYCL and latches CYCH (R256). -/
  | movsCycl (h : Hdr) (d : Reg)
  /-- Reads CYCH and uses up the latch (R256). -/
  | movsCych (h : Hdr) (d : Reg)
  /-- Writes a special register (R257). -/
  | sets (h : Hdr) (x : SpecArgs)
  /-- Writes TRB and TRP (R258). -/
  | setsTrb (h : Hdr) (d : Reg)
  /-- Writes FLG (R181, R258). -/
  | setsFlg (h : Hdr) (d : Reg)
  /-- Writes FRM (R181, R258). -/
  | setsFrm (h : Hdr) (d : Reg)
  /-- An inspection takes a target's cut point (R98). -/
  | inspTargetCut (insp : Nat) (thread : Nat)
  /-- An inspection completes (R97). -/
  | inspComplete (insp : Nat)
  /-- A section fails with a reason of Table 10-3 (R207). -/
  | elideSectionFail (thread : Nat) (reason : Nat)
  /-- A pending asynchronous fault is delivered (R364). -/
  | asyncFaultDeliver (thread : Nat)
  /-- An outstanding instruction completes (R128). -/
  | longLatencyComplete (thread : Nat) (order : Nat)
  /-- A load binds (R93). -/
  | loadBind (thread : Nat) (order : Nat)
  /-- A checked store enters the PSQ (R186). -/
  | storeCheckPass (thread : Nat)
  /-- A PSQ entry drains (R89). -/
  | psqEntryDrain (thread : Nat) (seq : Nat)
  /-- A PSQ entry reaches the drain age (R89). -/
  | drainAgeExpiry (thread : Nat) (seq : Nat)
  /-- The write-through queue performs its head (R90). -/
  | writeThroughPerform (core : Nat)
  /-- A home demands a merge (R285). -/
  | mergeDemand (core : Nat) (line : Nat)
  /-- A home applies a merge (R285). -/
  | mergeReceive (core : Nat) (line : Nat)
  /-- A Mirror update reaches a replica (R61). -/
  | mirrorPropagate (update : Nat) (die : Nat)
  /-- A replica acknowledges an update (R63). -/
  | mirrorReplicaAck (update : Nat) (die : Nat)
  /-- A page walk ends (R49). -/
  | translationWalkEnd (walk : Nat)
  /-- The runtime answers a parked access (R366). -/
  | parkedAccessResolved (thread : Nat) (installed : Bool)
  /-- The background clear of a page ends (R65). -/
  | unscrubbedClear (page : Nat)
  /-- A watched copy is lost (R200). -/
  | watchLossWake (core : Nat) (line : Nat)
  /-- An MWAIT times out (R200). -/
  | mwaitTimeout (thread : Nat)
  /-- A SLEEP ends (R145). -/
  | sleepExpiry (thread : Nat)
  /-- A YIELD ends (R145). -/
  | yieldExpiry (thread : Nat)
  /-- A copy engine performs a block (R217). -/
  | copyBlock (req : Nat) (block : Nat)
  /-- A request completes and its sink is updated (R214). -/
  | requestComplete (req : Nat)
  /-- A KICK item completes (R218). -/
  | kickItemComplete (req : Nat) (item : Nat)
  /-- Macros are loaded (R225). -/
  | mloadbComplete (req : Nat)
  /-- The matrix engine computes one K block (R228). -/
  | mmaKBlock (req : Nat)
  /-- An MMA completes (R228). -/
  | mmaComplete (req : Nat)
  /-- A core, or every core, holds the new entry (R253). -/
  | fmtsetComplete (req : Nat) (core : Option Nat)
  /-- A message arrives (R233). -/
  | messageArrival (msg : Nat)
  /-- An MSEND is answered (R232). -/
  | msendAnswer (msg : Nat)
  /-- A NACK is received (R279). -/
  | reqNackReceive (link : Nat) (entry : Nat)
  /-- A back-off ends (R279). -/
  | backoffExpiry (link : Nat)
  /-- A Causeway frame arrives (R291). -/
  | causewayFrameReceive (conn : Nat) (frame : CwFrame)
  /-- A cumulative acknowledgement arrives (R291). -/
  | causewayAckReceive (conn : Nat) (ackseq : Nat)
  /-- Unacknowledged frames are resent (R291). -/
  | causewayResendTimeout (conn : Nat)
  /-- A window table entry is written, and a connection opened where it names a new peer (R292, R293). -/
  | connectionOpen (part : Nat) (window : Nat) (entry : BitVec 256)
  /-- A merged result is written (R294). -/
  | mergedResultDeliver (part : Nat) (window : Nat)
  /-- Members are acknowledged (R295). -/
  | reductionAck (part : Nat) (window : Nat)
  /-- A window's generation is aborted (R405). -/
  | windowAbort (part : Nat) (window : Nat)
  /-- A cancel reaches a thief (R250). -/
  | cancelTakeEffect (thread : Nat)
  /-- The command processor admits a job (R261). -/
  | cardAdmit (isle : Nat)
  /-- Wait conditions are re-evaluated (R262). -/
  | jobWaitReevaluate (isle : Nat)
  /-- An admitted job starts (R37). -/
  | jobStart (job : Nat)
  /-- A gang is placed (R263). -/
  | gangPlace (job : Nat) (core : Nat) (slot : Nat)
  /-- A band is placed (R263). -/
  | bandPlace (job : Nat) (spots : List (Nat × Nat))
  /-- A gang retires (R39). -/
  | gangRetire (gang : Nat)
  /-- A job's sink is written (R32). -/
  | jobSinkWrite (job : Nat)
  /-- Budget counts are refilled (R268). -/
  | budgetPeriodRefill (isle : Nat)
  /-- A slice expires (R298). -/
  | timeSliceExpiry (part : Nat) (away : Bool)
  /-- A partition is pre-empted (R302). -/
  | preempt (part : Nat) (away : Bool)
  /-- Step 3 of a pre-emption ends (R404). -/
  | preemptStep3Bound (part : Nat)
  /-- A partition is resumed (R304). -/
  | resume (part : Nat)
  /-- The wait-for records are walked (R271). -/
  | waitForWalk (isle : Nat)
  /-- A wait is broken (R401). -/
  | breakWait (thread : Nat)
  /-- A page is purged (R56). -/
  | pagePurge (asid : Nat) (va : Nat) (pte : BitVec 64)
  /-- A secondary page is registered (R57). -/
  | remapRegister (part : Nat) (pair : RemapPair)
  /-- A key slot is loaded (R307). -/
  | keySlotLoad (slot : Nat) (blob : BitVec 512)
  /-- A partition is created (R314). -/
  | partitionCreate (part : Nat) (desc : BitVec 192) (pages : List Nat)
  /-- A partition is destroyed (R314). -/
  | partitionDestroy (part : Nat)
  /-- Updates to a replica are held (R323). -/
  | replicaHoldSet (part : Nat) (die : Nat) (line : Option (Nat × Nat)) (atStall : Bool)
  /-- A replica hold is released (R323). -/
  | replicaHoldRelease (part : Nat) (die : Nat)
  /-- A gang is stopped (R321). -/
  | debugStop (gang : Nat)
  /-- A stopped gang is single-stepped, at the PC that is named or the lowest one (R322). -/
  | singleStep (gang : Nat) (pc : Option Addr56)
  /-- The package is reset and boots up to its bring-up service (R315, R316). -/
  | packageReset (boot : BootInput)
  /-- Bring-up service ends (R317). -/
  | bringUpEnd
  /-- An isle changes its power state (R318). -/
  | islePowerChange (isle : Nat) (pstate : Nat)
  /-- A die is too hot (R319). -/
  | dieOvertemp (die : Nat)
  /-- A DRAM layer is too hot (R7). -/
  | dramOvertemp (isle : Nat)
  /-- Telemetry is refreshed (R320). -/
  | telemetryRefresh (isle : Nat)
  /-- A usage record is emitted (R311). -/
  | usageRecordEmit (part : Nat) (kind : Nat)
  /-- The scrubber reads a word, line or entry (R413, R414). -/
  | scrub (target : ScrubTarget) (result : EccResult)
  /-- A stage of the warm reset of a die (R417, R418). -/
  | dieWarmReset (die : Nat) (stage : DieStage)
  /-- A foreign flit is refused, and its requester sees an error reply (R394, R396). -/
  | foreignProbeRefuse (receiver : FlitReceiver) (part : Nat) (source : Nat) (thread : Nat) (order : Nat)
  /-- The runtime answers a service (R147). -/
  | svcReply (thread : Nat) (value : Word)
  /-- A stalling instruction completes (R21). -/
  | stallingInstructionComplete (thread : Nat)
  /-- A stopped gang is released (R367). -/
  | debugRelease (gang : Nat)
  /-- A gang's debug stop is enabled or disabled (R146). -/
  | debugStopEnable (gang : Nat) (on : Bool)
  /-- The debugger writes a stopped gang's state (R321). -/
  | debugStateWrite (gang : Nat) (write : DebugWrite)
  /-- A hot die has cooled (R319). -/
  | dieTempRecover (die : Nat)
  /-- A hot DRAM layer has cooled (R7). -/
  | dramTempRecover (isle : Nat)
  /-- A stream or virtual-device descriptor is written (R260). -/
  | streamDescriptorWrite (part : Nat) (write : DescriptorWrite)
  /-- Runtime threads are registered (R308). -/
  | runtimeThreadRegister (part : Nat) (threads : List Nat) (streams : List (Nat × Nat)) (principal : Nat)
  /-- A page table entry is installed (R51). -/
  | pteInstall (asid : Nat) (va : Nat) (pte : BitVec 64)
  /-- MACsec keys are loaded (R289). -/
  | macsecKeyLoad (port : Nat) (keys : List MacsecKey)
  /-- The runtime places a card (R345). -/
  | runtimeCardPlace (part : Nat) (vdev : Nat) (stream : Nat) (va : Nat)
  deriving DecidableEq, Repr

end Sys2Proof
end

