-- ==== Sys2Proof/WellFormed.lean ====
section
/-! DEFINITION. Which instructions a word can hold: register limits and pairs (R123), the field rules of each
class (R131, R132 and the field tables), and, apart from them, the scope codes (R136 steps 2 and 3). -/

namespace Sys2Proof

/-- The kernel declares `rc` registers: g0 to g(rc - 1) may be named (R123). -/
def regOk (rc : Nat) (r : Reg) : Bool := decide (r.toNat < rc)

/-- A 64-bit operand names an even register (R123). -/
def pairOk (rc : Nat) (r : Reg) : Bool := decide (r.toNat % 2 = 0 ∧ r.toNat + 1 < rc)

/-- A 128-bit operand names a multiple of four (R123). -/
def quadOk (rc : Nat) (r : Reg) : Bool := decide (r.toNat % 4 = 0 ∧ r.toNat + 3 < rc)

/-- A data register of the given width (Table of R185). -/
def dataOk (rc : Nat) (w : Width) (r : Reg) : Bool :=
  match w with
  | .w64 => pairOk rc r
  | .w128 => quadOk rc r
  | _ => regOk rc r

/-- An address register: a pair for `.glb`, one register for the other spaces (R183). -/
def addrOk (rc : Nat) (sp : Space) (r : Reg) : Bool :=
  if sp = .glb then pairOk rc r else regOk rc r

def SrcA.ok (rc : Nat) : SrcA → Bool
  | .reg r => regOk rc r
  | .zero => true

def SrcA.okPair (rc : Nat) : SrcA → Bool
  | .reg r => pairOk rc r
  | .zero => true

def SrcA.okAddr (a : SrcA) (sp : Space) (rc : Nat) : Bool :=
  match a with
  | .reg r => addrOk rc sp r
  | .zero => true

def SrcB.ok (rc : Nat) : SrcB → Bool
  | .reg r => regOk rc r
  | .imm _ => true

def SrcB.okPair (rc : Nat) : SrcB → Bool
  | .reg r => pairOk rc r
  | .imm _ => true

/-- A sink register: any register for a token, an even pair for the other kinds (R213). -/
def sinkOk (rc : Nat) (k : SinkKind) (r : Reg) : Bool :=
  if k = .token then regOk rc r else pairOk rc r

/-- Scope codes 6 and 7 are reserved (R132). -/
def scopeOk (c : BitVec 3) : Bool := decide (c.toNat < 6)

/-- The assigned special register indices (Table 7-8). -/
def specAssigned (c : BitVec 12) : Bool :=
  decide (c.toNat ≤ 0x1A ∨ (0x20 ≤ c.toNat ∧ c.toNat ≤ 0x2B))

/-- The special registers of 64 bits: ARGP, HND, FPC, FOPA, FOPB (Table 12-6). -/
def specIsWide (c : BitVec 12) : Bool :=
  c == 0x00D#12 || c == 0x015#12 || c == 0x021#12 || c == 0x024#12 || c == 0x025#12

/-- The field checks of `PairArgs` (R136 step 2). -/
def PairArgs.ok (rc : Nat) (x : PairArgs) : Bool :=
  pairOk rc x.b

/-- The field checks of `BrtArgs` (R136 step 2). -/
def BrtArgs.ok (rc : Nat) (x : BrtArgs) : Bool :=
  regOk rc x.a && x.count != 0#11

/-- The field checks of `OneArgs` (R136 step 2). -/
def OneArgs.ok (rc : Nat) (x : OneArgs) : Bool :=
  x.b.ok rc

/-- The field checks of `IretArgs` (R136 step 2). -/
def IretArgs.ok (rc : Nat) (x : IretArgs) : Bool :=
  x.b.okPair rc

/-- The field checks of `SvcArgs` (R136 step 2). -/
def SvcArgs.ok (rc : Nat) (x : SvcArgs) : Bool :=
  regOk rc x.d

/-- The field checks of `IntSatArgs` (R136 step 2). -/
def IntSatArgs.ok (rc : Nat) (x : IntSatArgs) : Bool :=
  regOk rc x.d && x.a.ok rc && x.b.ok rc

/-- The field checks of `IntTyArgs` (R136 step 2). -/
def IntTyArgs.ok (rc : Nat) (x : IntTyArgs) : Bool :=
  regOk rc x.d && x.a.ok rc && x.b.ok rc

/-- The field checks of `IntArgs` (R136 step 2). -/
def IntArgs.ok (rc : Nat) (x : IntArgs) : Bool :=
  regOk rc x.d && x.a.ok rc && x.b.ok rc

/-- The field checks of `MulhArgs` (R136 step 2). -/
def MulhArgs.ok (rc : Nat) (x : MulhArgs) : Bool :=
  regOk rc x.d && regOk rc x.a && x.b.ok rc

/-- The field checks of `MadArgs` (R136 step 2). -/
def MadArgs.ok (rc : Nat) (x : MadArgs) : Bool :=
  regOk rc x.d && regOk rc x.a && x.b.ok rc

/-- The field checks of `MadwArgs` (R136 step 2). -/
def MadwArgs.ok (rc : Nat) (x : MadwArgs) : Bool :=
  pairOk rc x.d && regOk rc x.a && x.b.ok rc

/-- The field checks of `WideArgs` (R136 step 2). -/
def WideArgs.ok (rc : Nat) (x : WideArgs) : Bool :=
  pairOk rc x.d && pairOk rc x.a && x.b.okPair rc

/-- The field checks of `UnSatArgs` (R136 step 2). -/
def UnSatArgs.ok (rc : Nat) (x : UnSatArgs) : Bool :=
  regOk rc x.d && regOk rc x.b

/-- The field checks of `UnArgs` (R136 step 2). -/
def UnArgs.ok (rc : Nat) (x : UnArgs) : Bool :=
  regOk rc x.d && regOk rc x.b

/-- The field checks of `LeaArgs` (R136 step 2). -/
def LeaArgs.ok (rc : Nat) (x : LeaArgs) : Bool :=
  pairOk rc x.d && x.a.okPair rc && regOk rc x.b

/-- The field checks of `PrmbArgs` (R136 step 2). -/
def PrmbArgs.ok (rc : Nat) (x : PrmbArgs) : Bool :=
  regOk rc x.d && x.a.ok rc && regOk rc x.b

/-- The field checks of `SelArgs` (R136 step 2). -/
def SelArgs.ok (rc : Nat) (x : SelArgs) : Bool :=
  regOk rc x.d && x.a.ok rc && regOk rc x.b

/-- The field checks of `MovArgs` (R136 step 2). -/
def MovArgs.ok (rc : Nat) (x : MovArgs) : Bool :=
  regOk rc x.d && x.b.ok rc

/-- The field checks of `IcmpArgs` (R136 step 2). -/
def IcmpArgs.ok (rc : Nat) (x : IcmpArgs) : Bool :=
  x.a.ok rc && x.b.ok rc

/-- The field checks of `DstArgs` (R136 step 2). -/
def DstArgs.ok (rc : Nat) (x : DstArgs) : Bool :=
  regOk rc x.d

/-- The field checks of `DstPairArgs` (R136 step 2). -/
def DstPairArgs.ok (rc : Nat) (x : DstPairArgs) : Bool :=
  pairOk rc x.d

/-- The field checks of `G2pArgs` (R136 step 2). -/
def G2pArgs.ok (rc : Nat) (x : G2pArgs) : Bool :=
  regOk rc x.b

/-- The field checks of `ShflArgs` (R136 step 2). -/
def ShflArgs.ok (rc : Nat) (x : ShflArgs) : Bool :=
  regOk rc x.d && regOk rc x.a && x.b.ok rc

/-- The field checks of `VoteRegArgs` (R136 step 2). -/
def VoteRegArgs.ok (rc : Nat) (x : VoteRegArgs) : Bool :=
  regOk rc x.d

/-- The field checks of `CredArgs` (R136 step 2). -/
def CredArgs.ok (rc : Nat) (x : CredArgs) : Bool :=
  regOk rc x.d && x.b.ok rc

/-- The field checks of `CscanArgs` (R136 step 2). -/
def CscanArgs.ok (rc : Nat) (x : CscanArgs) : Bool :=
  regOk rc x.d && x.b.ok rc && (x.ty == IntTy.s32 || x.op == ScanOp.min || x.op == ScanOp.max)

/-- The field checks of `FpArgs` (R136 step 2). -/
def FpArgs.ok (rc : Nat) (x : FpArgs) : Bool :=
  regOk rc x.d && x.a.ok rc && x.b.ok rc

/-- The field checks of `DpArgs` (R136 step 2). -/
def DpArgs.ok (rc : Nat) (x : DpArgs) : Bool :=
  pairOk rc x.d && x.a.okPair rc && x.b.okPair rc

/-- The field checks of `FminArgs` (R136 step 2). -/
def FminArgs.ok (rc : Nat) (x : FminArgs) : Bool :=
  regOk rc x.d && x.a.ok rc && x.b.ok rc

/-- The field checks of `FcmpArgs` (R136 step 2). -/
def FcmpArgs.ok (rc : Nat) (x : FcmpArgs) : Bool :=
  x.a.ok rc && x.b.ok rc

/-- The field checks of `DcmpArgs` (R136 step 2). -/
def DcmpArgs.ok (rc : Nat) (x : DcmpArgs) : Bool :=
  x.a.okPair rc && x.b.okPair rc

/-- The field checks of `FunArgs` (R136 step 2). -/
def FunArgs.ok (rc : Nat) (x : FunArgs) : Bool :=
  regOk rc x.d && x.b.ok rc

/-- The field checks of `FscaleArgs` (R136 step 2). -/
def FscaleArgs.ok (rc : Nat) (x : FscaleArgs) : Bool :=
  regOk rc x.d && regOk rc x.a && x.b.ok rc

/-- The field checks of `FrintArgs` (R136 step 2). -/
def FrintArgs.ok (rc : Nat) (x : FrintArgs) : Bool :=
  regOk rc x.d && x.b.ok rc

/-- The field checks of `FcvtArgs` (R136 step 2). -/
def FcvtArgs.ok (rc : Nat) (x : FcvtArgs) : Bool :=
  (if x.ed == 3#5 then pairOk rc x.d else regOk rc x.d) && (if x.es == 3#5 then pairOk rc x.a else regOk rc x.a)

/-- The field checks of `FtoiArgs` (R136 step 2). -/
def FtoiArgs.ok (rc : Nat) (x : FtoiArgs) : Bool :=
  regOk rc x.d && regOk rc x.b

/-- The field checks of `ItofArgs` (R136 step 2). -/
def ItofArgs.ok (rc : Nat) (x : ItofArgs) : Bool :=
  regOk rc x.d && x.b.ok rc

/-- The field checks of `PackedArgs` (R136 step 2). -/
def PackedArgs.ok (rc : Nat) (x : PackedArgs) : Bool :=
  regOk rc x.d && x.a.ok rc && regOk rc x.b

/-- The field checks of `FdotArgs` (R136 step 2). -/
def FdotArgs.ok (rc : Nat) (x : FdotArgs) : Bool :=
  regOk rc x.d && regOk rc x.a && regOk rc x.b

/-- The field checks of `Pair3Args` (R136 step 2). -/
def Pair3Args.ok (rc : Nat) (x : Pair3Args) : Bool :=
  pairOk rc x.d && pairOk rc x.a && pairOk rc x.b

/-- The field checks of `MemArgs` (R136 step 2). -/
def MemArgs.ok (rc : Nat) (x : MemArgs) : Bool :=
  dataOk rc x.width x.d && x.a.okAddr x.space rc

/-- The field checks of `ElemArgs` (R136 step 2). -/
def ElemArgs.ok (rc : Nat) (x : ElemArgs) : Bool :=
  (x.width == Width.w32 || x.width == Width.w64) && dataOk rc x.width x.d && pairOk rc x.a

/-- The field checks of `PrefArgs` (R136 step 2). -/
def PrefArgs.ok (rc : Nat) (x : PrefArgs) : Bool :=
  x.a.okPair rc

/-- The field checks of `CinvArgs` (R136 step 2). -/
def CinvArgs.ok (rc : Nat) (x : CinvArgs) : Bool :=
  pairOk rc x.a && x.len.ok rc

/-- The field checks of `AtomArgs` (R136 step 2). -/
def AtomArgs.ok (rc : Nat) (x : AtomArgs) : Bool :=
  x.space != Space.priv && (x.width == Width.w32 || x.width == Width.w64) && dataOk rc x.width x.d && dataOk rc x.width x.b && x.a.okAddr x.space rc

/-- The field checks of `RedArgs` (R136 step 2). -/
def RedArgs.ok (rc : Nat) (x : RedArgs) : Bool :=
  x.space != Space.priv && (x.width == Width.w32 || (x.width == Width.w64 && !x.op.isFloat)) && dataOk rc x.width x.b && x.a.okAddr x.space rc

/-- The field checks of `AtombArgs` (R136 step 2). -/
def AtombArgs.ok (rc : Nat) (x : AtombArgs) : Bool :=
  x.space != Space.priv && regOk rc x.d && regOk rc x.b && x.a.okAddr x.space rc

/-- The field checks of `InspArgs` (R136 step 2). -/
def InspArgs.ok (rc : Nat) (x : InspArgs) : Bool :=
  regOk rc x.d && regOk rc x.a

/-- The field checks of `InspRangeArgs` (R136 step 2). -/
def InspRangeArgs.ok (rc : Nat) (x : InspRangeArgs) : Bool :=
  x.space != Space.priv && regOk rc x.d && addrOk rc x.space x.a && x.len.ok rc

/-- The field checks of `MonitorArgs` (R136 step 2). -/
def MonitorArgs.ok (rc : Nat) (x : MonitorArgs) : Bool :=
  (x.space == Space.clu || x.space == Space.lag || x.space == Space.glb) && x.a.okAddr x.space rc

/-- The field checks of `BarinitArgs` (R136 step 2). -/
def BarinitArgs.ok (rc : Nat) (x : BarinitArgs) : Bool :=
  (x.space == Space.scr || x.space == Space.clu || x.space == Space.lag) && regOk rc x.a && x.n.ok rc

/-- The field checks of `BaraArgs` (R136 step 2). -/
def BaraArgs.ok (rc : Nat) (x : BaraArgs) : Bool :=
  (x.space == Space.scr || x.space == Space.clu || x.space == Space.lag) && regOk rc x.d && regOk rc x.a && x.n.ok rc

/-- The field checks of `BarwArgs` (R136 step 2). -/
def BarwArgs.ok (rc : Nat) (x : BarwArgs) : Bool :=
  (x.space == Space.scr || x.space == Space.clu || x.space == Space.lag) && regOk rc x.d && regOk rc x.a && regOk rc x.b

/-- The field checks of `ElideArgs` (R136 step 2). -/
def ElideArgs.ok (rc : Nat) (x : ElideArgs) : Bool :=
  regOk rc x.d && pairOk rc x.a

/-- The field checks of `CopyArgs` (R136 step 2). -/
def CopyArgs.ok (rc : Nat) (x : CopyArgs) : Bool :=
  sinkOk rc x.kind x.d && pairOk rc x.a && pairOk rc x.b

/-- The field checks of `KickArgs` (R136 step 2). -/
def KickArgs.ok (rc : Nat) (x : KickArgs) : Bool :=
  sinkOk rc x.kind x.d && regOk rc x.a && x.n.ok rc

/-- The field checks of `TilehArgs` (R136 step 2). -/
def TilehArgs.ok (rc : Nat) (x : TilehArgs) : Bool :=
  regOk rc x.a

/-- The field checks of `TilefArgs` (R136 step 2). -/
def TilefArgs.ok (rc : Nat) (x : TilefArgs) : Bool :=
  sinkOk rc x.kind x.d && regOk rc x.a && regOk rc x.b

/-- The field checks of `FabxArgs` (R136 step 2). -/
def FabxArgs.ok (rc : Nat) (x : FabxArgs) : Bool :=
  sinkOk rc x.kind x.d && pairOk rc x.a && pairOk rc x.b

/-- The field checks of `MmaArgs` (R136 step 2). -/
def MmaArgs.ok (rc : Nat) (x : MmaArgs) : Bool :=
  sinkOk rc x.kind x.d && regOk rc x.a

/-- The field checks of `MloadbArgs` (R136 step 2). -/
def MloadbArgs.ok (rc : Nat) (x : MloadbArgs) : Bool :=
  sinkOk rc x.kind x.d && regOk rc x.a && regOk rc x.b

/-- The field checks of `AccArgs` (R136 step 2). -/
def AccArgs.ok (rc : Nat) (x : AccArgs) : Bool :=
  regOk rc x.d && x.a.ok rc

/-- The field checks of `MzeroArgs` (R136 step 2). -/
def MzeroArgs.ok (rc : Nat) (x : MzeroArgs) : Bool :=
  x.a.ok rc

/-- The field checks of `QputArgs` (R136 step 2). -/
def QputArgs.ok (rc : Nat) (x : QputArgs) : Bool :=
  regOk rc x.d && regOk rc x.a

/-- The field checks of `QgetArgs` (R136 step 2). -/
def QgetArgs.ok (rc : Nat) (x : QgetArgs) : Bool :=
  regOk rc x.d && regOk rc x.a

/-- The field checks of `QcountArgs` (R136 step 2). -/
def QcountArgs.ok (rc : Nat) (x : QcountArgs) : Bool :=
  regOk rc x.d

/-- The field checks of `MsendArgs` (R136 step 2). -/
def MsendArgs.ok (rc : Nat) (x : MsendArgs) : Bool :=
  regOk rc x.d && regOk rc x.a && regOk rc x.b

/-- The field checks of `MpostArgs` (R136 step 2). -/
def MpostArgs.ok (rc : Nat) (x : MpostArgs) : Bool :=
  regOk rc x.d && regOk rc x.a && regOk rc x.b

/-- The field checks of `MtestArgs` (R136 step 2). -/
def MtestArgs.ok (rc : Nat) (x : MtestArgs) : Bool :=
  pairOk rc x.d && regOk rc x.a

/-- The field checks of `JspawnArgs` (R136 step 2). -/
def JspawnArgs.ok (rc : Nat) (x : JspawnArgs) : Bool :=
  regOk rc x.d && pairOk rc x.a && x.b.ok rc

/-- The field checks of `PostiArgs` (R136 step 2). -/
def PostiArgs.ok (rc : Nat) (x : PostiArgs) : Bool :=
  regOk rc x.d && regOk rc x.a && regOk rc x.b

/-- The field checks of `TryArgs` (R136 step 2). -/
def TryArgs.ok (rc : Nat) (x : TryArgs) : Bool :=
  x.cnt != 0#4 && decide (x.d.toNat + x.wlen.toNat < rc)

/-- The field checks of `TrailwArgs` (R136 step 2). -/
def TrailwArgs.ok (rc : Nat) (x : TrailwArgs) : Bool :=
  decide (1 ≤ x.n.toNat ∧ x.n.toNat ≤ 32) && decide (x.a.toNat + x.n.toNat ≤ rc)

/-- The field checks of `FmtsetArgs` (R136 step 2). -/
def FmtsetArgs.ok (rc : Nat) (x : FmtsetArgs) : Bool :=
  sinkOk rc x.kind x.d && pairOk rc x.a

/-- The field checks of `FmtgetArgs` (R136 step 2). -/
def FmtgetArgs.ok (rc : Nat) (x : FmtgetArgs) : Bool :=
  pairOk rc x.d

/-- The field checks of `SpecArgs` (R136 step 2). -/
def SpecArgs.ok (rc : Nat) (x : SpecArgs) : Bool :=
  specAssigned x.idx && (if specIsWide x.idx then pairOk rc x.d else regOk rc x.d)

/-- Step 2 of R136: the register limits and the field rules of each instruction. -/
def Instr.fieldsOk (rc : Nat) : Instr → Bool
  | .nop _ => true
  | .bra _ _ => true
  | .brx _ x => x.ok rc
  | .brt _ x => x.ok rc
  | .call _ _ => true
  | .callx _ x => x.ok rc
  | .ret _ => true
  | .exit _ => true
  | .split _ _ => true
  | .join _ => true
  | .yield _ _ => true
  | .sleep _ x => x.ok rc
  | .trap _ _ => true
  | .iret _ x => x.ok rc
  | .bkpt _ _ => true
  | .svc _ x => x.ok rc
  | .add _ x => x.ok rc
  | .sub _ x => x.ok rc
  | .mul _ x => x.ok rc
  | .mulh _ x => x.ok rc
  | .mad _ x => x.ok rc
  | .madw _ x => x.ok rc
  | .div _ x => x.ok rc
  | .rem _ x => x.ok rc
  | .min _ x => x.ok rc
  | .max _ x => x.ok rc
  | .abs _ x => x.ok rc
  | .neg _ x => x.ok rc
  | .addc _ x => x.ok rc
  | .lea _ x => x.ok rc
  | .add64 _ x => x.ok rc
  | .sub64 _ x => x.ok rc
  | .and _ x => x.ok rc
  | .or _ x => x.ok rc
  | .xor _ x => x.ok rc
  | .andn _ x => x.ok rc
  | .shl _ x => x.ok rc
  | .shr _ x => x.ok rc
  | .sar _ x => x.ok rc
  | .rotl _ x => x.ok rc
  | .clz _ x => x.ok rc
  | .popc _ x => x.ok rc
  | .brev _ x => x.ok rc
  | .bfx _ x => x.ok rc
  | .bfi _ x => x.ok rc
  | .prmb _ x => x.ok rc
  | .mov _ x => x.ok rc
  | .sel _ x => x.ok rc
  | .icmp _ x => x.ok rc
  | .plop _ _ => true
  | .p2g _ x => x.ok rc
  | .g2p _ x => x.ok rc
  | .shflIdx _ x => x.ok rc
  | .shflUp _ x => x.ok rc
  | .shflDown _ x => x.ok rc
  | .shflXor _ x => x.ok rc
  | .voteAll _ _ => true
  | .voteAny _ _ => true
  | .voteBallot _ x => x.ok rc
  | .voteCount _ x => x.ok rc
  | .cred _ op x => x.ok rc && (x.ty == IntTy.s32 || op == CredOp.min || op == CredOp.max)
  | .cscan _ x => x.ok rc
  | .matchLanes _ x => x.ok rc
  | .elect _ _ => true
  | .fadd _ x => x.ok rc
  | .fsub _ x => x.ok rc
  | .fmul _ x => x.ok rc
  | .fma _ x => x.ok rc
  | .fmin _ x => x.ok rc
  | .fmax _ x => x.ok rc
  | .fcmp _ x => x.ok rc
  | .fdiv _ x => x.ok rc
  | .frcp _ x => x.ok rc
  | .frsq _ x => x.ok rc
  | .fsqrt _ x => x.ok rc
  | .fexp2 _ x => x.ok rc
  | .flog2 _ x => x.ok rc
  | .fsinp _ x => x.ok rc
  | .fcosp _ x => x.ok rc
  | .fscale _ x => x.ok rc
  | .fclass _ x => x.ok rc
  | .frint _ x => x.ok rc
  | .fcvt _ x => x.ok rc
  | .ftoi _ x => x.ok rc
  | .itof _ x => x.ok rc
  | .dadd _ x => x.ok rc
  | .dmul _ x => x.ok rc
  | .dfma _ x => x.ok rc
  | .dcmp _ x => x.ok rc
  | .hadd2 _ x => x.ok rc
  | .hmul2 _ x => x.ok rc
  | .hfma2 _ x => x.ok rc
  | .fdot2 _ x => x.ok rc
  | .fdot4 _ x => x.ok rc
  | .cmul _ x => x.ok rc
  | .ld _ x => x.ok rc
  | .ldAfter _ x => x.ok rc
  | .st _ x => x.ok rc
  | .ldf _ x => x.ok rc
  | .stf _ x => x.ok rc
  | .pref _ x => x.ok rc
  | .cinvD _ x => x.ok rc
  | .cinvI _ x => x.ok rc
  | .cinvIf _ x => x.ok rc
  | .atomAdd _ x => x.ok rc
  | .atomMinS _ x => x.ok rc
  | .atomMinN _ x => x.ok rc
  | .atomMaxS _ x => x.ok rc
  | .atomMaxN _ x => x.ok rc
  | .atomAnd _ x => x.ok rc
  | .atomOr _ x => x.ok rc
  | .atomXor _ x => x.ok rc
  | .atomExch _ x => x.ok rc
  | .atomFadd _ x => x.ok rc && x.width == Width.w32
  | .atomFmin _ x => x.ok rc && x.width == Width.w32
  | .atomFmax _ x => x.ok rc && x.width == Width.w32
  | .atomcas _ x => x.ok rc
  | .red _ x => x.ok rc
  | .atombInc _ x => x.ok rc
  | .atombDec _ x => x.ok rc
  | .inspT _ x => x.ok rc
  | .inspG _ x => x.ok rc
  | .inspB _ x => x.ok rc
  | .inspA _ x => x.ok rc
  | .inspS _ x => x.ok rc
  | .monitor _ x => x.ok rc
  | .mwait _ x => x.ok rc
  | .barinit _ x => x.ok rc
  | .bara _ x => x.ok rc
  | .barw _ x => x.ok rc
  | .elide _ x => x.ok rc
  | .elend _ => true
  | .copy _ x => x.ok rc
  | .kick _ x => x.ok rc
  | .tileh _ x => x.ok rc
  | .tilef _ x => x.ok rc
  | .cwait _ x => x.ok rc
  | .fabxWr _ x => x.ok rc
  | .fabxRed _ x => x.ok rc
  | .mma _ x => x.ok rc
  | .mloadb _ x => x.ok rc
  | .mread _ x => x.ok rc
  | .mwrite _ x => x.ok rc
  | .mzero _ x => x.ok rc
  | .qput _ x => x.ok rc
  | .qget _ x => x.ok rc
  | .qcount _ x => x.ok rc
  | .msend _ x => x.ok rc
  | .mpost _ x => x.ok rc
  | .mtest _ x => x.ok rc
  | .jspawn _ x => x.ok rc
  | .jnext _ x => x.ok rc
  | .posti _ x => x.ok rc
  | .tryAlt _ x => x.ok rc
  | .fail _ => true
  | .cut _ x => x.ok rc
  | .mark _ x => x.ok rc
  | .steal _ x => x.ok rc
  | .trailw _ x => x.ok rc
  | .fmtset _ x => x.ok rc
  | .fmtget _ x => x.ok rc
  | .movs _ x => x.ok rc && x.idx != 0x018#12 && x.idx != 0x019#12
  | .movsCycl _ d => regOk rc d
  | .movsCych _ d => regOk rc d
  | .sets _ x => x.ok rc && x.idx != 0x011#12 && x.idx != 0x016#12 && x.idx != 0x017#12
  | .setsTrb _ d => regOk rc d
  | .setsFlg _ d => regOk rc d
  | .setsFrm _ d => regOk rc d
  | .inspTargetCut _ _ => true
  | .inspComplete _ => true
  | .elideSectionFail _ _ => true
  | .asyncFaultDeliver _ => true
  | .longLatencyComplete _ _ => true
  | .loadBind _ _ => true
  | .storeCheckPass _ => true
  | .psqEntryDrain _ _ => true
  | .drainAgeExpiry _ _ => true
  | .writeThroughPerform _ => true
  | .mergeDemand _ _ => true
  | .mergeReceive _ _ => true
  | .mirrorPropagate _ _ => true
  | .mirrorReplicaAck _ _ => true
  | .translationWalkEnd _ => true
  | .parkedAccessResolved _ _ => true
  | .unscrubbedClear _ => true
  | .watchLossWake _ _ => true
  | .mwaitTimeout _ => true
  | .sleepExpiry _ => true
  | .yieldExpiry _ => true
  | .copyBlock _ _ => true
  | .requestComplete _ => true
  | .kickItemComplete _ _ => true
  | .mloadbComplete _ => true
  | .mmaKBlock _ => true
  | .mmaComplete _ => true
  | .fmtsetComplete _ _ => true
  | .messageArrival _ => true
  | .msendAnswer _ => true
  | .reqNackReceive _ _ => true
  | .backoffExpiry _ => true
  | .causewayFrameReceive _ _ => true
  | .causewayAckReceive _ _ => true
  | .causewayResendTimeout _ => true
  | .connectionOpen _ _ _ => true
  | .mergedResultDeliver _ _ => true
  | .reductionAck _ _ => true
  | .windowAbort _ _ => true
  | .cancelTakeEffect _ => true
  | .cardAdmit _ => true
  | .jobWaitReevaluate _ => true
  | .jobStart _ => true
  | .gangPlace _ _ _ => true
  | .bandPlace _ _ => true
  | .gangRetire _ => true
  | .jobSinkWrite _ => true
  | .budgetPeriodRefill _ => true
  | .timeSliceExpiry _ _ => true
  | .preempt _ _ => true
  | .preemptStep3Bound _ => true
  | .resume _ => true
  | .waitForWalk _ => true
  | .breakWait _ => true
  | .pagePurge _ _ _ => true
  | .remapRegister _ _ => true
  | .keySlotLoad _ _ => true
  | .partitionCreate _ _ _ => true
  | .partitionDestroy _ => true
  | .replicaHoldSet _ _ _ _ => true
  | .replicaHoldRelease _ _ => true
  | .debugStop _ => true
  | .singleStep _ _ => true
  | .packageReset _ => true
  | .bringUpEnd => true
  | .islePowerChange _ _ => true
  | .dieOvertemp _ => true
  | .dramOvertemp _ => true
  | .telemetryRefresh _ => true
  | .usageRecordEmit _ _ => true
  | .scrub _ _ => true
  | .dieWarmReset _ _ => true
  | .foreignProbeRefuse _ _ _ _ _ => true
  | .svcReply _ _ => true
  | .stallingInstructionComplete _ => true
  | .debugRelease _ => true
  | .debugStopEnable _ _ => true
  | .debugStateWrite _ _ => true
  | .dieTempRecover _ => true
  | .dramTempRecover _ => true
  | .streamDescriptorWrite _ _ => true
  | .runtimeThreadRegister _ _ _ _ => true
  | .pteInstall _ _ _ => true
  | .macsecKeyLoad _ _ => true
  | .runtimeCardPlace _ _ _ _ => true

/-- Step 3 of R136: the scope codes. -/
def Instr.scopesOk : Instr → Bool
  | .nop _ => true
  | .bra _ _ => true
  | .brx _ _ => true
  | .brt _ _ => true
  | .call _ _ => true
  | .callx _ _ => true
  | .ret _ => true
  | .exit _ => true
  | .split _ _ => true
  | .join _ => true
  | .yield _ _ => true
  | .sleep _ _ => true
  | .trap _ _ => true
  | .iret _ _ => true
  | .bkpt _ _ => true
  | .svc _ _ => true
  | .add _ _ => true
  | .sub _ _ => true
  | .mul _ _ => true
  | .mulh _ _ => true
  | .mad _ _ => true
  | .madw _ _ => true
  | .div _ _ => true
  | .rem _ _ => true
  | .min _ _ => true
  | .max _ _ => true
  | .abs _ _ => true
  | .neg _ _ => true
  | .addc _ _ => true
  | .lea _ _ => true
  | .add64 _ _ => true
  | .sub64 _ _ => true
  | .and _ _ => true
  | .or _ _ => true
  | .xor _ _ => true
  | .andn _ _ => true
  | .shl _ _ => true
  | .shr _ _ => true
  | .sar _ _ => true
  | .rotl _ _ => true
  | .clz _ _ => true
  | .popc _ _ => true
  | .brev _ _ => true
  | .bfx _ _ => true
  | .bfi _ _ => true
  | .prmb _ _ => true
  | .mov _ _ => true
  | .sel _ _ => true
  | .icmp _ _ => true
  | .plop _ _ => true
  | .p2g _ _ => true
  | .g2p _ _ => true
  | .shflIdx _ _ => true
  | .shflUp _ _ => true
  | .shflDown _ _ => true
  | .shflXor _ _ => true
  | .voteAll _ _ => true
  | .voteAny _ _ => true
  | .voteBallot _ _ => true
  | .voteCount _ _ => true
  | .cred _ _ _ => true
  | .cscan _ _ => true
  | .matchLanes _ _ => true
  | .elect _ _ => true
  | .fadd _ _ => true
  | .fsub _ _ => true
  | .fmul _ _ => true
  | .fma _ _ => true
  | .fmin _ _ => true
  | .fmax _ _ => true
  | .fcmp _ _ => true
  | .fdiv _ _ => true
  | .frcp _ _ => true
  | .frsq _ _ => true
  | .fsqrt _ _ => true
  | .fexp2 _ _ => true
  | .flog2 _ _ => true
  | .fsinp _ _ => true
  | .fcosp _ _ => true
  | .fscale _ _ => true
  | .fclass _ _ => true
  | .frint _ _ => true
  | .fcvt _ _ => true
  | .ftoi _ _ => true
  | .itof _ _ => true
  | .dadd _ _ => true
  | .dmul _ _ => true
  | .dfma _ _ => true
  | .dcmp _ _ => true
  | .hadd2 _ _ => true
  | .hmul2 _ _ => true
  | .hfma2 _ _ => true
  | .fdot2 _ _ => true
  | .fdot4 _ _ => true
  | .cmul _ _ => true
  | .ld _ _ => true
  | .ldAfter _ _ => true
  | .st _ _ => true
  | .ldf _ _ => true
  | .stf _ _ => true
  | .pref _ _ => true
  | .cinvD _ _ => true
  | .cinvI _ _ => true
  | .cinvIf _ _ => true
  | .atomAdd _ x => scopeOk x.scope
  | .atomMinS _ x => scopeOk x.scope
  | .atomMinN _ x => scopeOk x.scope
  | .atomMaxS _ x => scopeOk x.scope
  | .atomMaxN _ x => scopeOk x.scope
  | .atomAnd _ x => scopeOk x.scope
  | .atomOr _ x => scopeOk x.scope
  | .atomXor _ x => scopeOk x.scope
  | .atomExch _ x => scopeOk x.scope
  | .atomFadd _ x => scopeOk x.scope
  | .atomFmin _ x => scopeOk x.scope
  | .atomFmax _ x => scopeOk x.scope
  | .atomcas _ x => scopeOk x.scope
  | .red _ x => scopeOk x.scope
  | .atombInc _ x => scopeOk x.scope
  | .atombDec _ x => scopeOk x.scope
  | .inspT _ x => scopeOk x.scope
  | .inspG _ x => scopeOk x.scope
  | .inspB _ x => scopeOk x.scope
  | .inspA _ x => scopeOk x.scope
  | .inspS _ _ => true
  | .monitor _ _ => true
  | .mwait _ _ => true
  | .barinit _ _ => true
  | .bara _ _ => true
  | .barw _ x => scopeOk x.scope
  | .elide _ _ => true
  | .elend _ => true
  | .copy _ x => scopeOk x.sc
  | .kick _ x => scopeOk x.sc
  | .tileh _ _ => true
  | .tilef _ x => scopeOk x.sc
  | .cwait _ _ => true
  | .fabxWr _ x => scopeOk x.sc
  | .fabxRed _ x => scopeOk x.sc
  | .mma _ x => scopeOk x.sc
  | .mloadb _ x => scopeOk x.sc
  | .mread _ _ => true
  | .mwrite _ _ => true
  | .mzero _ _ => true
  | .qput _ _ => true
  | .qget _ _ => true
  | .qcount _ _ => true
  | .msend _ _ => true
  | .mpost _ _ => true
  | .mtest _ _ => true
  | .jspawn _ _ => true
  | .jnext _ _ => true
  | .posti _ _ => true
  | .tryAlt _ _ => true
  | .fail _ => true
  | .cut _ _ => true
  | .mark _ _ => true
  | .steal _ _ => true
  | .trailw _ _ => true
  | .fmtset _ x => scopeOk x.sc
  | .fmtget _ _ => true
  | .movs _ _ => true
  | .movsCycl _ _ => true
  | .movsCych _ _ => true
  | .sets _ _ => true
  | .setsTrb _ _ => true
  | .setsFlg _ _ => true
  | .setsFrm _ _ => true
  | .inspTargetCut _ _ => true
  | .inspComplete _ => true
  | .elideSectionFail _ _ => true
  | .asyncFaultDeliver _ => true
  | .longLatencyComplete _ _ => true
  | .loadBind _ _ => true
  | .storeCheckPass _ => true
  | .psqEntryDrain _ _ => true
  | .drainAgeExpiry _ _ => true
  | .writeThroughPerform _ => true
  | .mergeDemand _ _ => true
  | .mergeReceive _ _ => true
  | .mirrorPropagate _ _ => true
  | .mirrorReplicaAck _ _ => true
  | .translationWalkEnd _ => true
  | .parkedAccessResolved _ _ => true
  | .unscrubbedClear _ => true
  | .watchLossWake _ _ => true
  | .mwaitTimeout _ => true
  | .sleepExpiry _ => true
  | .yieldExpiry _ => true
  | .copyBlock _ _ => true
  | .requestComplete _ => true
  | .kickItemComplete _ _ => true
  | .mloadbComplete _ => true
  | .mmaKBlock _ => true
  | .mmaComplete _ => true
  | .fmtsetComplete _ _ => true
  | .messageArrival _ => true
  | .msendAnswer _ => true
  | .reqNackReceive _ _ => true
  | .backoffExpiry _ => true
  | .causewayFrameReceive _ _ => true
  | .causewayAckReceive _ _ => true
  | .causewayResendTimeout _ => true
  | .connectionOpen _ _ _ => true
  | .mergedResultDeliver _ _ => true
  | .reductionAck _ _ => true
  | .windowAbort _ _ => true
  | .cancelTakeEffect _ => true
  | .cardAdmit _ => true
  | .jobWaitReevaluate _ => true
  | .jobStart _ => true
  | .gangPlace _ _ _ => true
  | .bandPlace _ _ => true
  | .gangRetire _ => true
  | .jobSinkWrite _ => true
  | .budgetPeriodRefill _ => true
  | .timeSliceExpiry _ _ => true
  | .preempt _ _ => true
  | .preemptStep3Bound _ => true
  | .resume _ => true
  | .waitForWalk _ => true
  | .breakWait _ => true
  | .pagePurge _ _ _ => true
  | .remapRegister _ _ => true
  | .keySlotLoad _ _ => true
  | .partitionCreate _ _ _ => true
  | .partitionDestroy _ => true
  | .replicaHoldSet _ _ _ _ => true
  | .replicaHoldRelease _ _ => true
  | .debugStop _ => true
  | .singleStep _ _ => true
  | .packageReset _ => true
  | .bringUpEnd => true
  | .islePowerChange _ _ => true
  | .dieOvertemp _ => true
  | .dramOvertemp _ => true
  | .telemetryRefresh _ => true
  | .usageRecordEmit _ _ => true
  | .scrub _ _ => true
  | .dieWarmReset _ _ => true
  | .foreignProbeRefuse _ _ _ _ _ => true
  | .svcReply _ _ => true
  | .stallingInstructionComplete _ => true
  | .debugRelease _ => true
  | .debugStopEnable _ _ => true
  | .debugStateWrite _ _ => true
  | .dieTempRecover _ => true
  | .dramTempRecover _ => true
  | .streamDescriptorWrite _ _ => true
  | .runtimeThreadRegister _ _ _ _ => true
  | .pteInstall _ _ _ => true
  | .macsecKeyLoad _ _ => true
  | .runtimeCardPlace _ _ _ _ => true

/-- The checks of R136 that the word alone decides, for a kernel of `rc` registers. -/
def Instr.wf (rc : Nat) (i : Instr) : Bool := i.fieldsOk rc && i.scopesOk

end Sys2Proof
end

