-- ==== Sys2Proof/Decode.lean ====
section
/-! DEFINITION. The instruction word (R120, R121): its fields, the decoder with the checks of R136 in their
order, the fetch of a word from bytes, and the encoder. A must-be-zero bit is checked by reading the
instruction and comparing the fields it would be written with: a bit that the instruction does not read
differs. -/

namespace Sys2Proof

/-- The fields that the operand tables speak of (Table 7-1). -/
structure Body where
  d   : Reg
  a   : Reg
  b   : Reg
  sel : BitVec 2
  mod : BitVec 11
  imm : Word
  deriving DecidableEq, Repr

/-- The twelve fields of the instruction word (Table 7-1). -/
structure Fields where
  op   : BitVec 8
  fn   : BitVec 4
  gd   : BitVec 4
  keep : BitVec 2
  look : BitVec 4
  yld  : BitVec 1
  solo : BitVec 1
  body : Body
  deriving DecidableEq, Repr

/-- The fields of a 96-bit word (Table 7-1). -/
def Fields.ofWord (w : BitVec 96) : Fields where
  op := slice w 0 8
  fn := slice w 8 4
  gd := slice w 12 4
  keep := slice w 45 2
  look := slice w 47 4
  yld := slice w 51 1
  solo := slice w 52 1
  body := { d := slice w 16 9, a := slice w 25 9, b := slice w 34 9, sel := slice w 43 2,
            mod := slice w 53 11, imm := slice w 64 32 }

/-- The 96-bit word with given fields (Table 7-1). -/
def Fields.toWord (f : Fields) : BitVec 96 :=
  BitVec.ofNat 96 (f.op.toNat + 2 ^ 8 * f.fn.toNat + 2 ^ 12 * f.gd.toNat + 2 ^ 16 * f.body.d.toNat
    + 2 ^ 25 * f.body.a.toNat + 2 ^ 34 * f.body.b.toNat + 2 ^ 43 * f.body.sel.toNat
    + 2 ^ 45 * f.keep.toNat + 2 ^ 47 * f.look.toNat + 2 ^ 51 * f.yld.toNat + 2 ^ 52 * f.solo.toNat
    + 2 ^ 53 * f.body.mod.toNat + 2 ^ 64 * f.body.imm.toNat)

/-- The SRCSEL code of two sources (Table 7-2). -/
def selCode (zeroA immB : Bool) : BitVec 2 := BitVec.ofNat 2 (2 * bit zeroA + bit immB)

def SrcA.isZero : SrcA → Bool
  | .reg _ => false
  | .zero => true

def SrcA.field : SrcA → Reg
  | .reg r => r
  | .zero => 0#9

def SrcB.isImm : SrcB → Bool
  | .reg _ => false
  | .imm _ => true

def SrcB.field : SrcB → Reg
  | .reg r => r
  | .imm _ => 0#9

def SrcB.immField : SrcB → Word
  | .reg _ => 0#32
  | .imm v => v

/-- Source A under SRCSEL (R124). -/
def srcA (y : Body) : SrcA := if bitOf y.sel 1 then .zero else .reg y.a

/-- Source B under SRCSEL (R124). -/
def srcB (y : Body) : SrcB := if bitOf y.sel 0 then .imm y.imm else .reg y.b

/-- The word's fields for `OffArgs`. -/
def OffArgs.body (x : OffArgs) : Body where
  d := 0#9
  a := 0#9
  b := 0#9
  sel := selCode true true
  mod := 0#11
  imm := x.off

/-- `OffArgs` read from the word's fields. -/
def OffArgs.read (y : Body) : Option OffArgs := do
  return { off := y.imm }

/-- The word's fields for `PairArgs`. -/
def PairArgs.body (x : PairArgs) : Body where
  d := 0#9
  a := 0#9
  b := x.b
  sel := selCode true false
  mod := 0#11
  imm := 0#32

/-- `PairArgs` read from the word's fields. -/
def PairArgs.read (y : Body) : Option PairArgs := do
  return { b := y.b }

/-- The word's fields for `BrtArgs`. -/
def BrtArgs.body (x : BrtArgs) : Body where
  d := 0#9
  a := x.a
  b := 0#9
  sel := selCode false true
  mod := BitVec.ofNat 11 (x.count.toNat)
  imm := x.off

/-- `BrtArgs` read from the word's fields. -/
def BrtArgs.read (y : Body) : Option BrtArgs := do
  return { a := y.a, off := y.imm, count := slice y.mod 0 11 }

/-- The word's fields for `CountArgs`. -/
def CountArgs.body (x : CountArgs) : Body where
  d := 0#9
  a := 0#9
  b := 0#9
  sel := selCode true true
  mod := 0#11
  imm := BitVec.ofNat 32 (x.n.toNat)

/-- `CountArgs` read from the word's fields. -/
def CountArgs.read (y : Body) : Option CountArgs := do
  return { n := slice y.imm 0 16 }

/-- The word's fields for `OneArgs`. -/
def OneArgs.body (x : OneArgs) : Body where
  d := 0#9
  a := 0#9
  b := x.b.field
  sel := selCode true x.b.isImm
  mod := 0#11
  imm := x.b.immField

/-- `OneArgs` read from the word's fields. -/
def OneArgs.read (y : Body) : Option OneArgs := do
  return { b := srcB y }

/-- The word's fields for `IretArgs`. -/
def IretArgs.body (x : IretArgs) : Body where
  d := 0#9
  a := 0#9
  b := x.b.field
  sel := selCode true x.b.isImm
  mod := 0#11
  imm := x.b.immField

/-- `IretArgs` read from the word's fields. -/
def IretArgs.read (y : Body) : Option IretArgs := do
  return { b := srcB y }

/-- The word's fields for `SvcArgs`. -/
def SvcArgs.body (x : SvcArgs) : Body where
  d := x.d
  a := 0#9
  b := 0#9
  sel := selCode true true
  mod := 0#11
  imm := BitVec.ofNat 32 (x.n.toNat)

/-- `SvcArgs` read from the word's fields. -/
def SvcArgs.read (y : Body) : Option SvcArgs := do
  return { d := y.d, n := slice y.imm 0 16 }

/-- The word's fields for `IntSatArgs`. -/
def IntSatArgs.body (x : IntSatArgs) : Body where
  d := x.d
  a := x.a.field
  b := x.b.field
  sel := selCode x.a.isZero x.b.isImm
  mod := BitVec.ofNat 11 (x.ty.code.toNat + 2 * bit x.sat)
  imm := x.b.immField

/-- `IntSatArgs` read from the word's fields. -/
def IntSatArgs.read (y : Body) : Option IntSatArgs := do
  let ty ← IntTy.ofCode (slice y.mod 0 1)
  return { ty := ty, sat := bitOf y.mod 1, d := y.d, a := srcA y, b := srcB y }

/-- The word's fields for `IntTyArgs`. -/
def IntTyArgs.body (x : IntTyArgs) : Body where
  d := x.d
  a := x.a.field
  b := x.b.field
  sel := selCode x.a.isZero x.b.isImm
  mod := BitVec.ofNat 11 (x.ty.code.toNat)
  imm := x.b.immField

/-- `IntTyArgs` read from the word's fields. -/
def IntTyArgs.read (y : Body) : Option IntTyArgs := do
  let ty ← IntTy.ofCode (slice y.mod 0 1)
  return { ty := ty, d := y.d, a := srcA y, b := srcB y }

/-- The word's fields for `IntArgs`. -/
def IntArgs.body (x : IntArgs) : Body where
  d := x.d
  a := x.a.field
  b := x.b.field
  sel := selCode x.a.isZero x.b.isImm
  mod := 0#11
  imm := x.b.immField

/-- `IntArgs` read from the word's fields. -/
def IntArgs.read (y : Body) : Option IntArgs := do
  return { d := y.d, a := srcA y, b := srcB y }

/-- The word's fields for `MulhArgs`. -/
def MulhArgs.body (x : MulhArgs) : Body where
  d := x.d
  a := x.a
  b := x.b.field
  sel := selCode false x.b.isImm
  mod := BitVec.ofNat 11 (x.ty.code.toNat)
  imm := x.b.immField

/-- `MulhArgs` read from the word's fields. -/
def MulhArgs.read (y : Body) : Option MulhArgs := do
  let ty ← IntTy.ofCode (slice y.mod 0 1)
  return { ty := ty, d := y.d, a := y.a, b := srcB y }

/-- The word's fields for `MadArgs`. -/
def MadArgs.body (x : MadArgs) : Body where
  d := x.d
  a := x.a
  b := x.b.field
  sel := selCode false x.b.isImm
  mod := BitVec.ofNat 11 (x.ty.code.toNat + 2 * bit x.sat)
  imm := x.b.immField

/-- `MadArgs` read from the word's fields. -/
def MadArgs.read (y : Body) : Option MadArgs := do
  let ty ← IntTy.ofCode (slice y.mod 0 1)
  return { ty := ty, sat := bitOf y.mod 1, d := y.d, a := y.a, b := srcB y }

/-- The word's fields for `MadwArgs`. -/
def MadwArgs.body (x : MadwArgs) : Body where
  d := x.d
  a := x.a
  b := x.b.field
  sel := selCode false x.b.isImm
  mod := BitVec.ofNat 11 (x.ty.code.toNat)
  imm := x.b.immField

/-- `MadwArgs` read from the word's fields. -/
def MadwArgs.read (y : Body) : Option MadwArgs := do
  let ty ← IntTy.ofCode (slice y.mod 0 1)
  return { ty := ty, d := y.d, a := y.a, b := srcB y }

/-- The word's fields for `WideArgs`. -/
def WideArgs.body (x : WideArgs) : Body where
  d := x.d
  a := x.a
  b := x.b.field
  sel := selCode false x.b.isImm
  mod := 0#11
  imm := x.b.immField

/-- `WideArgs` read from the word's fields. -/
def WideArgs.read (y : Body) : Option WideArgs := do
  return { d := y.d, a := y.a, b := srcB y }

/-- The word's fields for `UnSatArgs`. -/
def UnSatArgs.body (x : UnSatArgs) : Body where
  d := x.d
  a := 0#9
  b := x.b
  sel := selCode true false
  mod := BitVec.ofNat 11 (2 * bit x.sat)
  imm := 0#32

/-- `UnSatArgs` read from the word's fields. -/
def UnSatArgs.read (y : Body) : Option UnSatArgs := do
  return { sat := bitOf y.mod 1, d := y.d, b := y.b }

/-- The word's fields for `UnArgs`. -/
def UnArgs.body (x : UnArgs) : Body where
  d := x.d
  a := 0#9
  b := x.b
  sel := selCode true false
  mod := 0#11
  imm := 0#32

/-- `UnArgs` read from the word's fields. -/
def UnArgs.read (y : Body) : Option UnArgs := do
  return { d := y.d, b := y.b }

/-- The word's fields for `LeaArgs`. -/
def LeaArgs.body (x : LeaArgs) : Body where
  d := x.d
  a := x.a.field
  b := x.b
  sel := selCode x.a.isZero false
  mod := BitVec.ofNat 11 (x.ty.code.toNat)
  imm := BitVec.ofNat 32 (x.sh.toNat)

/-- `LeaArgs` read from the word's fields. -/
def LeaArgs.read (y : Body) : Option LeaArgs := do
  let ty ← IntTy.ofCode (slice y.mod 0 1)
  return { ty := ty, d := y.d, a := srcA y, b := y.b, sh := slice y.imm 0 5 }

/-- The word's fields for `PrmbArgs`. -/
def PrmbArgs.body (x : PrmbArgs) : Body where
  d := x.d
  a := x.a.field
  b := x.b
  sel := selCode x.a.isZero false
  mod := 0#11
  imm := BitVec.ofNat 32 (x.pick.toNat)

/-- `PrmbArgs` read from the word's fields. -/
def PrmbArgs.read (y : Body) : Option PrmbArgs := do
  return { d := y.d, a := srcA y, b := y.b, pick := slice y.imm 0 16 }

/-- The word's fields for `SelArgs`. -/
def SelArgs.body (x : SelArgs) : Body where
  d := x.d
  a := x.a.field
  b := x.b
  sel := selCode x.a.isZero false
  mod := 0#11
  imm := BitVec.ofNat 32 (x.p.toNat + 8 * bit x.neg)

/-- `SelArgs` read from the word's fields. -/
def SelArgs.read (y : Body) : Option SelArgs := do
  return { d := y.d, a := srcA y, b := y.b, p := slice y.imm 0 3, neg := bitOf y.imm 3 }

/-- The word's fields for `MovArgs`. -/
def MovArgs.body (x : MovArgs) : Body where
  d := x.d
  a := 0#9
  b := x.b.field
  sel := selCode true x.b.isImm
  mod := 0#11
  imm := x.b.immField

/-- `MovArgs` read from the word's fields. -/
def MovArgs.read (y : Body) : Option MovArgs := do
  return { d := y.d, b := srcB y }

/-- The word's fields for `IcmpArgs`. -/
def IcmpArgs.body (x : IcmpArgs) : Body where
  d := x.p.setWidth 9
  a := x.a.field
  b := x.b.field
  sel := selCode x.a.isZero x.b.isImm
  mod := BitVec.ofNat 11 (x.cc.code.toNat + 8 * x.ty.code.toNat)
  imm := x.b.immField

/-- `IcmpArgs` read from the word's fields. -/
def IcmpArgs.read (y : Body) : Option IcmpArgs := do
  let cc ← Cc.ofCode (slice y.mod 0 3)
  let ty ← IntTy.ofCode (slice y.mod 3 1)
  return { cc := cc, ty := ty, p := slice y.d 0 3, a := srcA y, b := srcB y }

/-- The word's fields for `PlopArgs`. -/
def PlopArgs.body (x : PlopArgs) : Body where
  d := x.p.setWidth 9
  a := x.pa.setWidth 9
  b := x.pb.setWidth 9
  sel := selCode false false
  mod := BitVec.ofNat 11 (x.table.toNat)
  imm := BitVec.ofNat 32 (x.pc.toNat)

/-- `PlopArgs` read from the word's fields. -/
def PlopArgs.read (y : Body) : Option PlopArgs := do
  return { p := slice y.d 0 3, pa := slice y.a 0 3,
           pb := slice y.b 0 3, pc := slice y.imm 0 3, table := slice y.mod 0 8 }

/-- The word's fields for `DstArgs`. -/
def DstArgs.body (x : DstArgs) : Body where
  d := x.d
  a := 0#9
  b := 0#9
  sel := selCode false false
  mod := 0#11
  imm := 0#32

/-- `DstArgs` read from the word's fields. -/
def DstArgs.read (y : Body) : Option DstArgs := do
  return { d := y.d }

/-- The word's fields for `DstPairArgs`. -/
def DstPairArgs.body (x : DstPairArgs) : Body where
  d := x.d
  a := 0#9
  b := 0#9
  sel := selCode false false
  mod := 0#11
  imm := 0#32

/-- `DstPairArgs` read from the word's fields. -/
def DstPairArgs.read (y : Body) : Option DstPairArgs := do
  return { d := y.d }

/-- The word's fields for `G2pArgs`. -/
def G2pArgs.body (x : G2pArgs) : Body where
  d := 0#9
  a := 0#9
  b := x.b
  sel := selCode true false
  mod := 0#11
  imm := BitVec.ofNat 32 (x.mask.toNat)

/-- `G2pArgs` read from the word's fields. -/
def G2pArgs.read (y : Body) : Option G2pArgs := do
  return { b := y.b, mask := slice y.imm 0 7 }

/-- The word's fields for `ShflArgs`. -/
def ShflArgs.body (x : ShflArgs) : Body where
  d := x.d
  a := x.a
  b := x.b.field
  sel := selCode false x.b.isImm
  mod := 0#11
  imm := x.b.immField

/-- `ShflArgs` read from the word's fields. -/
def ShflArgs.read (y : Body) : Option ShflArgs := do
  return { d := y.d, a := y.a, b := srcB y }

/-- The word's fields for `VotePredArgs`. -/
def VotePredArgs.body (x : VotePredArgs) : Body where
  d := x.p.setWidth 9
  a := x.pa.setWidth 9
  b := 0#9
  sel := selCode false false
  mod := 0#11
  imm := 0#32

/-- `VotePredArgs` read from the word's fields. -/
def VotePredArgs.read (y : Body) : Option VotePredArgs := do
  return { p := slice y.d 0 3, pa := slice y.a 0 3 }

/-- The word's fields for `VoteRegArgs`. -/
def VoteRegArgs.body (x : VoteRegArgs) : Body where
  d := x.d
  a := x.pa.setWidth 9
  b := 0#9
  sel := selCode false false
  mod := 0#11
  imm := 0#32

/-- `VoteRegArgs` read from the word's fields. -/
def VoteRegArgs.read (y : Body) : Option VoteRegArgs := do
  return { d := y.d, pa := slice y.a 0 3 }

/-- The word's fields for `CredArgs`. -/
def CredArgs.body (x : CredArgs) : Body where
  d := x.d
  a := 0#9
  b := x.b.field
  sel := selCode true x.b.isImm
  mod := BitVec.ofNat 11 (x.ty.code.toNat)
  imm := x.b.immField

/-- `CredArgs` read from the word's fields. -/
def CredArgs.read (y : Body) : Option CredArgs := do
  let ty ← IntTy.ofCode (slice y.mod 0 1)
  return { ty := ty, d := y.d, b := srcB y }

/-- The word's fields for `CscanArgs`. -/
def CscanArgs.body (x : CscanArgs) : Body where
  d := x.d
  a := 0#9
  b := x.b.field
  sel := selCode true x.b.isImm
  mod := BitVec.ofNat 11 (x.ty.code.toNat + 2 * x.op.code.toNat)
  imm := x.b.immField

/-- `CscanArgs` read from the word's fields. -/
def CscanArgs.read (y : Body) : Option CscanArgs := do
  let ty ← IntTy.ofCode (slice y.mod 0 1)
  let op ← ScanOp.ofCode (slice y.mod 1 3)
  return { ty := ty, op := op, d := y.d, b := srcB y }

/-- The word's fields for `ElectArgs`. -/
def ElectArgs.body (x : ElectArgs) : Body where
  d := x.p.setWidth 9
  a := 0#9
  b := 0#9
  sel := selCode false false
  mod := 0#11
  imm := 0#32

/-- `ElectArgs` read from the word's fields. -/
def ElectArgs.read (y : Body) : Option ElectArgs := do
  return { p := slice y.d 0 3 }

/-- The word's fields for `FpArgs`. -/
def FpArgs.body (x : FpArgs) : Body where
  d := x.d
  a := x.a.field
  b := x.b.field
  sel := selCode x.a.isZero x.b.isImm
  mod := BitVec.ofNat 11 (x.rnd.code.toNat + 8 * bit x.na + 16 * bit x.aa + 32 * bit x.nb + 64 * bit x.ab + 128 * bit x.sat)
  imm := x.b.immField

/-- `FpArgs` read from the word's fields. -/
def FpArgs.read (y : Body) : Option FpArgs := do
  let rnd ← Round.ofCode (slice y.mod 0 3)
  return { rnd := rnd, na := bitOf y.mod 3, aa := bitOf y.mod 4, nb := bitOf y.mod 5,
           ab := bitOf y.mod 6, sat := bitOf y.mod 7, d := y.d, a := srcA y, b := srcB y }

/-- The word's fields for `DpArgs`. -/
def DpArgs.body (x : DpArgs) : Body where
  d := x.d
  a := x.a.field
  b := x.b.field
  sel := selCode x.a.isZero x.b.isImm
  mod := BitVec.ofNat 11 (x.rnd.code.toNat + 8 * bit x.na + 16 * bit x.aa + 32 * bit x.nb + 64 * bit x.ab + 128 * bit x.sat)
  imm := x.b.immField

/-- `DpArgs` read from the word's fields. -/
def DpArgs.read (y : Body) : Option DpArgs := do
  let rnd ← Round.ofCode (slice y.mod 0 3)
  return { rnd := rnd, na := bitOf y.mod 3, aa := bitOf y.mod 4, nb := bitOf y.mod 5,
           ab := bitOf y.mod 6, sat := bitOf y.mod 7, d := y.d, a := srcA y, b := srcB y }

/-- The word's fields for `FminArgs`. -/
def FminArgs.body (x : FminArgs) : Body where
  d := x.d
  a := x.a.field
  b := x.b.field
  sel := selCode x.a.isZero x.b.isImm
  mod := BitVec.ofNat 11 (8 * bit x.na + 16 * bit x.aa + 32 * bit x.nb + 64 * bit x.ab)
  imm := x.b.immField

/-- `FminArgs` read from the word's fields. -/
def FminArgs.read (y : Body) : Option FminArgs := do
  return { na := bitOf y.mod 3, aa := bitOf y.mod 4, nb := bitOf y.mod 5,
           ab := bitOf y.mod 6, d := y.d, a := srcA y, b := srcB y }

/-- The word's fields for `FcmpArgs`. -/
def FcmpArgs.body (x : FcmpArgs) : Body where
  d := x.p.setWidth 9
  a := x.a.field
  b := x.b.field
  sel := selCode x.a.isZero x.b.isImm
  mod := BitVec.ofNat 11 (x.cc.code.toNat + 8 * bit x.na + 16 * bit x.aa + 32 * bit x.nb + 64 * bit x.ab)
  imm := x.b.immField

/-- `FcmpArgs` read from the word's fields. -/
def FcmpArgs.read (y : Body) : Option FcmpArgs := do
  let cc ← FCc.ofCode (slice y.mod 0 3)
  return { cc := cc, na := bitOf y.mod 3, aa := bitOf y.mod 4, nb := bitOf y.mod 5,
           ab := bitOf y.mod 6, p := slice y.d 0 3, a := srcA y, b := srcB y }

/-- The word's fields for `DcmpArgs`. -/
def DcmpArgs.body (x : DcmpArgs) : Body where
  d := x.p.setWidth 9
  a := x.a.field
  b := x.b.field
  sel := selCode x.a.isZero x.b.isImm
  mod := BitVec.ofNat 11 (x.cc.code.toNat + 8 * bit x.na + 16 * bit x.aa + 32 * bit x.nb + 64 * bit x.ab)
  imm := x.b.immField

/-- `DcmpArgs` read from the word's fields. -/
def DcmpArgs.read (y : Body) : Option DcmpArgs := do
  let cc ← FCc.ofCode (slice y.mod 0 3)
  return { cc := cc, na := bitOf y.mod 3, aa := bitOf y.mod 4, nb := bitOf y.mod 5,
           ab := bitOf y.mod 6, p := slice y.d 0 3, a := srcA y, b := srcB y }

/-- The word's fields for `FunArgs`. -/
def FunArgs.body (x : FunArgs) : Body where
  d := x.d
  a := 0#9
  b := x.b.field
  sel := selCode true x.b.isImm
  mod := BitVec.ofNat 11 (x.rnd.code.toNat + 32 * bit x.nb + 64 * bit x.ab + 128 * bit x.sat)
  imm := x.b.immField

/-- `FunArgs` read from the word's fields. -/
def FunArgs.read (y : Body) : Option FunArgs := do
  let rnd ← Round.ofCode (slice y.mod 0 3)
  return { rnd := rnd, nb := bitOf y.mod 5, ab := bitOf y.mod 6,
           sat := bitOf y.mod 7, d := y.d, b := srcB y }

/-- The word's fields for `FscaleArgs`. -/
def FscaleArgs.body (x : FscaleArgs) : Body where
  d := x.d
  a := x.a
  b := x.b.field
  sel := selCode false x.b.isImm
  mod := BitVec.ofNat 11 (x.rnd.code.toNat + 8 * bit x.na + 16 * bit x.aa + 128 * bit x.sat)
  imm := x.b.immField

/-- `FscaleArgs` read from the word's fields. -/
def FscaleArgs.read (y : Body) : Option FscaleArgs := do
  let rnd ← Round.ofCode (slice y.mod 0 3)
  return { rnd := rnd, na := bitOf y.mod 3, aa := bitOf y.mod 4,
           sat := bitOf y.mod 7, d := y.d, a := y.a, b := srcB y }

/-- The word's fields for `FrintArgs`. -/
def FrintArgs.body (x : FrintArgs) : Body where
  d := x.d
  a := 0#9
  b := x.b.field
  sel := selCode true x.b.isImm
  mod := BitVec.ofNat 11 (x.rnd.code.toNat + 32 * bit x.nb + 64 * bit x.ab)
  imm := x.b.immField

/-- `FrintArgs` read from the word's fields. -/
def FrintArgs.read (y : Body) : Option FrintArgs := do
  let rnd ← Round.ofCode (slice y.mod 0 3)
  return { rnd := rnd, nb := bitOf y.mod 5, ab := bitOf y.mod 6, d := y.d, b := srcB y }

/-- The word's fields for `FcvtArgs`. -/
def FcvtArgs.body (x : FcvtArgs) : Body where
  d := x.d
  a := x.a
  b := 0#9
  sel := selCode false true
  mod := BitVec.ofNat 11 (x.ed.toNat)
  imm := BitVec.ofNat 32 (x.es.toNat + 256 * x.rnd.code.toNat)

/-- `FcvtArgs` read from the word's fields. -/
def FcvtArgs.read (y : Body) : Option FcvtArgs := do
  let rnd ← Round.ofCode (slice y.imm 8 3)
  return { ed := slice y.mod 0 5, d := y.d, a := y.a, es := slice y.imm 0 5, rnd := rnd }

/-- The word's fields for `FtoiArgs`. -/
def FtoiArgs.body (x : FtoiArgs) : Body where
  d := x.d
  a := 0#9
  b := x.b
  sel := selCode true false
  mod := BitVec.ofNat 11 (x.rnd.code.toNat + 8 * x.ty.code.toNat)
  imm := 0#32

/-- `FtoiArgs` read from the word's fields. -/
def FtoiArgs.read (y : Body) : Option FtoiArgs := do
  let rnd ← Round.ofCode (slice y.mod 0 3)
  let ty ← IntTy.ofCode (slice y.mod 3 1)
  return { rnd := rnd, ty := ty, d := y.d, b := y.b }

/-- The word's fields for `ItofArgs`. -/
def ItofArgs.body (x : ItofArgs) : Body where
  d := x.d
  a := 0#9
  b := x.b.field
  sel := selCode true x.b.isImm
  mod := BitVec.ofNat 11 (x.rnd.code.toNat + 8 * x.ty.code.toNat)
  imm := x.b.immField

/-- `ItofArgs` read from the word's fields. -/
def ItofArgs.read (y : Body) : Option ItofArgs := do
  let rnd ← Round.ofCode (slice y.mod 0 3)
  let ty ← IntTy.ofCode (slice y.mod 3 1)
  return { rnd := rnd, ty := ty, d := y.d, b := srcB y }

/-- The word's fields for `PackedArgs`. -/
def PackedArgs.body (x : PackedArgs) : Body where
  d := x.d
  a := x.a.field
  b := x.b
  sel := selCode x.a.isZero false
  mod := BitVec.ofNat 11 (x.rnd.code.toNat + 8 * bit x.na + 16 * bit x.aa + 32 * bit x.nb + 64 * bit x.ab + 128 * bit x.sat + 256)
  imm := BitVec.ofNat 32 (x.e.toNat)

/-- `PackedArgs` read from the word's fields. -/
def PackedArgs.read (y : Body) : Option PackedArgs := do
  let rnd ← Round.ofCode (slice y.mod 0 3)
  return { rnd := rnd, na := bitOf y.mod 3, aa := bitOf y.mod 4, nb := bitOf y.mod 5, ab := bitOf y.mod 6,
           sat := bitOf y.mod 7, d := y.d, a := srcA y, b := y.b, e := slice y.imm 0 5 }

/-- The word's fields for `FdotArgs`. -/
def FdotArgs.body (x : FdotArgs) : Body where
  d := x.d
  a := x.a
  b := x.b
  sel := selCode false false
  mod := BitVec.ofNat 11 (256)
  imm := BitVec.ofNat 32 (x.ea.toNat + 256 * x.eb.toNat)

/-- `FdotArgs` read from the word's fields. -/
def FdotArgs.read (y : Body) : Option FdotArgs := do
  return { d := y.d, a := y.a, b := y.b, ea := slice y.imm 0 5, eb := slice y.imm 8 5 }

/-- The word's fields for `Pair3Args`. -/
def Pair3Args.body (x : Pair3Args) : Body where
  d := x.d
  a := x.a
  b := x.b
  sel := selCode false false
  mod := 0#11
  imm := 0#32

/-- `Pair3Args` read from the word's fields. -/
def Pair3Args.read (y : Body) : Option Pair3Args := do
  return { d := y.d, a := y.a, b := y.b }

/-- The word's fields for `MemArgs`. -/
def MemArgs.body (x : MemArgs) : Body where
  d := x.d
  a := x.a.field
  b := 0#9
  sel := selCode x.a.isZero true
  mod := BitVec.ofNat 11 (x.space.code.toNat + 8 * x.width.code.toNat + 512 * x.hint.toNat)
  imm := x.off

/-- `MemArgs` read from the word's fields. -/
def MemArgs.read (y : Body) : Option MemArgs := do
  let space ← Space.ofCode (slice y.mod 0 3)
  let width ← Width.ofCode (slice y.mod 3 3)
  return { space := space, width := width, hint := slice y.mod 9 2, d := y.d, a := srcA y, off := y.imm }

/-- The word's fields for `ElemArgs`. -/
def ElemArgs.body (x : ElemArgs) : Body where
  d := x.d
  a := x.a
  b := 0#9
  sel := selCode false true
  mod := BitVec.ofNat 11 (8 * x.width.code.toNat + 4)
  imm := x.e

/-- `ElemArgs` read from the word's fields. -/
def ElemArgs.read (y : Body) : Option ElemArgs := do
  let width ← Width.ofCode (slice y.mod 3 3)
  return { width := width, d := y.d, a := y.a, e := y.imm }

/-- The word's fields for `PrefArgs`. -/
def PrefArgs.body (x : PrefArgs) : Body where
  d := 0#9
  a := x.a.field
  b := 0#9
  sel := selCode x.a.isZero true
  mod := BitVec.ofNat 11 (512 * x.hint.toNat + 4)
  imm := x.off

/-- `PrefArgs` read from the word's fields. -/
def PrefArgs.read (y : Body) : Option PrefArgs := do
  return { hint := slice y.mod 9 2, a := srcA y, off := y.imm }

/-- The word's fields for `CinvArgs`. -/
def CinvArgs.body (t : BitVec 3) (x : CinvArgs) : Body where
  d := 0#9
  a := x.a
  b := x.len.field
  sel := selCode false x.len.isImm
  mod := BitVec.ofNat 11 (8 * t.toNat + 4)
  imm := x.len.immField

/-- `CinvArgs` read from the word's fields. -/
def CinvArgs.read (y : Body) : Option CinvArgs := do
  return { a := y.a, len := srcB y }

/-- The word's fields for `AtomArgs`. -/
def AtomArgs.body (x : AtomArgs) : Body where
  d := x.d
  a := x.a.field
  b := x.b
  sel := selCode x.a.isZero false
  mod := BitVec.ofNat 11 (x.space.code.toNat + 8 * x.width.code.toNat + 64 * x.scope.toNat + 512 * x.hint.toNat)
  imm := x.off

/-- `AtomArgs` read from the word's fields. -/
def AtomArgs.read (y : Body) : Option AtomArgs := do
  let space ← Space.ofCode (slice y.mod 0 3)
  let width ← Width.ofCode (slice y.mod 3 3)
  return { space := space, width := width, scope := slice y.mod 6 3, hint := slice y.mod 9 2,
           d := y.d, a := srcA y, b := y.b, off := y.imm }

/-- The word's fields for `RedArgs`. -/
def RedArgs.body (x : RedArgs) : Body where
  d := x.op.code.setWidth 9
  a := x.a.field
  b := x.b
  sel := selCode x.a.isZero false
  mod := BitVec.ofNat 11 (x.space.code.toNat + 8 * x.width.code.toNat + 64 * x.scope.toNat + 512 * x.hint.toNat)
  imm := x.off

/-- `RedArgs` read from the word's fields. -/
def RedArgs.read (y : Body) : Option RedArgs := do
  let op ← AtomOp.ofCode (slice y.d 0 4)
  let space ← Space.ofCode (slice y.mod 0 3)
  let width ← Width.ofCode (slice y.mod 3 3)
  return { op := op, space := space, width := width, scope := slice y.mod 6 3,
           hint := slice y.mod 9 2, a := srcA y, b := y.b, off := y.imm }

/-- The word's fields for `AtombArgs`. -/
def AtombArgs.body (x : AtombArgs) : Body where
  d := x.d
  a := x.a.field
  b := x.b
  sel := selCode x.a.isZero false
  mod := BitVec.ofNat 11 (x.space.code.toNat + 64 * x.scope.toNat + 512 * x.hint.toNat + 16)
  imm := x.off

/-- `AtombArgs` read from the word's fields. -/
def AtombArgs.read (y : Body) : Option AtombArgs := do
  let space ← Space.ofCode (slice y.mod 0 3)
  return { space := space, scope := slice y.mod 6 3, hint := slice y.mod 9 2,
           d := y.d, a := srcA y, b := y.b, off := y.imm }

/-- The word's fields for `InspArgs`. -/
def InspArgs.body (x : InspArgs) : Body where
  d := x.d
  a := x.a
  b := 0#9
  sel := selCode false false
  mod := BitVec.ofNat 11 (64 * x.scope.toNat)
  imm := 0#32

/-- `InspArgs` read from the word's fields. -/
def InspArgs.read (y : Body) : Option InspArgs := do
  return { scope := slice y.mod 6 3, d := y.d, a := y.a }

/-- The word's fields for `InspRangeArgs`. -/
def InspRangeArgs.body (x : InspRangeArgs) : Body where
  d := x.d
  a := x.a
  b := x.len.field
  sel := selCode false x.len.isImm
  mod := BitVec.ofNat 11 (x.space.code.toNat + 64 * x.scope.toNat)
  imm := x.len.immField

/-- `InspRangeArgs` read from the word's fields. -/
def InspRangeArgs.read (y : Body) : Option InspRangeArgs := do
  let space ← Space.ofCode (slice y.mod 0 3)
  return { space := space, scope := slice y.mod 6 3, d := y.d, a := y.a, len := srcB y }

/-- The word's fields for `MonitorArgs`. -/
def MonitorArgs.body (x : MonitorArgs) : Body where
  d := 0#9
  a := x.a.field
  b := 0#9
  sel := selCode x.a.isZero true
  mod := BitVec.ofNat 11 (x.space.code.toNat)
  imm := x.off

/-- `MonitorArgs` read from the word's fields. -/
def MonitorArgs.read (y : Body) : Option MonitorArgs := do
  let space ← Space.ofCode (slice y.mod 0 3)
  return { space := space, a := srcA y, off := y.imm }

/-- The word's fields for `BarinitArgs`. -/
def BarinitArgs.body (x : BarinitArgs) : Body where
  d := 0#9
  a := x.a
  b := x.n.field
  sel := selCode false x.n.isImm
  mod := BitVec.ofNat 11 (x.space.code.toNat)
  imm := x.n.immField

/-- `BarinitArgs` read from the word's fields. -/
def BarinitArgs.read (y : Body) : Option BarinitArgs := do
  let space ← Space.ofCode (slice y.mod 0 3)
  return { space := space, a := y.a, n := srcB y }

/-- The word's fields for `BaraArgs`. -/
def BaraArgs.body (x : BaraArgs) : Body where
  d := x.d
  a := x.a
  b := x.n.field
  sel := selCode false x.n.isImm
  mod := BitVec.ofNat 11 (x.space.code.toNat)
  imm := x.n.immField

/-- `BaraArgs` read from the word's fields. -/
def BaraArgs.read (y : Body) : Option BaraArgs := do
  let space ← Space.ofCode (slice y.mod 0 3)
  return { space := space, d := y.d, a := y.a, n := srcB y }

/-- The word's fields for `BarwArgs`. -/
def BarwArgs.body (x : BarwArgs) : Body where
  d := x.d
  a := x.a
  b := x.b
  sel := selCode false false
  mod := BitVec.ofNat 11 (x.space.code.toNat + 8 * x.target.code.toNat + 32 * x.scope.toNat)
  imm := 0#32

/-- `BarwArgs` read from the word's fields. -/
def BarwArgs.read (y : Body) : Option BarwArgs := do
  let space ← Space.ofCode (slice y.mod 0 3)
  let target ← InspTarget.ofCode (slice y.mod 3 2)
  return { space := space, target := target, scope := slice y.mod 5 3, d := y.d, a := y.a, b := y.b }

/-- The word's fields for `ElideArgs`. -/
def ElideArgs.body (x : ElideArgs) : Body where
  d := x.d
  a := x.a
  b := 0#9
  sel := selCode false false
  mod := BitVec.ofNat 11 (4)
  imm := x.off

/-- `ElideArgs` read from the word's fields. -/
def ElideArgs.read (y : Body) : Option ElideArgs := do
  return { d := y.d, a := y.a, off := y.imm }

/-- The word's fields for `CopyArgs`. -/
def CopyArgs.body (x : CopyArgs) : Body where
  d := x.d
  a := x.a
  b := x.b
  sel := selCode false false
  mod := BitVec.ofNat 11 (x.kind.code.toNat + 4 * x.target.code.toNat + 16 * x.sc.toNat + 128 * x.ss.toNat + 512 * x.ds.toNat)
  imm := x.len

/-- `CopyArgs` read from the word's fields. -/
def CopyArgs.read (y : Body) : Option CopyArgs := do
  let kind ← SinkKind.ofCode (slice y.mod 0 2)
  let target ← InspTarget.ofCode (slice y.mod 2 2)
  return { kind := kind, target := target, sc := slice y.mod 4 3, ss := slice y.mod 7 2,
           ds := slice y.mod 9 2, d := y.d, a := y.a, b := y.b, len := y.imm }

/-- The word's fields for `KickArgs`. -/
def KickArgs.body (x : KickArgs) : Body where
  d := x.d
  a := x.a
  b := x.n.field
  sel := selCode false x.n.isImm
  mod := BitVec.ofNat 11 (x.kind.code.toNat + 4 * x.target.code.toNat + 16 * x.sc.toNat)
  imm := x.n.immField

/-- `KickArgs` read from the word's fields. -/
def KickArgs.read (y : Body) : Option KickArgs := do
  let kind ← SinkKind.ofCode (slice y.mod 0 2)
  let target ← InspTarget.ofCode (slice y.mod 2 2)
  return { kind := kind, target := target, sc := slice y.mod 4 3, d := y.d, a := y.a, n := srcB y }

/-- The word's fields for `TilehArgs`. -/
def TilehArgs.body (x : TilehArgs) : Body where
  d := 0#9
  a := x.a
  b := 0#9
  sel := selCode false true
  mod := 0#11
  imm := BitVec.ofNat 32 (x.slot.toNat)

/-- `TilehArgs` read from the word's fields. -/
def TilehArgs.read (y : Body) : Option TilehArgs := do
  return { a := y.a, slot := slice y.imm 0 6 }

/-- The word's fields for `TilefArgs`. -/
def TilefArgs.body (x : TilefArgs) : Body where
  d := x.d
  a := x.a
  b := x.b
  sel := selCode false false
  mod := BitVec.ofNat 11 (x.kind.code.toNat + 4 * x.target.code.toNat + 16 * x.sc.toNat)
  imm := 0#32

/-- `TilefArgs` read from the word's fields. -/
def TilefArgs.read (y : Body) : Option TilefArgs := do
  let kind ← SinkKind.ofCode (slice y.mod 0 2)
  let target ← InspTarget.ofCode (slice y.mod 2 2)
  return { kind := kind, target := target, sc := slice y.mod 4 3, d := y.d, a := y.a, b := y.b }

/-- The word's fields for `FabxArgs`. -/
def FabxArgs.body (kind : BitVec 2) (x : FabxArgs) : Body where
  d := x.d
  a := x.a
  b := x.b
  sel := selCode false false
  mod := BitVec.ofNat 11 (x.kind.code.toNat + 4 * x.target.code.toNat + 16 * x.sc.toNat + 128 * x.ss.toNat + 512 * kind.toNat)
  imm := x.len

/-- `FabxArgs` read from the word's fields. -/
def FabxArgs.read (y : Body) : Option FabxArgs := do
  let kind ← SinkKind.ofCode (slice y.mod 0 2)
  let target ← InspTarget.ofCode (slice y.mod 2 2)
  return { kind := kind, target := target, sc := slice y.mod 4 3, ss := slice y.mod 7 2,
           d := y.d, a := y.a, b := y.b, len := y.imm }

/-- The word's fields for `MmaArgs`. -/
def MmaArgs.body (x : MmaArgs) : Body where
  d := x.d
  a := x.a
  b := 0#9
  sel := selCode false false
  mod := BitVec.ofNat 11 (x.kind.code.toNat + 4 * x.target.code.toNat + 16 * x.sc.toNat)
  imm := 0#32

/-- `MmaArgs` read from the word's fields. -/
def MmaArgs.read (y : Body) : Option MmaArgs := do
  let kind ← SinkKind.ofCode (slice y.mod 0 2)
  let target ← InspTarget.ofCode (slice y.mod 2 2)
  return { kind := kind, target := target, sc := slice y.mod 4 3, d := y.d, a := y.a }

/-- The word's fields for `MloadbArgs`. -/
def MloadbArgs.body (x : MloadbArgs) : Body where
  d := x.d
  a := x.a
  b := x.b
  sel := selCode false false
  mod := BitVec.ofNat 11 (x.kind.code.toNat + 4 * x.target.code.toNat + 16 * x.sc.toNat)
  imm := x.k

/-- `MloadbArgs` read from the word's fields. -/
def MloadbArgs.read (y : Body) : Option MloadbArgs := do
  let kind ← SinkKind.ofCode (slice y.mod 0 2)
  let target ← InspTarget.ofCode (slice y.mod 2 2)
  return { kind := kind, target := target, sc := slice y.mod 4 3, d := y.d, a := y.a, b := y.b, k := y.imm }

/-- The word's fields for `AccArgs`. -/
def AccArgs.body (x : AccArgs) : Body where
  d := x.d
  a := x.a.field
  b := 0#9
  sel := selCode x.a.isZero true
  mod := 0#11
  imm := x.off

/-- `AccArgs` read from the word's fields. -/
def AccArgs.read (y : Body) : Option AccArgs := do
  return { d := y.d, a := srcA y, off := y.imm }

/-- The word's fields for `MzeroArgs`. -/
def MzeroArgs.body (x : MzeroArgs) : Body where
  d := 0#9
  a := x.a.field
  b := 0#9
  sel := selCode x.a.isZero true
  mod := 0#11
  imm := x.n

/-- `MzeroArgs` read from the word's fields. -/
def MzeroArgs.read (y : Body) : Option MzeroArgs := do
  return { a := srcA y, n := y.imm }

/-- The word's fields for `QputArgs`. -/
def QputArgs.body (x : QputArgs) : Body where
  d := x.d
  a := x.a
  b := 0#9
  sel := selCode false true
  mod := BitVec.ofNat 11 (bit x.g)
  imm := BitVec.ofNat 32 (x.pipe.toNat)

/-- `QputArgs` read from the word's fields. -/
def QputArgs.read (y : Body) : Option QputArgs := do
  return { g := bitOf y.mod 0, d := y.d, a := y.a, pipe := slice y.imm 0 2 }

/-- The word's fields for `QgetArgs`. -/
def QgetArgs.body (x : QgetArgs) : Body where
  d := x.d
  a := x.a
  b := 0#9
  sel := selCode false true
  mod := 0#11
  imm := BitVec.ofNat 32 (x.pipe.toNat)

/-- `QgetArgs` read from the word's fields. -/
def QgetArgs.read (y : Body) : Option QgetArgs := do
  return { d := y.d, a := y.a, pipe := slice y.imm 0 2 }

/-- The word's fields for `QcountArgs`. -/
def QcountArgs.body (x : QcountArgs) : Body where
  d := x.d
  a := 0#9
  b := 0#9
  sel := selCode true true
  mod := 0#11
  imm := BitVec.ofNat 32 (x.pipe.toNat)

/-- `QcountArgs` read from the word's fields. -/
def QcountArgs.read (y : Body) : Option QcountArgs := do
  return { d := y.d, pipe := slice y.imm 0 2 }

/-- The word's fields for `MsendArgs`. -/
def MsendArgs.body (x : MsendArgs) : Body where
  d := x.d
  a := x.a
  b := x.b
  sel := selCode false false
  mod := 0#11
  imm := BitVec.ofNat 32 (x.len.toNat + 65536 * x.tag.toNat)

/-- `MsendArgs` read from the word's fields. -/
def MsendArgs.read (y : Body) : Option MsendArgs := do
  return { d := y.d, a := y.a, b := y.b, len := slice y.imm 0 9, tag := slice y.imm 16 16 }

/-- The word's fields for `MpostArgs`. -/
def MpostArgs.body (x : MpostArgs) : Body where
  d := x.d
  a := x.a
  b := x.b
  sel := selCode false false
  mod := 0#11
  imm := BitVec.ofNat 32 (x.size.toNat)

/-- `MpostArgs` read from the word's fields. -/
def MpostArgs.read (y : Body) : Option MpostArgs := do
  return { d := y.d, a := y.a, b := y.b, size := slice y.imm 0 9 }

/-- The word's fields for `MtestArgs`. -/
def MtestArgs.body (x : MtestArgs) : Body where
  d := x.d
  a := x.a
  b := 0#9
  sel := selCode false false
  mod := BitVec.ofNat 11 (bit x.w)
  imm := 0#32

/-- `MtestArgs` read from the word's fields. -/
def MtestArgs.read (y : Body) : Option MtestArgs := do
  return { w := bitOf y.mod 0, d := y.d, a := y.a }

/-- The word's fields for `JspawnArgs`. -/
def JspawnArgs.body (x : JspawnArgs) : Body where
  d := x.d
  a := x.a
  b := x.b.field
  sel := selCode false x.b.isImm
  mod := 0#11
  imm := x.b.immField

/-- `JspawnArgs` read from the word's fields. -/
def JspawnArgs.read (y : Body) : Option JspawnArgs := do
  return { d := y.d, a := y.a, b := srcB y }

/-- The word's fields for `PostiArgs`. -/
def PostiArgs.body (x : PostiArgs) : Body where
  d := x.d
  a := x.a
  b := x.b
  sel := selCode false false
  mod := 0#11
  imm := 0#32

/-- `PostiArgs` read from the word's fields. -/
def PostiArgs.read (y : Body) : Option PostiArgs := do
  return { d := y.d, a := y.a, b := y.b }

/-- The word's fields for `TryArgs`. -/
def TryArgs.body (x : TryArgs) : Body where
  d := x.d
  a := 0#9
  b := 0#9
  sel := selCode true true
  mod := BitVec.ofNat 11 (x.cnt.toNat + 16 * x.wlen.toNat + 512 * bit x.steal)
  imm := x.off

/-- `TryArgs` read from the word's fields. -/
def TryArgs.read (y : Body) : Option TryArgs := do
  return { cnt := slice y.mod 0 4, wlen := slice y.mod 4 5, steal := bitOf y.mod 9, d := y.d, off := y.imm }

/-- The word's fields for `TrailwArgs`. -/
def TrailwArgs.body (x : TrailwArgs) : Body where
  d := 0#9
  a := x.a
  b := 0#9
  sel := selCode false true
  mod := 0#11
  imm := BitVec.ofNat 32 (x.n.toNat)

/-- `TrailwArgs` read from the word's fields. -/
def TrailwArgs.read (y : Body) : Option TrailwArgs := do
  return { a := y.a, n := slice y.imm 0 6 }

/-- The word's fields for `FmtsetArgs`. -/
def FmtsetArgs.body (x : FmtsetArgs) : Body where
  d := x.d
  a := x.a
  b := 0#9
  sel := selCode false true
  mod := BitVec.ofNat 11 (x.kind.code.toNat + 16 * x.sc.toNat)
  imm := BitVec.ofNat 32 (x.n.toNat)

/-- `FmtsetArgs` read from the word's fields. -/
def FmtsetArgs.read (y : Body) : Option FmtsetArgs := do
  let kind ← SinkKind.ofCode (slice y.mod 0 2)
  return { kind := kind, sc := slice y.mod 4 3, d := y.d, a := y.a, n := slice y.imm 0 5 }

/-- The word's fields for `FmtgetArgs`. -/
def FmtgetArgs.body (x : FmtgetArgs) : Body where
  d := x.d
  a := 0#9
  b := 0#9
  sel := selCode true true
  mod := 0#11
  imm := BitVec.ofNat 32 (x.n.toNat)

/-- `FmtgetArgs` read from the word's fields. -/
def FmtgetArgs.read (y : Body) : Option FmtgetArgs := do
  return { d := y.d, n := slice y.imm 0 5 }

/-- The word's fields for `SpecArgs`. -/
def SpecArgs.body (x : SpecArgs) : Body where
  d := x.d
  a := 0#9
  b := 0#9
  sel := selCode true true
  mod := 0#11
  imm := BitVec.ofNat 32 (x.idx.toNat)

/-- `SpecArgs` read from the word's fields. -/
def SpecArgs.read (y : Body) : Option SpecArgs := do
  return { d := y.d, idx := slice y.imm 0 12 }

/-- The header of a word; none for KEEP = 0b11 (R126). -/
def Hdr.read (f : Fields) : Option Hdr := do
  let keep ← Keep.ofCode f.keep
  return { neg := bitOf f.gd 3, pred := slice f.gd 0 3, keep := keep, look := f.look,
           yld := bitOf f.yld 0, solo := bitOf f.solo 0 }

/-- The fields of an instruction with the given header, OP, FN and operand fields. -/
def Hdr.fields (h : Hdr) (op fn : Nat) (y : Body) : Fields where
  op := BitVec.ofNat 8 op
  fn := BitVec.ofNat 4 fn
  gd := BitVec.ofNat 4 (h.pred.toNat + 8 * bit h.neg)
  keep := h.keep.code
  look := h.look
  yld := BitVec.ofNat 1 (bit h.yld)
  solo := BitVec.ofNat 1 (bit h.solo)
  body := y

/-- The operand fields of an instruction that reads none. -/
def noBody (sel : BitVec 2) : Body := { d := 0#9, a := 0#9, b := 0#9, sel := sel, mod := 0#11, imm := 0#32 }

/-- The fields of an instruction's word (Tables 7-6 and 7-7 give OP and FN); none for a step without a word. -/
def Instr.fields : Instr → Option Fields
  | .nop h => some (h.fields 0x00 0 (noBody 0#2))
  | .bra h x => some (h.fields 0x01 0 x.body)
  | .brx h x => some (h.fields 0x02 0 x.body)
  | .brt h x => some (h.fields 0x03 0 x.body)
  | .call h x => some (h.fields 0x04 0 x.body)
  | .callx h x => some (h.fields 0x05 0 x.body)
  | .ret h => some (h.fields 0x06 0 (noBody 0#2))
  | .exit h => some (h.fields 0x07 0 (noBody 0#2))
  | .split h x => some (h.fields 0x08 0 x.body)
  | .join h => some (h.fields 0x09 0 (noBody 0#2))
  | .yield h x => some (h.fields 0x0A 0 x.body)
  | .sleep h x => some (h.fields 0x0B 0 x.body)
  | .trap h x => some (h.fields 0x0C 0 x.body)
  | .iret h x => some (h.fields 0x0D 0 x.body)
  | .bkpt h x => some (h.fields 0x0E 0 x.body)
  | .svc h x => some (h.fields 0x0F 0 x.body)
  | .add h x => some (h.fields 0x10 0 x.body)
  | .sub h x => some (h.fields 0x11 0 x.body)
  | .mul h x => some (h.fields 0x12 0 x.body)
  | .mulh h x => some (h.fields 0x13 0 x.body)
  | .mad h x => some (h.fields 0x14 0 x.body)
  | .madw h x => some (h.fields 0x15 0 x.body)
  | .div h x => some (h.fields 0x16 0 x.body)
  | .rem h x => some (h.fields 0x17 0 x.body)
  | .min h x => some (h.fields 0x18 0 x.body)
  | .max h x => some (h.fields 0x19 0 x.body)
  | .abs h x => some (h.fields 0x1A 0 x.body)
  | .neg h x => some (h.fields 0x1B 0 x.body)
  | .addc h x => some (h.fields 0x1C 0 x.body)
  | .lea h x => some (h.fields 0x1D 0 x.body)
  | .add64 h x => some (h.fields 0x1E 0 x.body)
  | .sub64 h x => some (h.fields 0x1F 0 x.body)
  | .and h x => some (h.fields 0x20 0 x.body)
  | .or h x => some (h.fields 0x21 0 x.body)
  | .xor h x => some (h.fields 0x22 0 x.body)
  | .andn h x => some (h.fields 0x23 0 x.body)
  | .shl h x => some (h.fields 0x24 0 x.body)
  | .shr h x => some (h.fields 0x25 0 x.body)
  | .sar h x => some (h.fields 0x26 0 x.body)
  | .rotl h x => some (h.fields 0x27 0 x.body)
  | .clz h x => some (h.fields 0x28 0 x.body)
  | .popc h x => some (h.fields 0x29 0 x.body)
  | .brev h x => some (h.fields 0x2A 0 x.body)
  | .bfx h x => some (h.fields 0x2B 0 x.body)
  | .bfi h x => some (h.fields 0x2C 0 x.body)
  | .prmb h x => some (h.fields 0x2D 0 x.body)
  | .mov h x => some (h.fields 0x2E 0 x.body)
  | .sel h x => some (h.fields 0x2F 0 x.body)
  | .icmp h x => some (h.fields 0x30 0 x.body)
  | .plop h x => some (h.fields 0x31 0 x.body)
  | .p2g h x => some (h.fields 0x32 0 x.body)
  | .g2p h x => some (h.fields 0x33 0 x.body)
  | .shflIdx h x => some (h.fields 0x34 0 x.body)
  | .shflUp h x => some (h.fields 0x34 1 x.body)
  | .shflDown h x => some (h.fields 0x34 2 x.body)
  | .shflXor h x => some (h.fields 0x34 3 x.body)
  | .voteAll h x => some (h.fields 0x35 0 x.body)
  | .voteAny h x => some (h.fields 0x35 1 x.body)
  | .voteBallot h x => some (h.fields 0x35 2 x.body)
  | .voteCount h x => some (h.fields 0x35 3 x.body)
  | .cred h op x => some (h.fields 0x36 op.code.toNat x.body)
  | .cscan h x => some (h.fields 0x37 0 x.body)
  | .matchLanes h x => some (h.fields 0x38 0 x.body)
  | .elect h x => some (h.fields 0x39 0 x.body)
  | .fadd h x => some (h.fields 0x40 0 x.body)
  | .fsub h x => some (h.fields 0x41 0 x.body)
  | .fmul h x => some (h.fields 0x42 0 x.body)
  | .fma h x => some (h.fields 0x43 0 x.body)
  | .fmin h x => some (h.fields 0x44 0 x.body)
  | .fmax h x => some (h.fields 0x45 0 x.body)
  | .fcmp h x => some (h.fields 0x46 0 x.body)
  | .fdiv h x => some (h.fields 0x47 0 x.body)
  | .frcp h x => some (h.fields 0x48 0 x.body)
  | .frsq h x => some (h.fields 0x49 0 x.body)
  | .fsqrt h x => some (h.fields 0x4A 0 x.body)
  | .fexp2 h x => some (h.fields 0x4B 0 x.body)
  | .flog2 h x => some (h.fields 0x4C 0 x.body)
  | .fsinp h x => some (h.fields 0x4D 0 x.body)
  | .fcosp h x => some (h.fields 0x4E 0 x.body)
  | .fscale h x => some (h.fields 0x4F 0 x.body)
  | .fclass h x => some (h.fields 0x50 0 x.body)
  | .frint h x => some (h.fields 0x51 0 x.body)
  | .fcvt h x => some (h.fields 0x52 0 x.body)
  | .ftoi h x => some (h.fields 0x53 0 x.body)
  | .itof h x => some (h.fields 0x54 0 x.body)
  | .dadd h x => some (h.fields 0x55 0 x.body)
  | .dmul h x => some (h.fields 0x56 0 x.body)
  | .dfma h x => some (h.fields 0x57 0 x.body)
  | .dcmp h x => some (h.fields 0x58 0 x.body)
  | .hadd2 h x => some (h.fields 0x59 0 x.body)
  | .hmul2 h x => some (h.fields 0x5A 0 x.body)
  | .hfma2 h x => some (h.fields 0x5B 0 x.body)
  | .fdot2 h x => some (h.fields 0x5C 0 x.body)
  | .fdot4 h x => some (h.fields 0x5D 0 x.body)
  | .cmul h x => some (h.fields 0x5E 0 x.body)
  | .ld h x => some (h.fields 0x60 0 x.body)
  | .ldAfter h x => some (h.fields 0x60 1 x.body)
  | .st h x => some (h.fields 0x61 0 x.body)
  | .ldf h x => some (h.fields 0x62 0 x.body)
  | .stf h x => some (h.fields 0x63 0 x.body)
  | .pref h x => some (h.fields 0x64 0 x.body)
  | .cinvD h x => some (h.fields 0x65 0 (x.body 0#3))
  | .cinvI h x => some (h.fields 0x65 0 (x.body 1#3))
  | .cinvIf h x => some (h.fields 0x65 0 (x.body 2#3))
  | .atomAdd h x => some (h.fields 0x70 0 x.body)
  | .atomMinS h x => some (h.fields 0x70 1 x.body)
  | .atomMinN h x => some (h.fields 0x70 2 x.body)
  | .atomMaxS h x => some (h.fields 0x70 3 x.body)
  | .atomMaxN h x => some (h.fields 0x70 4 x.body)
  | .atomAnd h x => some (h.fields 0x70 5 x.body)
  | .atomOr h x => some (h.fields 0x70 6 x.body)
  | .atomXor h x => some (h.fields 0x70 7 x.body)
  | .atomExch h x => some (h.fields 0x70 8 x.body)
  | .atomFadd h x => some (h.fields 0x70 9 x.body)
  | .atomFmin h x => some (h.fields 0x70 10 x.body)
  | .atomFmax h x => some (h.fields 0x70 11 x.body)
  | .atomcas h x => some (h.fields 0x71 0 x.body)
  | .red h x => some (h.fields 0x72 0 x.body)
  | .atombInc h x => some (h.fields 0x73 0 x.body)
  | .atombDec h x => some (h.fields 0x73 1 x.body)
  | .inspT h x => some (h.fields 0x80 0 x.body)
  | .inspG h x => some (h.fields 0x80 1 x.body)
  | .inspB h x => some (h.fields 0x80 2 x.body)
  | .inspA h x => some (h.fields 0x80 3 x.body)
  | .inspS h x => some (h.fields 0x80 4 x.body)
  | .monitor h x => some (h.fields 0x81 0 x.body)
  | .mwait h x => some (h.fields 0x82 0 x.body)
  | .barinit h x => some (h.fields 0x83 0 x.body)
  | .bara h x => some (h.fields 0x84 0 x.body)
  | .barw h x => some (h.fields 0x85 0 x.body)
  | .elide h x => some (h.fields 0x86 0 x.body)
  | .elend h => some (h.fields 0x87 0 (noBody 0#2))
  | .copy h x => some (h.fields 0x90 0 x.body)
  | .kick h x => some (h.fields 0x91 0 x.body)
  | .tileh h x => some (h.fields 0x92 0 x.body)
  | .tilef h x => some (h.fields 0x93 0 x.body)
  | .cwait h x => some (h.fields 0x94 0 x.body)
  | .fabxWr h x => some (h.fields 0x95 0 (x.body 0#2))
  | .fabxRed h x => some (h.fields 0x95 0 (x.body 1#2))
  | .mma h x => some (h.fields 0xA0 0 x.body)
  | .mloadb h x => some (h.fields 0xA1 0 x.body)
  | .mread h x => some (h.fields 0xA2 0 x.body)
  | .mwrite h x => some (h.fields 0xA3 0 x.body)
  | .mzero h x => some (h.fields 0xA4 0 x.body)
  | .qput h x => some (h.fields 0xB0 0 x.body)
  | .qget h x => some (h.fields 0xB1 0 x.body)
  | .qcount h x => some (h.fields 0xB2 0 x.body)
  | .msend h x => some (h.fields 0xB3 0 x.body)
  | .mpost h x => some (h.fields 0xB4 0 x.body)
  | .mtest h x => some (h.fields 0xB5 0 x.body)
  | .jspawn h x => some (h.fields 0xB6 0 x.body)
  | .jnext h x => some (h.fields 0xB7 0 x.body)
  | .posti h x => some (h.fields 0xB8 0 x.body)
  | .tryAlt h x => some (h.fields 0xC0 0 x.body)
  | .fail h => some (h.fields 0xC1 0 (noBody 0#2))
  | .cut h x => some (h.fields 0xC2 0 x.body)
  | .mark h x => some (h.fields 0xC3 0 x.body)
  | .steal h x => some (h.fields 0xC4 0 x.body)
  | .trailw h x => some (h.fields 0xC5 0 x.body)
  | .fmtset h x => some (h.fields 0xD0 0 x.body)
  | .fmtget h x => some (h.fields 0xD1 0 x.body)
  | .movs h x => some (h.fields 0xD2 0 x.body)
  | .movsCycl h d => some (h.fields 0xD2 0 (SpecArgs.body { d := d, idx := 24#12 }))
  | .movsCych h d => some (h.fields 0xD2 0 (SpecArgs.body { d := d, idx := 25#12 }))
  | .sets h x => some (h.fields 0xD3 0 x.body)
  | .setsTrb h d => some (h.fields 0xD3 0 (SpecArgs.body { d := d, idx := 17#12 }))
  | .setsFlg h d => some (h.fields 0xD3 0 (SpecArgs.body { d := d, idx := 22#12 }))
  | .setsFrm h d => some (h.fields 0xD3 0 (SpecArgs.body { d := d, idx := 23#12 }))
  | .inspTargetCut _ _ => none
  | .inspComplete _ => none
  | .elideSectionFail _ _ => none
  | .asyncFaultDeliver _ => none
  | .longLatencyComplete _ _ => none
  | .loadBind _ _ => none
  | .storeCheckPass _ => none
  | .psqEntryDrain _ _ => none
  | .drainAgeExpiry _ _ => none
  | .writeThroughPerform _ => none
  | .mergeDemand _ _ => none
  | .mergeReceive _ _ => none
  | .mirrorPropagate _ _ => none
  | .mirrorReplicaAck _ _ => none
  | .translationWalkEnd _ => none
  | .parkedAccessResolved _ _ => none
  | .unscrubbedClear _ => none
  | .watchLossWake _ _ => none
  | .mwaitTimeout _ => none
  | .sleepExpiry _ => none
  | .yieldExpiry _ => none
  | .copyBlock _ _ => none
  | .requestComplete _ => none
  | .kickItemComplete _ _ => none
  | .mloadbComplete _ => none
  | .mmaKBlock _ => none
  | .mmaComplete _ => none
  | .fmtsetComplete _ _ => none
  | .messageArrival _ => none
  | .msendAnswer _ => none
  | .reqNackReceive _ _ => none
  | .backoffExpiry _ => none
  | .causewayFrameReceive _ _ => none
  | .causewayAckReceive _ _ => none
  | .causewayResendTimeout _ => none
  | .connectionOpen _ _ _ => none
  | .mergedResultDeliver _ _ => none
  | .reductionAck _ _ => none
  | .windowAbort _ _ => none
  | .cancelTakeEffect _ => none
  | .cardAdmit _ => none
  | .jobWaitReevaluate _ => none
  | .jobStart _ => none
  | .gangPlace _ _ _ => none
  | .bandPlace _ _ => none
  | .gangRetire _ => none
  | .jobSinkWrite _ => none
  | .budgetPeriodRefill _ => none
  | .timeSliceExpiry _ _ => none
  | .preempt _ _ => none
  | .preemptStep3Bound _ => none
  | .resume _ => none
  | .waitForWalk _ => none
  | .breakWait _ => none
  | .pagePurge _ _ _ => none
  | .remapRegister _ _ => none
  | .keySlotLoad _ _ => none
  | .partitionCreate _ _ _ => none
  | .partitionDestroy _ => none
  | .replicaHoldSet _ _ _ _ => none
  | .replicaHoldRelease _ _ => none
  | .debugStop _ => none
  | .singleStep _ _ => none
  | .packageReset _ => none
  | .bringUpEnd => none
  | .islePowerChange _ _ => none
  | .dieOvertemp _ => none
  | .dramOvertemp _ => none
  | .telemetryRefresh _ => none
  | .usageRecordEmit _ _ => none
  | .scrub _ _ => none
  | .dieWarmReset _ _ => none
  | .foreignProbeRefuse _ _ _ _ _ => none
  | .svcReply _ _ => none
  | .stallingInstructionComplete _ => none
  | .debugRelease _ => none
  | .debugStopEnable _ _ => none
  | .debugStateWrite _ _ => none
  | .dieTempRecover _ => none
  | .dramTempRecover _ => none
  | .streamDescriptorWrite _ _ => none
  | .runtimeThreadRegister _ _ _ _ => none
  | .pteInstall _ _ _ => none
  | .macsecKeyLoad _ _ => none
  | .runtimeCardPlace _ _ _ _ => none

/-- Why a word is refused (R136 steps 1 to 3). -/
inductive DecodeFault where
  /-- OP or FN is unassigned: ILLEGAL_OP. -/
  | illegalOp
  /-- A field value is not allowed: ILLEGAL_FIELD. -/
  | illegalField
  /-- A scope code is reserved: SCOPE_RESERVED. -/
  | scopeReserved
  deriving DecidableEq, Repr

/-- Which FN values an OP takes (Tables 7-6 and 7-7): 0 for an unassigned OP, else the number of FN values. -/
def fnCount (op : Nat) : Nat :=
  if op = 0x34 ∨ op = 0x35 then 4
  else if op = 0x36 then 9
  else if op = 0x60 ∨ op = 0x73 then 2
  else if op = 0x70 then 12
  else if op = 0x80 then 5
  else if op ≤ 0x33 ∨ (0x37 ≤ op ∧ op ≤ 0x39) ∨ (0x40 ≤ op ∧ op ≤ 0x5E) ∨ (0x61 ≤ op ∧ op ≤ 0x65)
      ∨ op = 0x71 ∨ op = 0x72 ∨ (0x81 ≤ op ∧ op ≤ 0x87) ∨ (0x90 ≤ op ∧ op ≤ 0x95)
      ∨ (0xA0 ≤ op ∧ op ≤ 0xA4) ∨ (0xB0 ≤ op ∧ op ≤ 0xB8) ∨ (0xC0 ≤ op ∧ op ≤ 0xC5)
      ∨ (0xD0 ≤ op ∧ op ≤ 0xD3) then 1
  else 0

/-- The instruction that OP, FN and the fields spell, before the checks on its operands. -/
def readInstr (op fn : Nat) (h : Hdr) (y : Body) : Option Instr :=
  match op with
  | 0x00 => some (.nop h)
  | 0x01 => (OffArgs.read y).map (.bra h)
  | 0x02 => (PairArgs.read y).map (.brx h)
  | 0x03 => (BrtArgs.read y).map (.brt h)
  | 0x04 => (OffArgs.read y).map (.call h)
  | 0x05 => (PairArgs.read y).map (.callx h)
  | 0x06 => some (.ret h)
  | 0x07 => some (.exit h)
  | 0x08 => (OffArgs.read y).map (.split h)
  | 0x09 => some (.join h)
  | 0x0A => (CountArgs.read y).map (.yield h)
  | 0x0B => (OneArgs.read y).map (.sleep h)
  | 0x0C => (OffArgs.read y).map (.trap h)
  | 0x0D => (IretArgs.read y).map (.iret h)
  | 0x0E => (OffArgs.read y).map (.bkpt h)
  | 0x0F => (SvcArgs.read y).map (.svc h)
  | 0x10 => (IntSatArgs.read y).map (.add h)
  | 0x11 => (IntSatArgs.read y).map (.sub h)
  | 0x12 => (IntSatArgs.read y).map (.mul h)
  | 0x13 => (MulhArgs.read y).map (.mulh h)
  | 0x14 => (MadArgs.read y).map (.mad h)
  | 0x15 => (MadwArgs.read y).map (.madw h)
  | 0x16 => (IntTyArgs.read y).map (.div h)
  | 0x17 => (IntTyArgs.read y).map (.rem h)
  | 0x18 => (IntTyArgs.read y).map (.min h)
  | 0x19 => (IntTyArgs.read y).map (.max h)
  | 0x1A => (UnSatArgs.read y).map (.abs h)
  | 0x1B => (UnSatArgs.read y).map (.neg h)
  | 0x1C => (IntTyArgs.read y).map (.addc h)
  | 0x1D => (LeaArgs.read y).map (.lea h)
  | 0x1E => (WideArgs.read y).map (.add64 h)
  | 0x1F => (WideArgs.read y).map (.sub64 h)
  | 0x20 => (IntArgs.read y).map (.and h)
  | 0x21 => (IntArgs.read y).map (.or h)
  | 0x22 => (IntArgs.read y).map (.xor h)
  | 0x23 => (IntArgs.read y).map (.andn h)
  | 0x24 => (IntArgs.read y).map (.shl h)
  | 0x25 => (IntArgs.read y).map (.shr h)
  | 0x26 => (IntArgs.read y).map (.sar h)
  | 0x27 => (IntArgs.read y).map (.rotl h)
  | 0x28 => (UnArgs.read y).map (.clz h)
  | 0x29 => (UnArgs.read y).map (.popc h)
  | 0x2A => (UnArgs.read y).map (.brev h)
  | 0x2B => (IntTyArgs.read y).map (.bfx h)
  | 0x2C => (IntArgs.read y).map (.bfi h)
  | 0x2D => (PrmbArgs.read y).map (.prmb h)
  | 0x2E => (MovArgs.read y).map (.mov h)
  | 0x2F => (SelArgs.read y).map (.sel h)
  | 0x30 => (IcmpArgs.read y).map (.icmp h)
  | 0x31 => (PlopArgs.read y).map (.plop h)
  | 0x32 => (DstArgs.read y).map (.p2g h)
  | 0x33 => (G2pArgs.read y).map (.g2p h)
  | 0x34 =>
    match fn with
    | 0 => (ShflArgs.read y).map (.shflIdx h)
    | 1 => (ShflArgs.read y).map (.shflUp h)
    | 2 => (ShflArgs.read y).map (.shflDown h)
    | _ => (ShflArgs.read y).map (.shflXor h)
  | 0x35 =>
    match fn with
    | 0 => (VotePredArgs.read y).map (.voteAll h)
    | 1 => (VotePredArgs.read y).map (.voteAny h)
    | 2 => (VoteRegArgs.read y).map (.voteBallot h)
    | _ => (VoteRegArgs.read y).map (.voteCount h)
  | 0x36 => do return .cred h (← CredOp.ofCode (BitVec.ofNat 4 fn)) (← CredArgs.read y)
  | 0x37 => (CscanArgs.read y).map (.cscan h)
  | 0x38 => (UnArgs.read y).map (.matchLanes h)
  | 0x39 => (ElectArgs.read y).map (.elect h)
  | 0x40 => (FpArgs.read y).map (.fadd h)
  | 0x41 => (FpArgs.read y).map (.fsub h)
  | 0x42 => (FpArgs.read y).map (.fmul h)
  | 0x43 => (FpArgs.read y).map (.fma h)
  | 0x44 => (FminArgs.read y).map (.fmin h)
  | 0x45 => (FminArgs.read y).map (.fmax h)
  | 0x46 => (FcmpArgs.read y).map (.fcmp h)
  | 0x47 => (FpArgs.read y).map (.fdiv h)
  | 0x48 => (FunArgs.read y).map (.frcp h)
  | 0x49 => (FunArgs.read y).map (.frsq h)
  | 0x4A => (FunArgs.read y).map (.fsqrt h)
  | 0x4B => (FunArgs.read y).map (.fexp2 h)
  | 0x4C => (FunArgs.read y).map (.flog2 h)
  | 0x4D => (FunArgs.read y).map (.fsinp h)
  | 0x4E => (FunArgs.read y).map (.fcosp h)
  | 0x4F => (FscaleArgs.read y).map (.fscale h)
  | 0x50 => (UnArgs.read y).map (.fclass h)
  | 0x51 => (FrintArgs.read y).map (.frint h)
  | 0x52 => (FcvtArgs.read y).map (.fcvt h)
  | 0x53 => (FtoiArgs.read y).map (.ftoi h)
  | 0x54 => (ItofArgs.read y).map (.itof h)
  | 0x55 => (DpArgs.read y).map (.dadd h)
  | 0x56 => (DpArgs.read y).map (.dmul h)
  | 0x57 => (DpArgs.read y).map (.dfma h)
  | 0x58 => (DcmpArgs.read y).map (.dcmp h)
  | 0x59 => (PackedArgs.read y).map (.hadd2 h)
  | 0x5A => (PackedArgs.read y).map (.hmul2 h)
  | 0x5B => (PackedArgs.read y).map (.hfma2 h)
  | 0x5C => (FdotArgs.read y).map (.fdot2 h)
  | 0x5D => (FdotArgs.read y).map (.fdot4 h)
  | 0x5E => (Pair3Args.read y).map (.cmul h)
  | 0x60 =>
    match fn with
    | 0 => (MemArgs.read y).map (.ld h)
    | _ => (MemArgs.read y).map (.ldAfter h)
  | 0x61 => (MemArgs.read y).map (.st h)
  | 0x62 => (ElemArgs.read y).map (.ldf h)
  | 0x63 => (ElemArgs.read y).map (.stf h)
  | 0x64 => (PrefArgs.read y).map (.pref h)
  | 0x65 => do
    let x ← CinvArgs.read y
    match (slice y.mod 3 3).toNat with
    | 0 => return .cinvD h x
    | 1 => return .cinvI h x
    | 2 => return .cinvIf h x
    | _ => none
  | 0x70 =>
    match fn with
    | 0 => (AtomArgs.read y).map (.atomAdd h)
    | 1 => (AtomArgs.read y).map (.atomMinS h)
    | 2 => (AtomArgs.read y).map (.atomMinN h)
    | 3 => (AtomArgs.read y).map (.atomMaxS h)
    | 4 => (AtomArgs.read y).map (.atomMaxN h)
    | 5 => (AtomArgs.read y).map (.atomAnd h)
    | 6 => (AtomArgs.read y).map (.atomOr h)
    | 7 => (AtomArgs.read y).map (.atomXor h)
    | 8 => (AtomArgs.read y).map (.atomExch h)
    | 9 => (AtomArgs.read y).map (.atomFadd h)
    | 10 => (AtomArgs.read y).map (.atomFmin h)
    | _ => (AtomArgs.read y).map (.atomFmax h)
  | 0x71 => (AtomArgs.read y).map (.atomcas h)
  | 0x72 => (RedArgs.read y).map (.red h)
  | 0x73 =>
    match fn with
    | 0 => (AtombArgs.read y).map (.atombInc h)
    | _ => (AtombArgs.read y).map (.atombDec h)
  | 0x80 =>
    match fn with
    | 0 => (InspArgs.read y).map (.inspT h)
    | 1 => (InspArgs.read y).map (.inspG h)
    | 2 => (InspArgs.read y).map (.inspB h)
    | 3 => (InspRangeArgs.read y).map (.inspA h)
    | _ => (DstArgs.read y).map (.inspS h)
  | 0x81 => (MonitorArgs.read y).map (.monitor h)
  | 0x82 => (MovArgs.read y).map (.mwait h)
  | 0x83 => (BarinitArgs.read y).map (.barinit h)
  | 0x84 => (BaraArgs.read y).map (.bara h)
  | 0x85 => (BarwArgs.read y).map (.barw h)
  | 0x86 => (ElideArgs.read y).map (.elide h)
  | 0x87 => some (.elend h)
  | 0x90 => (CopyArgs.read y).map (.copy h)
  | 0x91 => (KickArgs.read y).map (.kick h)
  | 0x92 => (TilehArgs.read y).map (.tileh h)
  | 0x93 => (TilefArgs.read y).map (.tilef h)
  | 0x94 => (Pair3Args.read y).map (.cwait h)
  | 0x95 => do
    let x ← FabxArgs.read y
    match (slice y.mod 9 2).toNat with
    | 0 => return .fabxWr h x
    | 1 => return .fabxRed h x
    | _ => none
  | 0xA0 => (MmaArgs.read y).map (.mma h)
  | 0xA1 => (MloadbArgs.read y).map (.mloadb h)
  | 0xA2 => (AccArgs.read y).map (.mread h)
  | 0xA3 => (AccArgs.read y).map (.mwrite h)
  | 0xA4 => (MzeroArgs.read y).map (.mzero h)
  | 0xB0 => (QputArgs.read y).map (.qput h)
  | 0xB1 => (QgetArgs.read y).map (.qget h)
  | 0xB2 => (QcountArgs.read y).map (.qcount h)
  | 0xB3 => (MsendArgs.read y).map (.msend h)
  | 0xB4 => (MpostArgs.read y).map (.mpost h)
  | 0xB5 => (MtestArgs.read y).map (.mtest h)
  | 0xB6 => (JspawnArgs.read y).map (.jspawn h)
  | 0xB7 => (DstPairArgs.read y).map (.jnext h)
  | 0xB8 => (PostiArgs.read y).map (.posti h)
  | 0xC0 => (TryArgs.read y).map (.tryAlt h)
  | 0xC1 => some (.fail h)
  | 0xC2 => (OneArgs.read y).map (.cut h)
  | 0xC3 => (DstArgs.read y).map (.mark h)
  | 0xC4 => (DstArgs.read y).map (.steal h)
  | 0xC5 => (TrailwArgs.read y).map (.trailw h)
  | 0xD0 => (FmtsetArgs.read y).map (.fmtset h)
  | 0xD1 => (FmtgetArgs.read y).map (.fmtget h)
  | 0xD2 => do
    let x ← SpecArgs.read y
    match x.idx.toNat with
    | 24 => return .movsCycl h x.d
    | 25 => return .movsCych h x.d
    | _ => return .movs h x
  | 0xD3 => do
    let x ← SpecArgs.read y
    match x.idx.toNat with
    | 17 => return .setsTrb h x.d
    | 22 => return .setsFlg h x.d
    | 23 => return .setsFrm h x.d
    | _ => return .sets h x
  | _ => none

/-- Decoding for a kernel of `rc` registers: total, with the checks of R136 steps 1 to 3 in their order. -/
def decode (rc : Nat) (w : BitVec 96) : Except DecodeFault Instr :=
  let f := Fields.ofWord w
  if fnCount f.op.toNat ≤ f.fn.toNat then .error .illegalOp
  else
    match (Hdr.read f).bind fun h => readInstr f.op.toNat f.fn.toNat h f.body with
    | none => .error .illegalField
    | some i =>
      if i.fields ≠ some f ∨ i.fieldsOk rc = false then .error .illegalField
      else if i.scopesOk = false then .error .scopeReserved
      else .ok i

/-- The 96-bit word of an instruction; none for a step of the machine that has no word. -/
def encode (i : Instr) : Option (BitVec 96) := i.fields.map Fields.toWord

/-- Twelve bytes as a word: three little-endian 32-bit words at consecutive addresses (R120). Bytes that are
not twelve give no word. -/
def wordOfBytes (bs : List Byte) : Option (BitVec 96) :=
  if bs.length = 12 then some (BitVec.ofNat 96 (bs.foldr (fun b n => b.toNat + 256 * n) 0)) else none

/-- The twelve bytes of a word, lowest address first (R120). -/
def bytesOfWord (w : BitVec 96) : List Byte := (List.range 12).map fun k => slice w (8 * k) 8

/-- The instruction at the head of a byte list, with the bytes that follow it. -/
def decodeBytes (rc : Nat) (bs : List Byte) : Except DecodeFault (Instr × List Byte) :=
  match wordOfBytes (bs.take 12) with
  | none => .error .illegalOp
  | some w => (decode rc w).map fun i => (i, bs.drop 12)

/-- The decoder's answer on the table's numbering: an instruction of `nbits` bits `w`, the bits above them
zero, in a kernel of 512 registers. -/
def decodeTableWord (nbits w : Nat) : Option Instr :=
  match decodeBytes 512 (bytesOfWord (BitVec.ofNat 96 (w % 2 ^ nbits))) with
  | .ok (i, _) => some i
  | .error _ => none

end Sys2Proof
end

