-- ==== Sys2Proof/Machine/Store.lean ====
section
/-! DEFINITION. Sparse data in one canonical form: tables keyed by a number, and stores of words that read
as zero where nothing is listed. Keys rise strictly, and a store lists no zero, so equal contents are equal
data. -/

namespace Sys2Proof.Machine

/-- A table: key and value pairs, keys strictly rising. -/
abbrev Tab (α : Type) := List (Nat × α)

/-- A store of words of `w` bits: what no pair lists reads as zero (R20, R65, R66; log 1 for memory). -/
abbrev Sparse (w : Nat) := List (Nat × BitVec w)

/-- Byte memory in the host's form (Host.Cell). -/
abbrev Memory := List Host.Cell

/-- The keys of a table rise strictly. -/
def Tab.wf {α : Type} (t : Tab α) : Bool := decide (t.Pairwise fun a b => a.1 < b.1)

/-- The value at a key. -/
def Tab.get? {α : Type} (t : Tab α) (k : Nat) : Option α :=
  match t with
  | [] => none
  | (j, v) :: rest => if j = k then some v else Tab.get? rest k

/-- The value at a key, or a default. -/
def Tab.getD {α : Type} (t : Tab α) (k : Nat) (d : α) : α := (Tab.get? t k).getD d

/-- The table with a key bound, in its place. -/
def Tab.set {α : Type} (t : Tab α) (k : Nat) (v : α) : Tab α :=
  match t with
  | [] => [(k, v)]
  | (j, u) :: rest =>
    if k < j then (k, v) :: (j, u) :: rest
    else if j = k then (k, v) :: rest
    else (j, u) :: Tab.set rest k v

/-- The table without a key. -/
def Tab.erase {α : Type} (t : Tab α) (k : Nat) : Tab α := t.filter fun p => p.1 != k

/-- The table with the value at a key changed, where the key is bound. -/
def Tab.modify {α : Type} (t : Tab α) (k : Nat) (f : α → α) : Tab α :=
  t.map fun p => if p.1 = k then (p.1, f p.2) else p

/-- A key that the table does not bind: above every bound key. -/
def Tab.fresh {α : Type} (t : Tab α) : Nat := t.foldl (fun n p => max n (p.1 + 1)) 0

/-- The canonical form of a store: keys rise strictly and no listed word is zero. -/
def Sparse.wf {w : Nat} (m : Sparse w) : Bool :=
  decide (m.Pairwise fun a b => a.1 < b.1) && m.all fun p => p.2 != 0#w

/-- The word at a key; zero where nothing is listed. -/
def Sparse.get {w : Nat} (m : Sparse w) (k : Nat) : BitVec w :=
  match m with
  | [] => 0#w
  | (j, v) :: rest => if j = k then v else Sparse.get rest k

/-- The store with a word written; writing zero removes the pair. -/
def Sparse.set {w : Nat} (m : Sparse w) (k : Nat) (v : BitVec w) : Sparse w :=
  match m with
  | [] => if v = 0#w then [] else [(k, v)]
  | (j, u) :: rest =>
    if k < j then (if v = 0#w then (j, u) :: rest else (k, v) :: (j, u) :: rest)
    else if j = k then (if v = 0#w then rest else (k, v) :: rest)
    else (j, u) :: Sparse.set rest k v

/-- The canonical form of byte memory. -/
def Memory.wf (m : Memory) : Bool := Sparse.wf (w := 8) m

/-- One byte. -/
def Memory.read (m : Memory) (a : Nat) : Byte := Sparse.get (w := 8) m a

/-- One byte written. -/
def Memory.write (m : Memory) (a : Nat) (v : Byte) : Memory := Sparse.set (w := 8) m a v

/-- `n` bytes from `a` upward, little-endian, as a number. -/
def Memory.readNat (m : Memory) (a n : Nat) : Nat :=
  match n with
  | 0 => 0
  | k + 1 => (Memory.read m a).toNat + 256 * Memory.readNat m (a + 1) k

/-- `n` bytes from `a` upward, little-endian, in `w` bits. -/
def Memory.readBits (m : Memory) (a n w : Nat) : BitVec w := BitVec.ofNat w (Memory.readNat m a n)

/-- The low `n` bytes of a number stored little-endian from `a` upward. -/
def Memory.writeNat (m : Memory) (a n v : Nat) : Memory :=
  match n with
  | 0 => m
  | k + 1 => Memory.writeNat (Memory.write m a (BitVec.ofNat 8 v)) (a + 1) k (v / 256)

/-- The bytes of `v` that `mask` selects stored from `a` upward: bit i of the mask selects byte i. -/
def Memory.writeMasked (m : Memory) (a n v mask : Nat) : Memory :=
  match n with
  | 0 => m
  | k + 1 =>
    Memory.writeMasked (if mask % 2 = 1 then Memory.write m a (BitVec.ofNat 8 v) else m)
      (a + 1) k (v / 256) (mask / 2)

/-- A list without repeats, with a member added at its head. -/
def addOnce (l : List Nat) (x : Nat) : List Nat := if l.contains x then l else x :: l

/-- A list without a member. -/
def without (l : List Nat) (x : Nat) : List Nat := l.filter fun y => y != x

end Sys2Proof.Machine
end

