-- ==== Sys2Proof/Machine/State.lean ====
section
/-! DEFINITION. The state of the WSR-4812: everything the spec gives the machine, as plain data, and the
model's own schedule. `State.reset` is the machine after package reset (R315): every field at the value the
spec states, and the values that log entries 1 to 5 name where the spec states none. -/

namespace Sys2Proof.Machine

/-! ## Threads -/

/-- An entry of a pending store queue (R86, R242). `region` is the gang whose scratchpad region a `.scr` block
lies in. `order` is the program order of the newest store merged into it, for condition 2 of R89. `forced`
says that an inspection has counted it (R99); `poison` is R413's mark. -/
structure PsqEntry where
  seq    : Nat
  space  : Space
  region : Nat
  block  : Nat
  data   : BitVec 128
  mask   : BitVec 16
  born   : Nat
  tent   : Bool
  frame  : Nat
  order  : Nat
  forced : Bool
  poison : Bool
  deriving DecidableEq, Repr

/-- A resolved data address: the space, the gang region of a `.scr` address, the byte offset or VA, the bytes
accessed and the address as issued (R184, R198). -/
structure Access where
  space  : Space
  region : Nat
  addr   : Nat
  size   : Nat
  issued : DWord
  deriving DecidableEq, Repr

/-- What an atomic does to the word it finds (R192 to R195). -/
inductive AtomFn where
  | op (o : AtomOp)
  | cas (expected : DWord)
  | inc
  | dec
  deriving DecidableEq, Repr

/-- How the value of a load reaches registers: raw bytes (R185), or an element of a formatted line decoded
with a latched entry image and the page's GEOM (R187). -/
inductive LoadForm where
  | raw
  | element (image : DWord) (geom : BitVec 2) (index : Nat)
  deriving DecidableEq, Repr

/-- Bytes of a line that a load takes from the thread's own stores (R88): the number of the PSQ entry that held them at
issue, where they stood in one; they count as long as it stands there. -/
structure OwnBytes where
  seq  : Option Nat
  data : BitVec 512
  mask : Nat
  deriving DecidableEq, Repr

/-- What an outstanding long-latency instruction will do when it completes (Table 7-3). -/
inductive LongKind where
  /-- A result computed at issue: register writes and flags (OP 16, 17, 47 to 4E). -/
  | result (writes : List (Nat × Word)) (flags : Nat)
  /-- A load that has not bound, with the bytes of its line that the thread's own stores before it gave, oldest first;
  `alloc` is false under hint 2 (OP 60, 62, R88). -/
  | load (acc : Access) (width : Width) (d : Reg) (after alloc : Bool) (form : LoadForm) (own : List OwnBytes)
  /-- An atomic that has not been performed (OP 70 to 73). -/
  | atomic (acc : Access) (fn : AtomFn) (operand : DWord) (scope : BitVec 3) (d : Option Reg)
  /-- An INSP (OP 80). -/
  | insp (id : Nat) (d : Reg)
  /-- An MWAIT, with the isle cycle of its timeout (OP 82). -/
  | mwait (d : Reg) (limit : Option Nat)
  /-- A crew collective that has not performed (OP 34 to 39). -/
  | coll (i : Instr)
  deriving DecidableEq, Repr

/-- An outstanding long-latency instruction: its program order, its PC and word, the values of A and B that it issued with
(R360), and how many following instructions may still issue (R128, R129). -/
structure Outstanding where
  order : Nat
  pc    : Addr56
  word  : BitVec 96
  opa   : DWord
  opb   : DWord
  left  : Nat
  kind  : LongKind
  deriving DecidableEq, Repr

/-- A fault about to be delivered (R359, R360). `decoded` is false for a fetch fault and for ASYNC = 1. -/
structure FaultRec where
  code    : Nat
  async   : Bool
  info    : Word
  addr    : DWord
  pc      : Addr56
  word    : BitVec 96
  decoded : Bool
  opa     : DWord
  opb     : DWord
  deriving DecidableEq, Repr

/-- A store that awaits its permission check (R186). -/
structure HeldStore where
  acc  : Access
  data : BitVec 128
  deriving DecidableEq, Repr

/-- An instruction that holds its thread STALLED until it completes (R21). -/
inductive Finish where
  /-- BARINIT's object and count (R202). -/
  | barinit (acc : Access) (n : Word)
  /-- CINV's target, base and length (R190). -/
  | cinv (target : Nat) (base len : Nat)
  /-- ELEND, or a CUT over an elide frame, down to a depth (R206, R246). -/
  | elend
  /-- The silent inspection that ends a STEAL, or a BARW with a target (R204, R248). -/
  | inspecting (insp : Nat)
  /-- STF: the line, the entry image, GEOM, the element and the source value (R188). -/
  | stf (acc : Access) (image : DWord) (geom : BitVec 2) (index : Nat) (source : DWord) (wide : Bool)
  deriving DecidableEq, Repr

/-- What a WAITING thread waits for (Table 2-3); MWAIT and collectives stand in the outstanding list. -/
inductive Wait where
  | barw (acc : Access) (phase : BitVec 24) (d : Reg) (target : InspTarget) (scope : BitVec 3)
  | cwait (va : Nat) (target : DWord) (d : Reg)
  | qput (pipe : Nat) (src : Nat) (d : Reg)
  | qget (pipe : Nat) (dst : Nat) (d : Reg)
  | mtest (recv : Nat) (d : Reg)
  | svc (d : Reg)
  | join
  deriving DecidableEq, Repr

/-- What keeps a thread from issuing (R21); the derived reasons of Table 2-3 are tested at issue. -/
inductive Hold where
  /-- READY, unless a derived reason stalls it. -/
  | none
  /-- STALLED by SLEEP until a cycle of its isle (R145). -/
  | sleep (wake : Nat)
  /-- STALLED by YIELD for some issue cycles (R145). -/
  | yield (left : Nat)
  /-- STALLED by an instruction in progress (R21). -/
  | finishing (f : Finish)
  /-- STALLED by a store on an L1 miss (R186). -/
  | storeCheck (st : HeldStore)
  /-- STALLED while the translation of an address of its instruction, or of its fetch, is walked (R49). -/
  | walking (walk va : Nat) (fetch : Bool)
  /-- PARKED: the walk found no valid leaf (R366). -/
  | parked (va : Nat) (fetch : Bool)
  /-- The access replays at its own turn (R49). -/
  | replay
  /-- A fault waits for outstanding instructions (R359). -/
  | faulting (f : FaultRec)
  /-- WAITING (R21). -/
  | wait (w : Wait)
  /-- EXITED (R28). -/
  | exited
  deriving DecidableEq, Repr

/-- The watch of MONITOR: the space and line, whether it is an overflow watch, and the events since it was
armed (R199, R200). -/
structure Watch where
  space    : Space
  line     : Nat
  overflow : Bool
  events   : List Nat
  deriving DecidableEq, Repr

/-- An open elide section: the marked lines and whether a mark was lost before the commit (R205, R206). -/
structure Section where
  lock   : Nat
  marked : List Nat
  deriving DecidableEq, Repr

/-- A thread's link record (R426), with the link as the STEAL made it: the victim's lane, the serial of its frame
and the alternative taken, for the release of a link whose frame is gone (R249). -/
structure LinkRec where
  pc     : Addr56
  reg    : Reg
  lane   : Nat
  serial : Nat
  alt    : Nat
  deriving DecidableEq, Repr

/-- The choice registers and the steal state of a thread (R239, R426, R250). -/
structure Choice where
  cpd    : Word
  trb    : Word
  trp    : Word
  trl    : Word
  fser   : Word
  link   : Option LinkRec
  cancel : Bool
  elide  : Option Section
  deriving DecidableEq, Repr

/-- The fault registers of Tables 23-1 and 23-2 and the handler state (R359, R360). -/
structure FaultRegs where
  fcause : Word
  fpc    : DWord
  fopc   : Word
  fopd   : Word
  fopa   : DWord
  fopb   : DWord
  fimm   : Word
  fmod   : Word
  faddrl : Word
  faddrh : Word
  fguard : Word
  finfo  : Word
  inh    : Bool
  deriving DecidableEq, Repr

/-- A token register: pending on a request, or completed and not yet consumed (R213). -/
inductive Token where
  | pending (req : Nat)
  | done
  deriving DecidableEq, Repr

/-- A value kept for a later read (R126). -/
structure Kept where
  reg   : Reg
  value : DWord
  deriving DecidableEq, Repr

/-- Marks the group builder reads (R23, R126, R127); `yld` counts the issue cycles, the present one among them, in which
a YLD hint leaves the thread out of C. -/
structure Marks where
  release : Bool
  solo    : Bool
  yld     : Nat
  age     : Nat
  keepA   : Option Kept
  inRun   : Bool
  deriving DecidableEq, Repr

/-- One thread (R17 to R21). The key of its table is its handle: lane [4:0], slot [12:5], core [21:13]. `last` is the word
that it issued last, with the values of A and B that it read for it (R360). -/
structure Thread where
  gang    : Nat
  tid     : Nat
  pc      : Addr56
  regs    : Sparse 32
  preds   : BitVec 8
  flg     : Word
  frm     : Word
  hnd     : DWord
  csp     : Word
  cych    : Option Word
  choice  : Choice
  faults  : FaultRegs
  priv    : Memory
  privPoison : List Nat
  psq     : List PsqEntry
  nextSeq : Nat
  order   : Nat
  longs   : List Outstanding
  hold    : Hold
  watch   : Option Watch
  tokens  : Tab Token
  asyncs  : List FaultRec
  marks   : Marks
  poison  : List Nat
  missed  : Option Addr56
  last    : BitVec 96
  opa     : DWord
  opb     : DWord
  deriving DecidableEq, Repr

/-! ## Crews, gangs, bands and jobs -/

/-- A rejoin record (R25); the masks hold one bit for each lane. -/
structure Rejoin where
  split   : Addr56
  rejoin  : Addr56
  mask    : BitVec 32
  arrived : BitVec 32
  deriving DecidableEq, Repr

/-- A lane's arrival at a crew collective, with its operands as they stood (R29, R157). -/
structure Arrival where
  lane    : Nat
  pc      : Addr56
  instr   : Instr
  counts  : Bool
  a       : Word
  b       : Word
  order   : Nat
  deriving DecidableEq, Repr

/-- A crew: its rejoin records, newest first, and its pending arrivals, oldest first (R25, R29). The key of
its table is thread handle / 32. -/
structure Crew where
  records  : List Rejoin
  arrivals : List Arrival
  deriving DecidableEq, Repr

/-- Gang states (Table 2-9). SAVED gangs stand in their partition's saved context. -/
inductive GangPhase where
  | placed
  | running
  | retiring
  deriving DecidableEq, Repr

/-- A gang (R18, R33, R36). The key of its table is its GANG handle. -/
structure Gang where
  job       : Nat
  number    : Nat
  threads   : Nat
  slot      : Nat
  band      : Nat
  index     : Nat
  variant   : Nat
  argp      : DWord
  argn      : Word
  argi      : Word
  phase     : GangPhase
  scratch   : Memory
  scrPoison : List Nat
  debug     : Bool
  stopped   : Bool
  stopBand  : Bool
  parkedOn  : Option Nat
  halved    : Bool
  deriving DecidableEq, Repr

/-- A pipe descriptor of a band (Table 2-8). -/
structure Pipe where
  valid : Bool
  space : Space
  base  : Nat
  depth : Nat
  esize : Nat
  prod  : Nat
  cons  : Nat
  deriving DecidableEq, Repr

/-- A band (R19, R34). The key of its table is BAND[16:0]: band number [12:0], isle [16:13]. -/
structure Band where
  job    : Nat
  gangs  : List Nat
  pipes  : List Pipe
  piped  : Bool
  deriving DecidableEq, Repr

/-- Job states (Table 2-9). -/
inductive JobPhase where
  | queued
  | admitted
  | running
  | draining
  | retired
  deriving DecidableEq, Repr

/-- A job (R31, R33, R36, R67, R368). `next` is the next record, `started` the gangs placed so far and `deps` the jobs
that its handles wait for (R38). `fmt` is its format table; `copies` are the tables of cores that an
FMTSET in flight has not reached, or has reached early (R253). -/
structure Job where
  part     : Nat
  vdev     : Nat
  stream   : Nat
  cardVa   : Nat
  card     : BitVec 512
  pipes    : List Pipe
  waits    : List (Nat × DWord)
  phase    : JobPhase
  slots    : Nat
  next     : Nat
  started  : Nat
  fmt      : Sparse 64
  copies   : Tab (Sparse 64)
  stop     : Option (Nat × Bool)
  deps     : List Nat
  deriving DecidableEq, Repr

/-! ## Cores and isles -/

/-- An L1 line: its context and line, bytes, attributes, ownership, grant mask, poison and elide marks (R47,
R104, R205, R283). -/
structure L1Line where
  asid   : Nat
  line   : Nat
  data   : BitVec 512
  pte    : DWord
  owned  : Bool
  grant  : BitVec 64
  poison : Bool
  deriving DecidableEq, Repr

/-- A drained store that has not left the core (R90): the context and block of its primary form, the attributes it was
drained under, and whether it came through a secondary mapping (R58). -/
structure WtEntry where
  asid   : Nat
  block  : Nat
  pte    : DWord
  data   : BitVec 128
  mask   : BitVec 16
  thread : Nat
  vdev   : Nat
  poison : Bool
  second : Bool
  deriving DecidableEq, Repr

/-- A line of the instruction cache (R4, R50). -/
structure ICLine where
  asid   : Nat
  line   : Nat
  data   : BitVec 512
  poison : Bool
  deriving DecidableEq, Repr

/-- The loop buffer: the job whose range it holds, the range's first PC and its words; none where the instruction cache
did not hold the word when the range was copied (R324; log 17). -/
structure LoopBuf where
  job   : Nat
  first : Addr56
  words : List (Option (BitVec 96))
  deriving DecidableEq, Repr

/-- A tile handle slot: its descriptor and the job that tags it (R221). -/
structure TileSlot where
  desc : BitVec 512
  job  : Nat
  deriving DecidableEq, Repr

/-- A matrix macro: its rows of 32 columns of 16 bits, its poison and its record (R225, R388). -/
structure Macro where
  cells  : Sparse 16
  poison : Bool
  image  : DWord
  rows   : Nat
  desc   : BitVec 512
  k0     : Nat
  c0     : Nat
  member : Nat
  row0   : Nat
  asid   : Nat
  vdev   : Nat
  gang   : Nat
  deriving DecidableEq, Repr

/-- Accumulator rows that an MMA writes or has written (R230): the request, the rows, for a token sink the thread and its
register, whether it has completed, and the threads that have observed its sink. -/
structure Unseen where
  req    : Nat
  first  : Nat
  rows   : Nat
  token  : Option (Nat × Nat)
  done   : Bool
  seen   : List Nat
  deriving DecidableEq, Repr

/-- A posted receive (R233). -/
structure Receive where
  gang   : Nat
  buffer : Nat
  size   : Nat
  pick   : Word
  order  : Nat
  done   : Option (Nat × Nat × Nat)
  deriving DecidableEq, Repr

/-- A message (R232, R287): the sender's core and thread, the destination gang, the bytes and the tag. -/
structure Message where
  sender : Nat
  dst    : Nat
  bytes  : List Byte
  tag    : BitVec 16
  status : Option Bool
  reg    : Reg
  order  : Nat
  deriving DecidableEq, Repr

/-- A core (R4). Its threads, gangs and crews stand in their own tables. -/
structure Core where
  l1      : List L1Line
  wtq     : List WtEntry
  icache  : List ICLine
  loop    : Option LoopBuf
  lent    : Memory
  lentPoison : List Nat
  acc     : Sparse 32
  accPoison : List Nat
  unseen  : List Unseen
  macros  : Tab Macro
  tiles   : Tab TileSlot
  posted  : Tab Receive
  overflow : List Message
  vcredit : Tab Int
  scredit : Tab Int
  deriving DecidableEq, Repr

/-- Power states (Table 16-2). -/
inductive Power where
  | run
  | gated
  | retain
  | off
  deriving DecidableEq, Repr

/-- A record of the wait-for table (Table 13-5), with the isle cycle in which it was written (R271) and the mark of
a saved thread's (R272). -/
structure WaitRec where
  waiter : Nat
  kind   : Nat
  ospace : Nat
  obj    : Nat
  sigk   : Nat
  sig    : Nat
  born   : Nat
  saved  : Bool
  deriving DecidableEq, Repr

/-- The four remaining counts of one virtual device on one isle (R267). -/
structure Budget where
  cpyb   : Int
  netb   : Int
  tier2b : Int
  strb   : Int
  deriving DecidableEq, Repr

/-- An isle (R2, R5, R318, R320, R7). -/
structure Isle where
  counter   : Nat
  power     : Power
  bring     : Bool
  outOf     : Bool
  lagoon    : Memory
  lagPoison : List Nat
  waits     : List WaitRec
  budgets   : Tab Budget
  telemetry : BitVec 256
  cecc      : Word
  decc      : Word
  energy    : Word
  pwr       : BitVec 16
  dramT     : BitVec 8
  dieT      : BitVec 8
  refx2     : Bool
  deriving DecidableEq, Repr

/-! ## Partitions -/

/-- A virtual device (Table 13-2, R300): its descriptor, ASID and root table. -/
structure VDev where
  desc : BitVec 192
  asid : Nat
  root : Nat
  deriving DecidableEq, Repr

/-- A stream (Table 13-1, R308): its descriptor, its queue of jobs (oldest first), the job it started last and
its runtime thread. -/
structure Stream where
  desc    : BitVec 64
  queue   : List Nat
  last    : Option Nat
  runtime : Option Nat
  deriving DecidableEq, Repr

/-- A handle table entry (R38). -/
structure HandleRec where
  writer  : Option Nat
  readers : List Nat
  deriving DecidableEq, Repr

/-- A registered pair of the remap filter (R57): contexts and pages of equal size. -/
structure Remap where
  asid    : Nat
  page    : Nat
  pasid   : Nat
  ppage   : Nat
  size    : Nat
  deriving DecidableEq, Repr

/-- Usage counts since the last record (Table 15-6). -/
structure Usage where
  groups : Nat
  planes : Nat
  tier1  : Nat
  tier2  : Nat
  fabb   : Nat
  cpyb   : Nat
  cwb    : Nat
  budget : Tab Budget
  seq    : Nat
  prev   : BitVec 384
  ring   : List (BitVec 32768)
  deriving DecidableEq, Repr

/-- A stop record (R368, R419). -/
structure StopRec where
  thread : Nat
  fcause : Word
  fpc    : DWord
  fopc   : Word
  finfo  : Word
  deriving DecidableEq, Repr

/-- The knots of a partition (R271, R400): the candidate of the last walk, the set reported last, the next
number and the records kept under each number, with each waiter's INH. -/
structure Knots where
  candidate : List WaitRec
  reported  : List WaitRec
  number    : Nat
  kept      : Tab (List (WaitRec × Bool))
  deriving DecidableEq, Repr

/-- A sink, as a request or a job names it (R213, R32). -/
structure SinkRef where
  kind  : SinkKind
  reg   : Reg
  desig : DWord
  scope : BitVec 3
  deriving DecidableEq, Repr

/-- What a pre-emption saves (R302, R303): on a switch the Lagoons too, with their poison. The images of cores and of
the Lagoon that a later error poisons are marked (R408). -/
structure Saved where
  switch  : Bool
  threads : Tab Thread
  gangs   : Tab Gang
  crews   : Tab Crew
  cores   : Tab Core
  lagoons : Tab (Memory × List Nat)
  waits   : List WaitRec
  budgets : Tab (Tab Budget)
  poisonedCores : List Nat
  poisonedLagoon : Bool
  deriving DecidableEq, Repr

/-- Translation, windows and the remap filter of a partition (R57, R293, R295). -/
structure PartMem where
  remap   : List Remap
  windows : Sparse 256
  gens    : Sparse 32
  deriving DecidableEq, Repr

/-- A partition (R296 to R314). `halting` is a pre-emption in progress: whether it is a switch, and the counter of the
first isle when it began; `slice` is that counter when the partition became resident; `dying` is a destruction in
progress; `authorised` is its tenant's leave to debug it (R321); `pages` is the memory assigned to it, each run by its first
64 KiB page and their number (R314); `rotation` is the stream key at which the examination of heads starts (R261). -/
structure Partition where
  desc       : BitVec 192
  resident   : Bool
  bring      : Bool
  halting    : Option (Bool × Nat)
  dying      : Bool
  slice      : Nat
  saved      : Option Saved
  authorised : Bool
  pages      : List (Nat × Nat)
  vdevs      : Tab VDev
  streams    : Tab Stream
  rotation   : Nat
  handles    : Tab HandleRec
  pm         : PartMem
  usage      : Usage
  knots      : Knots
  stops      : List StopRec
  runtimes   : List Nat
  principal  : Option Nat
  deriving DecidableEq, Repr

/-! ## Memory -/

/-- A TLB entry: the isle of its front end, the context, a VA in its page and the leaf (R49). -/
structure TlbEntry where
  isle : Nat
  asid : Nat
  va   : Nat
  pte  : DWord
  deriving DecidableEq, Repr

/-- A page walk in flight: its front end, the context and VA, and the threads that wait for it (R49). -/
structure Walk where
  isle    : Nat
  part    : Nat
  asid    : Nat
  va      : Nat
  waiters : List Nat
  deriving DecidableEq, Repr

/-- An L2 tag with its attributes, the virtual device that filled it, and whether the line has been written since (R47,
R269, R310). -/
structure L2Tag where
  slice : Nat
  asid  : Nat
  line  : Nat
  pte   : DWord
  vdev  : Nat
  dirty : Bool
  deriving DecidableEq, Repr

/-- Directory states (Table 14-5). -/
inductive DirState where
  | shared
  | owned
  | priv
  deriving DecidableEq, Repr

/-- A directory entry (R282); lines without one are in state I. -/
structure DirEntry where
  asid    : Nat
  line    : Nat
  state   : DirState
  sharers : List Nat
  writers : List (Nat × BitVec 64)
  deriving DecidableEq, Repr

/-- An update of a Mirror line that replicas still owe (R61 to R63), with the line's mark of poison (R384), the thread or
request that wrote it and the job of either (R39, R97, R107). -/
structure MirrorUpdate where
  asid   : Nat
  line   : Nat
  part   : Nat
  data   : BitVec 512
  poison : Bool
  atomic : Bool
  todo   : List Nat
  unacked : List Nat
  writer : Nat
  job    : Option Nat
  deriving DecidableEq, Repr

/-- A replica whose bytes differ from the primary's (R61, R62). -/
structure Replica where
  asid   : Nat
  line   : Nat
  die    : Nat
  data   : BitVec 512
  poison : Bool
  deriving DecidableEq, Repr

/-- An unscrubbed page with the lines already cleared or written (R65). -/
structure Unscrubbed where
  page  : Nat
  lines : List Nat
  started : Bool
  deriving DecidableEq, Repr

/-- A replica hold of a partition on a die, over every Mirror line or one, which may end when a load stalls on it
(R323, R348). -/
structure ReplicaHold where
  part    : Nat
  die     : Nat
  line    : Option (Nat × Nat)
  atStall : Bool
  deriving DecidableEq, Repr

/-- A merge that a home has demanded (R285). -/
structure Demand where
  core : Nat
  asid : Nat
  line : Nat
  deriving DecidableEq, Repr

/-- A line that a slice holds in its miss table or its write-back reserve (R280). -/
structure SliceEntry where
  slice : Nat
  asid  : Nat
  line  : Nat
  deriving DecidableEq, Repr

/-- Off-chip memory, translation and coherence (R47 to R66, R280 to R285). DRAM bytes are keyed by physical
address, the second tier at 2^48 above it; `domains` names the pair of XTS keys under which a line was written last
(R306). `misses` and `reserve` are the entries of every slice's miss table and write-back reserve in use. -/
structure Mem where
  dram       : Memory
  domains    : Sparse 512
  poison     : List Nat
  unscrubbed : List Unscrubbed
  tlb        : List TlbEntry
  walks      : Tab Walk
  l2         : List L2Tag
  dir        : List DirEntry
  updates    : Tab MirrorUpdate
  replicas   : List Replica
  holds      : List ReplicaHold
  demands    : List Demand
  misses     : List SliceEntry
  reserve    : List SliceEntry
  objects    : Tab (Nat × Nat)
  deriving DecidableEq, Repr

/-! ## Network, requests and inspections -/

/-- What a REQ flit asks of a home slice: a load, an atomic, the head of a core's write-through queue, an STF, or the
work of a request (Table 14-3). -/
inductive ReqRef where
  | load (thread order : Nat)
  | atomic (thread order : Nat)
  | head (core : Nat)
  | stf (thread : Nat)
  | request (req : Nat)
  deriving DecidableEq, Repr

/-- A REQ replay window towards one destination (R279): the next entry's number, the entries sent and not accepted with
what they ask, whether a NACK is on its way, the entry refused, its back-off and the network cycle at which it is sent
again. -/
structure Link where
  next    : Nat
  queue   : List (Nat × ReqRef)
  nacking : Bool
  unacked : List Nat
  refused : Option Nat
  backoff : Nat
  resend  : Option Nat
  nacks   : Nat
  deriving DecidableEq, Repr

/-- What a frame in flight completes when it is acknowledged or answered (R291, R292): an entry, an atomic, an STF, or a line
of a request. -/
inductive FrameUse where
  | entry (thread : Nat) (addr : DWord)
  | atomic (thread order : Nat)
  | stf (thread : Nat)
  | request (req line : Nat)
  | other
  deriving DecidableEq, Repr

/-- A frame sent and not complete (R291): its SEQ, whether ACKSEQ has reached it (an atomic still waits for its reply), the
virtual device in its IPv6 traffic class (R290), and the port, transmit channel and association that protect it, where the
firmware has assigned one (R289). -/
structure Sent where
  seq     : Nat
  acked   : Bool
  vdev    : Nat
  channel : Option (Nat × Nat × Nat)
  header  : BitVec 256
  payload : List Byte
  use     : FrameUse
  deriving DecidableEq, Repr

/-- A Causeway connection (R291, R292): the partition and the peer, the next SEQ, the highest SEQ received in order and the
ACKSEQ of the last frame sent, the frames not complete, the network cycle of the last advance or resend, the resends since an advance, and the
cycle since which no frame of the peer has passed MACsec. -/
structure Conn where
  part    : Nat
  peer    : BitVec 128
  nextSeq : Nat
  recvSeq : Nat
  ackSent : Nat
  sent    : List Sent
  since   : Nat
  resends : Nat
  badSince : Option Nat
  failed  : Bool
  deriving DecidableEq, Repr

/-- A contribution, or a merged result from a switch, that the home device holds (R292, R294). -/
structure Contribution where
  conn   : Nat
  member : Nat
  off    : Nat
  data   : List Byte
  whole  : Bool
  deriving DecidableEq, Repr

/-- What the home device holds for one generation of a window (R294, R295): the contributions, and the offsets whose
merged result is written. -/
structure Reduction where
  part    : Nat
  window  : Nat
  gen     : Nat
  parts   : List Contribution
  merged  : List Nat
  deriving DecidableEq, Repr

/-- The mesh, the Causeway and the Ethernet ports (R273 to R295): `macsec` holds the keys of a port's secure associations,
`udp` the UDP destination port of every Causeway frame (R290). -/
structure Net where
  cycle  : Nat
  links  : Tab Link
  conns  : Tab Conn
  reds   : Tab Reduction
  macsec : Tab (List MacsecKey)
  udp    : BitVec 16
  deriving DecidableEq, Repr

/-- One copy of a COPY, KICK item or FABX (R217, R218). -/
structure CopyJob where
  src  : DWord
  dst  : DWord
  ssp  : Space
  dsp  : Space
  len  : Nat
  deriving DecidableEq, Repr

/-- An item of a KICK, once read (Table 11-4): its copy, its sink and its status; `bad` breaks the table. -/
structure KickItem where
  copy  : CopyJob
  sink  : Option SinkRef
  bad   : Bool
  done  : Option Word
  deriving DecidableEq, Repr

/-- The MMA of an accepted block (Table 11-6) with its latched operands (R226, R228): the A tile and entry, the
cores of the members, the A-writer inspection in flight, the next K block and row, the flags, the first error, and the rows
of cores whose values are undefined. -/
structure MmaJob where
  block : BitVec 512
  tile  : BitVec 512
  image : DWord
  geom  : BitVec 2
  cores : List Nat
  insp  : Option Nat
  kb    : Nat
  row   : Nat
  flags : Nat
  bad   : Option Nat
  free  : List (Nat × Nat)
  deriving DecidableEq, Repr

/-- The work of a request. -/
inductive ReqBody where
  | copy (c : CopyJob)
  | kick (list count : Nat) (items : List KickItem)
  | tilef (desc : BitVec 512) (image : DWord) (geom : BitVec 2) (cores : List (Nat × Nat)) (off : Nat)
  | fabx (c : CopyJob) (red : Bool) (window : Option Nat) (gen : Nat)
  | mloadb (desc : BitVec 512) (image : DWord) (geom : BitVec 2) (cores : List (Nat × Nat)) (mb k0 c0 k : Nat)
  | mma (m : MmaJob)
  | fmtset (entry : Nat) (image : DWord) (left : List Nat)
  deriving DecidableEq, Repr

/-- A request in flight (R211 to R216): its issuer, sink, work, the blocks performed, those started and not yet performed
with the lines of them that are, the pages without a leaf that its work met and those that the runtime declined (R366),
and the failing lines with their codes. -/
structure Request where
  core   : Nat
  gang   : Nat
  thread : Nat
  pc     : Addr56
  job    : Nat
  part   : Nat
  vdev   : Nat
  asid   : Nat
  op     : Nat
  shared : Bool
  sink   : SinkRef
  body   : ReqBody
  done   : List Nat
  started : List Nat
  lines  : List Nat
  handed : List Nat
  declined : List Nat
  failed : List (Nat × Nat)
  abort  : Option Word
  saved  : Bool
  deriving DecidableEq, Repr

/-- An inspection in flight (R97): the observer, the register it writes, form and range, scope, targets still
to cut, entries forced and not yet visible, the cores reached, and the counts; a silent one writes no register, and an
engine reads after it (R107). -/
structure Insp where
  observer : Nat
  part     : Nat
  scope    : Nat
  range    : Option (Space × Nat × Nat × Nat)
  todo     : List Nat
  entries  : List (Nat × Nat)
  cores    : List Nat
  forced   : Nat
  reached  : Nat
  tent     : Bool
  silent   : Bool
  engine   : Bool
  deriving DecidableEq, Repr

/-! ## Firmware -/

/-- A runtime thread and its interrupt area (R308): pending and overflow bits, the head and tail words, the 64 entries of the
queue, whether the thread runs on its control core, and whether it stands in its interrupt entry. -/
structure Runtime where
  pending  : BitVec 256
  overflow : BitVec 256
  head     : Word
  tail     : Word
  ring     : Sparse 128
  running  : Bool
  entered  : Bool
  deriving DecidableEq, Repr

/-- The boot (R315, R316): the step reached, the measurements, and the ports that failed to train. -/
structure Boot where
  step         : Nat
  measurements : List (BitVec 384)
  failed       : List Port
  deriving DecidableEq, Repr

/-- What the Rolzan firmware keeps (R306 to R308, R315 to R319, R415 to R419). -/
structure Firmware where
  log      : List (BitVec 256)
  logSeq   : Nat
  dropped  : Nat
  keys     : Sparse 512
  runtimes : Tab Runtime
  boot     : Boot
  reset    : List Nat
  dead     : List Nat
  hot      : List Nat
  deriving DecidableEq, Repr

/-! ## The schedule -/

/-- What reaches the machine from outside, beside the steps of the opcode table: a runtime thread is dispatched on its
control core, or not, and takes records from its interrupt area and clears pending and overflow bits (R308); a tenant
authorises a debugger (R321); the firmware sets the UDP port (R290). -/
inductive Input where
  | runtimeRuns (designator : Nat) (on : Bool)
  | runtimeTakes (designator count : Nat) (clear : BitVec 256)
  | authorise (part : Nat) (on : Bool)
  | udpPort (port : BitVec 16)
  deriving DecidableEq, Repr

/-- One turn of the schedule: an agent's event, an input from outside, a place in the issue cycle, a group that issues
outside it (the members of a single step, R322, or of a replay, R49), or the end of a single step. -/
inductive Turn where
  | event (i : Instr)
  | input (x : Input)
  | issue
  | group (members : List Nat)
  | stepEnd (members : List Nat)
  deriving DecidableEq, Repr

/-- The issue in progress: the core, the PC, the word and the members, in lane order. -/
structure Issue where
  core    : Nat
  pc      : Addr56
  word    : BitVec 96
  members : List Nat
  deriving DecidableEq, Repr

/-- The MODEL's own schedule (log 4) and its free-value counter (log 5): turns to come, the work that found a spent
budget, in the order of its arrival (R268), the place in the issue cycle, the distinct PCs of the cycle's READY threads on
that core (N of R23), the threads offered to the builder and chosen in it, the issue latch and the counter. -/
structure Sched where
  agenda : List Turn
  waiting : List Turn
  core   : Nat
  port   : Nat
  pcs    : Nat
  offered : List Nat
  chosen : List Nat
  issue  : Option Issue
  free   : Nat
  deriving DecidableEq, Repr

/-- The machine. Absent keys of `isles` and `cores` stand for an isle and a core after reset. -/
structure State where
  caps    : Word
  isles   : Tab Isle
  cores   : Tab Core
  threads : Tab Thread
  gangs   : Tab Gang
  crews   : Tab Crew
  bands   : Tab Band
  jobs    : Tab Job
  parts   : Tab Partition
  mem     : Mem
  net     : Net
  reqs    : Tab Request
  insps   : Tab Insp
  msgs    : Tab Message
  fw      : Firmware
  sched   : Sched
  deriving DecidableEq, Repr

/-- Why the machine stops with a fault. -/
inductive Fault where
  /-- Raised by TRANSLATION_WALK_END when a leaf names a physical address that the package does not have (R4,
  R49): the spec gives no effect of such an access. Safe: the machine stops where the hardware goes on. -/
  | noSuchMemory (pa : Nat)
  deriving DecidableEq, Repr

/-- Why an instruction has no meaning here. -/
inductive Refusal where
  /-- Raised by an arm of `exec` that has no meaning yet. Safe: the machine stops. -/
  | notModelled (mnemonic : String)
  deriving DecidableEq, Repr

/-- A core after reset: nothing cached, nothing queued, SRAM never written (R66; log 2). -/
def Core.reset : Core where
  l1 := []
  wtq := []
  icache := []
  loop := none
  lent := []
  lentPoison := []
  acc := []
  accPoison := []
  unseen := []
  macros := []
  tiles := []
  posted := []
  overflow := []
  vcredit := []
  scredit := []

/-- An isle after reset: counter 0 (R5), power state RUN (PSTATE resets to 0, R320), telemetry 0. -/
def Isle.reset : Isle where
  counter := 0
  power := .run
  bring := false
  outOf := false
  lagoon := []
  lagPoison := []
  waits := []
  budgets := []
  telemetry := 0#256
  cecc := 0#32
  decc := 0#32
  energy := 0#32
  pwr := 0#16
  dramT := 0#8
  dieT := 0#8
  refx2 := false

/-- A partition number after reset: the descriptor of Table 15-2 with DRAIN = 4 and every other field 0; nothing
else of it exists (log 2). -/
def Partition.reset : Partition where
  desc := BitVec.ofNat 192 (4 * 2 ^ 40)
  resident := false
  bring := false
  halting := none
  dying := false
  slice := 0
  saved := none
  authorised := false
  pages := []
  vdevs := []
  streams := []
  rotation := 0
  handles := []
  pm := { remap := [], windows := [], gens := [] }
  usage := { groups := 0, planes := 0, tier1 := 0, tier2 := 0, fabb := 0, cpyb := 0, cwb := 0, budget := [],
             seq := 0, prev := 0#384, ring := [] }
  knots := { candidate := [], reported := [], number := 1, kept := [] }
  stops := []
  runtimes := []
  principal := none

/-- The machine right after package reset. CAPS is that of the WSR-4812 (R9). -/
def State.reset : State where
  caps := 0x0000000F#32
  isles := []
  cores := []
  threads := []
  gangs := []
  crews := []
  bands := []
  jobs := []
  parts := []
  mem := { dram := [], domains := [], poison := [], unscrubbed := [], tlb := [], walks := [], l2 := [], dir := [],
           updates := [], replicas := [], holds := [], demands := [], misses := [], reserve := [], objects := [] }
  net := { cycle := 0, links := [], conns := [], reds := [], macsec := [], udp := 49312#16 }
  reqs := []
  insps := []
  msgs := []
  fw := { log := [], logSeq := 0, dropped := 0, keys := [], runtimes := [],
          boot := { step := 0, measurements := [], failed := [] }, reset := [], dead := [], hot := [] }
  sched := { agenda := [], waiting := [], core := 0, port := 0, pcs := 0, offered := [], chosen := [], issue := none, free := 0 }

end Sys2Proof.Machine
end

