-- ==== Sys2Proof/Machine/Ops.lean ====
section
/-! DEFINITION. The named operations over the state: who is where (R2, R3, R18), registers and predicates
(R20, R123), user-level interrupts (R308), the error log (R415), taking a fault (R359 to R361, R367, R368) and
returning from one (R148, R365), and what every instruction does for each member of its issue group. -/

namespace Sys2Proof.Machine

/-! ## Places -/

/-- The lane of a thread handle (Table 5-1). -/
def laneOf (h : Nat) : Nat := h % 32

/-- The slot of a thread handle. -/
def slotOf (h : Nat) : Nat := h / 32 % 256

/-- The core of a thread or gang handle. -/
def coreOf (h : Nat) : Nat := h / 8192

/-- The crew that holds a thread: its slot row. -/
def crewOf (h : Nat) : Nat := h / 32

/-- A thread handle. -/
def handleOf (core slot lane : Nat) : Nat := lane + 32 * slot + 8192 * core

/-- Cluster of a core (R3). -/
def clusterOf (core : Nat) : Nat := core / 8

/-- Isle of a core or slice (R3). -/
def isleOf (core : Nat) : Nat := core / 32

/-- Die of a core (R3). -/
def dieOf (core : Nat) : Nat := core / 96

/-- Die of an isle (R2). -/
def dieOfIsle (isle : Nat) : Nat := isle / 3

/-! ## Reading and writing the tables -/

def State.thread (s : State) (t : Nat) : Option Thread := Tab.get? s.threads t

def State.setThread (s : State) (t : Nat) (th : Thread) : State :=
  { s with threads := Tab.set s.threads t th }

/-- A thread changed, where it exists. -/
def State.modThread (s : State) (t : Nat) (f : Thread → Thread) : State :=
  match s.thread t with
  | none => s
  | some th => s.setThread t (f th)

def State.core (s : State) (c : Nat) : Core := Tab.getD s.cores c Core.reset

def State.setCore (s : State) (c : Nat) (x : Core) : State := { s with cores := Tab.set s.cores c x }

def State.modCore (s : State) (c : Nat) (f : Core → Core) : State := s.setCore c (f (s.core c))

def State.isle (s : State) (n : Nat) : Isle := Tab.getD s.isles n Isle.reset

def State.setIsle (s : State) (n : Nat) (x : Isle) : State := { s with isles := Tab.set s.isles n x }

def State.modIsle (s : State) (n : Nat) (f : Isle → Isle) : State := s.setIsle n (f (s.isle n))

def State.part (s : State) (p : Nat) : Partition := Tab.getD s.parts p Partition.reset

def State.setPart (s : State) (p : Nat) (x : Partition) : State := { s with parts := Tab.set s.parts p x }

def State.modPart (s : State) (p : Nat) (f : Partition → Partition) : State := s.setPart p (f (s.part p))

def State.gang (s : State) (g : Nat) : Option Gang := Tab.get? s.gangs g

def State.setGang (s : State) (g : Nat) (x : Gang) : State := { s with gangs := Tab.set s.gangs g x }

def State.modGang (s : State) (g : Nat) (f : Gang → Gang) : State :=
  { s with gangs := Tab.modify s.gangs g f }

def State.crew (s : State) (k : Nat) : Crew := Tab.getD s.crews k { records := [], arrivals := [] }

def State.setCrew (s : State) (k : Nat) (x : Crew) : State := { s with crews := Tab.set s.crews k x }

def State.band (s : State) (b : Nat) : Option Band := Tab.get? s.bands b

def State.job (s : State) (j : Nat) : Option Job := Tab.get? s.jobs j

def State.modJob (s : State) (j : Nat) (f : Job → Job) : State := { s with jobs := Tab.modify s.jobs j f }

def State.request (s : State) (r : Nat) : Option Request := Tab.get? s.reqs r

def State.modReq (s : State) (r : Nat) (f : Request → Request) : State :=
  { s with reqs := Tab.modify s.reqs r f }

def State.setMem (s : State) (m : Mem) : State := { s with mem := m }

def State.setDram (s : State) (m : Memory) : State := { s with mem := { s.mem with dram := m } }

def State.setNet (s : State) (n : Net) : State := { s with net := n }

def State.setFw (s : State) (f : Firmware) : State := { s with fw := f }

/-- The turns added at the end of the agenda (log 4). -/
def State.later (s : State) (ts : List Turn) : State :=
  { s with sched := { s.sched with agenda := s.sched.agenda ++ ts } }

/-- The turns put at the head of the agenda: what happens before anything else does (log 4). -/
def State.sooner (s : State) (ts : List Turn) : State :=
  { s with sched := { s.sched with agenda := ts ++ s.sched.agenda } }

/-- The next free value (log 5): a word that nothing in the model constrains, and the state that will give
another one. -/
def State.freeWord (s : State) : Word × State :=
  (Config.freeWord s.sched.free, { s with sched := { s.sched with free := s.sched.free + 1 } })

/-! ## Job, partition and context of a gang or thread -/

def State.gangOf (s : State) (t : Nat) : Option Gang := (s.thread t).bind fun th => s.gang th.gang

def State.jobOf (s : State) (t : Nat) : Option Job := (s.gangOf t).bind fun g => s.job g.job

/-- The partition number of a thread; 0 for a handle that names none. -/
def State.partOf (s : State) (t : Nat) : Nat := ((s.jobOf t).map (·.part)).getD 0

/-- Bits of a card (Table 2-6). -/
def cardBits (card : BitVec 512) (lo len : Nat) : Nat := natBits card.toNat lo len

/-- The registers a job declares (Table 2-6, REGS8). -/
def Job.regCount (j : Job) : Nat := 8 * cardBits j.card 339 7

/-- Private bytes of each thread (Table 2-6, PRIV64). -/
def Job.privBytes (j : Job) : Nat := 64 * cardBits j.card 346 13

/-- Scratchpad bytes of each gang (Table 2-6, SCRKB). -/
def Job.scratchBytes (j : Job) : Nat := 1024 * cardBits j.card 359 10

/-- Gangs of a band (Table 2-6, BANDW). -/
def Job.bandWidth (j : Job) : Nat := cardBits j.card 333 6

/-- Threads of a gang (Table 2-6, GTHREADS). -/
def Job.gangThreads (j : Job) : Nat := cardBits j.card 320 13

/-- The code base (Table 2-6, CODEBASE; R120). -/
def Job.codeBase (j : Job) : Nat := 65536 * cardBits j.card 0 40

def State.regCount (s : State) (t : Nat) : Nat := ((s.jobOf t).map Job.regCount).getD 512

def State.privBytes (s : State) (t : Nat) : Nat := ((s.jobOf t).map Job.privBytes).getD 0

def State.scratchBytes (s : State) (t : Nat) : Nat := ((s.jobOf t).map Job.scratchBytes).getD 0

/-- Fields of a partition descriptor (Table 15-2). -/
def Partition.first (p : Partition) : Nat := natBits p.desc.toNat 8 4

/-- The number of isles of a SIZE code (Table 15-2); 0 for a reserved code. -/
def sizeOfCode (c : Nat) : Nat := [1, 2, 3, 4, 6, 12].getD c 0

def Partition.size (p : Partition) : Nat := sizeOfCode (natBits p.desc.toNat 5 3)

def Partition.isles (p : Partition) : List Nat := (List.range p.size).map (· + p.first)

def Partition.cores (p : Partition) : List Nat := (List.range (32 * p.size)).map (· + 32 * p.first)

def Partition.holdsIsle (p : Partition) (n : Nat) : Bool := decide (p.first ≤ n ∧ n < p.first + p.size)

/-- LEND in bytes (Table 15-2, R41). -/
def Partition.lend (p : Partition) : Nat := 4096 * natBits p.desc.toNat 33 7

/-- The drain age in isle cycles (Table 15-2, R89). -/
def Partition.drainAge (p : Partition) : Nat := 2 ^ (8 + natBits p.desc.toNat 40 4)

def Partition.mayUseKey (p : Partition) (slot : Nat) : Bool := decide (natBits p.desc.toNat (80 + slot) 1 = 1)

/-- The ASID of a thread's virtual device (R300); 0 where there is none. -/
def State.asidOf (s : State) (t : Nat) : Nat :=
  match s.jobOf t with
  | none => 0
  | some j => ((Tab.get? (s.part j.part).vdevs j.vdev).map (·.asid)).getD 0

/-- The counter of a thread's isle (R5). -/
def State.clock (s : State) (t : Nat) : Nat := (s.isle (isleOf (coreOf t))).counter

/-! ## Homes (R48, R58) -/

/-- The hash of a line over the slices of `n` isles from `f` (R48). -/
def hashSlice (line f n : Nat) : Nat :=
  let h := (natBits line 0 16) ^^^ (natBits line 16 16) ^^^ (natBits line 32 16) ^^^ (natBits line 48 2)
  32 * f + h % (32 * n)

/-- The home slice of a line (R48). -/
def Partition.home (p : Partition) (line : Nat) : Nat := hashSlice line p.first p.size

/-- The primary form of an address in a registered secondary page (R58). -/
def remapOf (p : Partition) (asid va : Nat) : Option (Nat × Nat) :=
  (p.pm.remap.find? fun r => r.asid == asid && decide (r.page ≤ va ∧ va < r.page + r.size)).map
    fun r => (r.pasid, r.ppage + (va - r.page))

/-- The form under which a line is cached and its home chosen (R58). -/
def primaryForm (p : Partition) (asid va : Nat) : Nat × Nat := (remapOf p asid va).getD (asid, va)

/-- The front end that translates an address: that of its home slice's isle (R49). -/
def Partition.frontEnd (p : Partition) (asid va : Nat) : Nat := isleOf (p.home ((primaryForm p asid va).2 / 64))

/-! ## Registers, predicates and flags -/

/-- g[r] (R20). -/
def Thread.reg (th : Thread) (r : Nat) : Word := Sparse.get th.regs r

/-- g[r]:g[r+1] (R123). -/
def Thread.pair (th : Thread) (r : Nat) : DWord := pair64 (th.reg r) (th.reg (r + 1))

/-- A register written: any write discards a kept value of it and clears its poison (R126, R386). -/
def Thread.setReg (th : Thread) (r : Nat) (v : Word) : Thread :=
  { th with regs := Sparse.set th.regs r v, poison := without th.poison r,
            marks := { th.marks with keepA := th.marks.keepA.filter fun k => k.reg.toNat != r } }

/-- A pair written (R123). -/
def Thread.setPair (th : Thread) (r : Nat) (v : DWord) : Thread :=
  (th.setReg r (lo32 v)).setReg (r + 1) (hi32 v)

/-- A list of registers written in order. -/
def Thread.setRegs (th : Thread) (ws : List (Nat × Word)) : Thread :=
  ws.foldl (fun th w => th.setReg w.1 w.2) th

/-- p[n]; p7 reads as true (R12, R123). -/
def Thread.pred (th : Thread) (n : BitVec 3) : Bool := n == 7#3 || th.preds.getLsbD n.toNat

/-- A predicate written; a write to p7 is discarded (R123). -/
def Thread.setPred (th : Thread) (n : BitVec 3) (v : Bool) : Thread :=
  if n = 7#3 then th
  else { th with preds := (th.preds &&& ~~~(1#8 <<< n.toNat)) ||| (if v then 1#8 <<< n.toNat else 0#8) }

/-- The guard of an instruction: the predicate, inverted when GD[15] is set (R122). -/
def Thread.guard (th : Thread) (h : Hdr) : Bool := Bool.xor (th.pred h.pred) h.neg

/-- Flags raised, by their bit positions in FLG (R81). -/
def Thread.raise (th : Thread) (flags : Nat) : Thread :=
  { th with flg := th.flg ||| BitVec.ofNat 32 (flags % 64) }

/-! ## Interrupts and the error log -/

/-- The 128-bit record of Table 15-5. -/
def interruptRecord (payload src op status part vec : Nat) : BitVec 128 :=
  BitVec.ofNat 128 (vec % 256 + 2 ^ 40 * (part % 32) + 2 ^ 48 * (status % 256) + 2 ^ 56 * (op % 256)
    + 2 ^ 64 * (src % 2 ^ 22) + 2 ^ 96 * (payload % 2 ^ 32))

/-- A runtime thread that has received nothing. -/
def Runtime.empty : Runtime :=
  { pending := 0#256, overflow := 0#256, head := 0#32, tail := 0#32, ring := [], running := false, entered := false }

/-- Records in the queue: the head and tail words count the records taken and appended. DESIGN CHOICE: log 47. -/
def Runtime.count (r : Runtime) : Nat := (r.tail - r.head).toNat

/-- The records in the queue, oldest first (R308). -/
def Runtime.queue (r : Runtime) : List (BitVec 128) :=
  (List.range r.count).map fun k => Sparse.get r.ring ((r.head.toNat + k) % 64)

/-- A byte of the interrupt area, at the offsets of R308. -/
def Runtime.areaByte (r : Runtime) (off : Nat) : Byte :=
  let byte (v n : Nat) : Byte := BitVec.ofNat 8 (v / 2 ^ (8 * n))
  if off < 0x20 then byte r.pending.toNat off
  else if off < 0x40 then byte r.overflow.toNat (off - 0x20)
  else if off < 0x44 then byte r.head.toNat (off - 0x40)
  else if off < 0x48 then byte r.tail.toNat (off - 0x44)
  else if 0x80 ≤ off ∧ off < 0x480 then byte (Sparse.get r.ring ((off - 0x80) / 16)).toNat ((off - 0x80) % 16)
  else 0#8

/-- USER_INTERRUPT_POST (R308): the record is appended and the vector's pending bit set; a full queue drops the
record and sets the overflow bit. A thread that runs enters its interrupt entry at once. -/
def Runtime.post (r : Runtime) (vec : Nat) (rec : BitVec 128) : Runtime :=
  let r := { r with pending := r.pending ||| (1#256 <<< (vec % 256)), entered := r.entered || r.running }
  if r.count < 64 then { r with ring := Sparse.set r.ring (r.tail.toNat % 64) rec, tail := r.tail + 1#32 }
  else { r with overflow := r.overflow ||| (1#256 <<< (vec % 256)) }

/-- A runtime thread is dispatched on its control core, or leaves it; what is pending is taken as it runs next (R308). -/
def Runtime.dispatch (r : Runtime) (on : Bool) : Runtime :=
  { r with running := on, entered := on && (r.entered || r.pending != 0#256) }

/-- The runtime takes records in its interrupt entry, and clears pending and overflow bits (R308). -/
def Runtime.take (r : Runtime) (n : Nat) (clear : BitVec 256) : Runtime :=
  if r.entered then
    { r with head := r.head + BitVec.ofNat 32 (min n r.count), pending := r.pending &&& ~~~clear
             overflow := r.overflow &&& ~~~clear, entered := (r.pending &&& ~~~clear) != 0#256 }
  else r

/-- A user-level interrupt posted to a control-core thread (R308). -/
def State.post (s : State) (designator vec : Nat) (rec : BitVec 128) : State :=
  s.setFw { s.fw with
    runtimes := Tab.set s.fw.runtimes designator
      ((Tab.getD s.fw.runtimes designator Runtime.empty).post vec rec) }

/-- An interrupt to the runtime thread of a stream; none is assigned, none is posted (R308). -/
def State.postStream (s : State) (part vdev stream vec : Nat) (rec : BitVec 128) : State :=
  match (Tab.get? (s.part part).streams (256 * vdev + stream)).bind (·.runtime) with
  | none => s
  | some d => s.post d vec rec

/-- An interrupt to the principal runtime thread of a partition (R308). -/
def State.postPrincipal (s : State) (part vec : Nat) (rec : BitVec 128) : State :=
  match (s.part part).principal with
  | none => s
  | some d => s.post d vec rec

/-- The agents that detect events, for the log's SRCX, SRCY and SRCE (R273, R274). -/
inductive Agent where
  | core (c : Nat)
  | slice (n : Nat)
  | frontEnd (isle : Nat)
  | copyEngine (stack e : Nat)
  | control (stack q : Nat)
  | tierPort (stack : Nat)
  | ethernet (stack : Nat)
  | bank (isle b : Nat)
  deriving DecidableEq, Repr

/-- Column, row and endpoint of an agent (R273, Table 14-1). The endpoint of a side agent is not stated:
DESIGN CHOICE 0 (log 8). -/
def Agent.place : Agent → Nat × Nat × Nat
  | .core c => (c % 96 / 2 % 8 + 8 * (c / 96 % 2), c % 96 / 2 / 8 + 6 * (c / 96 / 2), c % 2)
  | .slice n => (n % 96 / 2 % 8 + 8 * (n / 96 % 2), n % 96 / 2 / 8 + 6 * (n / 96 / 2), 2 + n % 2)
  | .frontEnd i => (7 + 8 * (i / 3 % 2), 2 * (i % 3) + 6 * (i / 3 / 2), 0)
  | .copyEngine d e => (e % 8 + 8 * (d % 2), 2 * (e / 8) + 1 + 6 * (d / 2), 0)
  | .control d q => (2 * q + 8 * (d % 2), 6 * (d / 2), 0)
  | .tierPort d => (8 * (d % 2), 3 + 6 * (d / 2), 0)
  | .ethernet d => (8 * (d % 2), 5 + 6 * (d / 2), 0)
  | .bank i b =>
    let n := 32 * i + b
    (n % 96 / 2 % 8 + 8 * (n / 96 % 2), n % 96 / 2 / 8 + 6 * (n / 96 / 2), 2 + n % 2)

/-- The isle that an agent serves; 3 x stack for agents shared by a stack (Table 27-2). -/
def Agent.isle : Agent → Nat
  | .core c => isleOf c
  | .slice n => isleOf n
  | .frontEnd i => i
  | .copyEngine d _ => 3 * d
  | .control d _ => 3 * d
  | .tierPort d => 3 * d
  | .ethernet d => 3 * d
  | .bank i _ => i

/-- An entry of the error log (Table 27-2). -/
def logEntry (addr detail cyc seq event : Nat) (agent : Agent) (part : Option Nat) (dropped : Nat) : BitVec 256 :=
  let (x, y, e) := agent.place
  BitVec.ofNat 256 (min dropped 255 + 2 ^ 12 * agent.isle + 2 ^ 16 * bit part.isSome
    + 2 ^ 17 * (part.getD 0 % 32) + 2 ^ 22 * e + 2 ^ 24 * y + 2 ^ 28 * x + 2 ^ 32 * (event % 256)
    + 2 ^ 40 * (seq % 2 ^ 24) + 2 ^ 64 * (cyc % 2 ^ 64) + 2 ^ 128 * (detail % 2 ^ 64)
    + 2 ^ 192 * (addr % 2 ^ 64))

/-- An event logged; a full ring drops it and counts it (R415). -/
def State.log (s : State) (event : Nat) (agent : Agent) (part : Option Nat) (addr detail : Nat) : State :=
  if 4096 ≤ s.fw.log.length then s.setFw { s.fw with dropped := s.fw.dropped + 1 }
  else
    s.setFw { s.fw with
      log := s.fw.log ++ [logEntry addr detail (s.isle agent.isle).counter s.fw.logSeq event agent part
                            s.fw.dropped],
      logSeq := s.fw.logSeq + 1, dropped := 0 }

/-! ## Wait-for records -/

/-- The records of a thread's wait removed (R270). -/
def State.dropWaits (s : State) (t : Nat) : State :=
  s.modIsle (isleOf (coreOf t)) fun x => { x with waits := x.waits.filter fun w => w.waiter != t }

/-- The records of a wait written; where the table has no room, one record of SIGK 0 stands (R270, R399). -/
def State.addWaits (s : State) (t kind ospace obj : Nat) (sigs : List (Nat × Nat)) : State :=
  s.modIsle (isleOf (coreOf t)) fun x =>
    let recs := (if sigs.isEmpty then [(0, 0)] else sigs).map fun g =>
      { waiter := t, kind := kind, ospace := ospace, obj := obj, sigk := g.1, sig := g.2, born := x.counter,
        saved := false : WaitRec }
    if x.waits.length + recs.length ≤ 262144 then { x with waits := x.waits ++ recs }
    else { x with waits := x.waits ++
             [{ waiter := t, kind := kind, ospace := ospace, obj := obj, sigk := 0, sig := 0, born := x.counter,
                saved := false }] }

/-! ## The loop buffer (R324) -/

/-- A PC of a job lies in the captured range (R324). -/
def LoopBuf.covers (b : LoopBuf) (job : Nat) (pc : Addr56) : Bool :=
  decide (b.job = job ∧ b.first.toNat ≤ pc.toNat ∧ pc.toNat < b.first.toNat + 12 * b.words.length)

/-- The word that the loop buffer holds for a PC of its job (R324). -/
def LoopBuf.word? (b : LoopBuf) (job : Nat) (pc : Addr56) : Option (BitVec 96) :=
  if b.covers job pc ∧ (pc.toNat - b.first.toNat) % 12 = 0 then (b.words[(pc.toNat - b.first.toNat) / 12]?).join
  else none

/-- A PC of a thread lies in the range that its core's loop buffer holds. -/
def State.inLoop (s : State) (t : Nat) (pc : Addr56) : Bool :=
  match (s.core (coreOf t)).loop, s.gangOf t with
  | some b, some g => b.covers g.job pc
  | _, _ => false

/-- The range of a core's loop buffer freed when no thread is in a run (R324). -/
def State.freeLoop (s : State) (core : Nat) : State :=
  if s.threads.any fun (p : Nat × Thread) => decide (coreOf p.1 = core) && p.2.marks.inRun then s
  else s.modCore core fun c => { c with loop := none }

/-! ## Taking a fault -/

/-- What a failed check names (Tables 23-3 and 23-4). -/
structure FaultInfo where
  code : Nat
  info : Word
  addr : DWord
  deriving DecidableEq, Repr

namespace Code
def illegalOp : Nat := 0x01
def illegalField : Nat := 0x02
def absentUnit : Nat := 0x03
def privileged : Nat := 0x04
def misaligned : Nat := 0x05
def bounds : Nat := 0x06
def tableRange : Nat := 0x07
def codeAlign : Nat := 0x08
def access : Nat := 0x09
def synonym : Nat := 0x0A
def formatEntry : Nat := 0x0B
def formatGeometry : Nat := 0x0C
def choiceEmpty : Nat := 0x0D
def trailFull : Nat := 0x0E
def tentativeFull : Nat := 0x0F
def stealLink : Nat := 0x10
def msgOverflow : Nat := 0x11
def poison : Nat := 0x12
def waitBroken : Nat := 0x13
def callStack : Nat := 0x14
def handleInvalid : Nat := 0x15
def matrixShape : Nat := 0x16
def pipeUnbound : Nat := 0x17
def software : Nat := 0x18
def breakpoint : Nat := 0x19
def partitionProbe : Nat := 0x1A
def scopeReserved : Nat := 0x1B
end Code

/-- A fault with FINFO and FADDR zero. -/
def plainFault (code : Nat) : FaultInfo := { code := code, info := 0#32, addr := 0#64 }

/-- A fault with FINFO. -/
def infoFault (code info : Nat) : FaultInfo := { code := code, info := BitVec.ofNat 32 info, addr := 0#64 }

/-- A fault with FADDRL and FADDRH. -/
def addrFault (code : Nat) (addr : DWord) (info : Nat := 0) : FaultInfo :=
  { code := code, info := BitVec.ofNat 32 info, addr := addr }

/-- A sink designator's thread, interrupt or band: the gangs of the band of a gang; a gang outside a band is a
band of one (R367). -/
def State.bandGangs (s : State) (g : Nat) : List Nat :=
  match s.gang g with
  | none => []
  | some x =>
    match s.band x.band with
    | none => [g]
    | some b => if b.gangs.contains g then b.gangs else [g]

/-- The gang stops issuing for good and goes on to retire (R367). -/
def Gang.stop (x : Gang) : Gang :=
  { x with phase := .retiring, stopBand := true, stopped := x.stopped || x.debug }

/-- A thread of a stopped band (R367): it issues nothing further, and its waits end. An instruction in progress and
what is outstanding complete, its PSQ stays for the retirement, and it leaves its run (R324). -/
def Thread.halt (th : Thread) : Thread :=
  { th with
    marks := { th.marks with inRun := false }
    hold := match th.hold with
      | .finishing x => .finishing x
      | .storeCheck x => .storeCheck x
      | _ => .exited
    longs := th.longs.filter fun o => match o.kind with | .mwait _ _ => false | .coll _ => false | _ => true
    asyncs := [] }

/-- BAND_STOP (R367, R368): the band's threads stop, its gangs go on to retire (GANG_RETIRE drains them), the
job goes to DRAINING, and at the first stop the stream's runtime is posted vector 0xFF. -/
def State.stopBand (s : State) (t : Nat) (r : FaultRegs) (inHandler : Bool) : State :=
  match s.thread t with
  | none => s
  | some th =>
    let gangs := s.bandGangs th.gang
    let s := { s with
      threads := s.threads.map fun (p : Nat × Thread) => if gangs.contains p.2.gang then (p.1, p.2.halt) else p
      gangs := s.gangs.map fun (p : Nat × Gang) => if gangs.contains p.1 then (p.1, p.2.stop) else p }
    let s := { s with isles := s.isles.map fun (p : Nat × Isle) =>
      (p.1, { p.2 with waits := p.2.waits.filter fun w =>
        !((s.thread w.waiter).map fun (x : Thread) => gangs.contains x.gang).getD false }) }
    let s := gangs.foldl (fun (s : State) g => s.freeLoop (coreOf g)) s
    match (s.gang th.gang).bind fun g => (s.job g.job).map fun j => (g.job, j) with
    | none => s
    | some (jn, j) =>
      let s := s.modPart j.part fun (p : Partition) =>
        { p with stops := p.stops ++ [{ thread := t, fcause := r.fcause, fpc := r.fpc, fopc := r.fopc, finfo := r.finfo }] }
      let s := s.modJob jn fun (j : Job) =>
        { j with phase := .draining, stop := some (j.stop.getD (natBits r.fcause.toNat 0 8, inHandler)) }
      if j.stop.isSome then s
      else s.postStream j.part j.vdev j.stream 0xFF (interruptRecord jn 0 0 0x04 j.part 0xFF)

/-- The fault registers at handler entry (Tables 23-1 and 23-2). -/
def FaultRec.regs (f : FaultRec) : FaultRegs :=
  let w := Fields.ofWord f.word
  let zero := !f.decoded
  { fcause := BitVec.ofNat 32 (f.code + 256 * bit f.async)
    fpc := f.pc.setWidth 64
    fopc := if zero then 0#32 else BitVec.ofNat 32 (w.op.toNat + 256 * w.fn.toNat)
    fopd := if zero then 0#32
            else BitVec.ofNat 32 (w.body.d.toNat + 2 ^ 9 * w.body.a.toNat + 2 ^ 18 * w.body.b.toNat)
    fopa := if zero then 0#64 else f.opa
    fopb := if zero then 0#64 else f.opb
    fimm := if zero then 0#32 else w.body.imm
    fmod := if zero then 0#32 else w.body.mod.setWidth 32
    faddrl := lo32 f.addr
    faddrh := hi32 f.addr
    fguard := if zero then 0#32 else w.gd.setWidth 32
    finfo := f.info
    inh := true }

/-- An outstanding instruction that delivery waits for: all but MWAIT and crew collectives (R359). -/
def Outstanding.blocksFault (o : Outstanding) : Bool :=
  match o.kind with
  | .mwait _ _ => false
  | .coll _ => false
  | _ => true

/-- MWAIT ends at once with a reason, and its watch is disarmed (R200, R359). -/
def Thread.endMwait (th : Thread) (reason : Nat) : Thread :=
  th.longs.foldl
    (fun th o => match o.kind with
      | .mwait d _ => { th.setReg d.toNat (BitVec.ofNat 32 reason) with
                          watch := none, longs := th.longs.filter fun x => x.order != o.order }
      | _ => th) th

/-- A fault that a member of a crew meets at a collective after its checks: it does not arrive (R375). -/
def FaultRec.missed (f : FaultRec) : Option Addr56 :=
  let op := f.word.toNat % 256
  if f.decoded && (f.code == Code.poison || f.code == Code.waitBroken) && decide (0x34 ≤ op ∧ op ≤ 0x39) then some f.pc
  else none

/-- The band of a thread has stopped (R367). -/
def State.bandStopped (s : State) (th : Thread) : Bool := ((s.gang th.gang).map (·.stopBand)).getD false

/-- Delivery once nothing holds it up (R359): the thread enters its handler, or its band stops. -/
def State.deliverNow (s : State) (t : Nat) (f : FaultRec) : State :=
  match s.thread t with
  | none => s
  | some th0 =>
    let th := th0.endMwait 3
    let th := { th with marks := { th.marks with solo := false, yld := 0, keepA := none, inRun := false },
                        hold := .none, missed := f.missed }
    let s := ((s.setThread t th).dropWaits t).freeLoop (coreOf t)
    if s.bandStopped th then s.modThread t Thread.halt
    else if th.faults.inh || th.hnd == 0#64 then s.stopBand t f.regs th.faults.inh
    else
      s.setThread t { th with faults := f.regs, pc := th.hnd.setWidth 56 }

/-- Delivery waits: for outstanding instructions (R359), or for a cancel that stands at the boundary, which is applied in
its place (R369). -/
def Thread.holdsFault (th : Thread) : Bool :=
  th.longs.any Outstanding.blocksFault || (th.choice.cancel && !th.faults.inh)

/-- DeliverFault (R359): at once, or when the outstanding instructions of the thread have completed; an MWAIT ends at
once in either case. A thread whose band has stopped takes no fault (R367). -/
def State.deliverFault (s : State) (t : Nat) (f : FaultRec) : State :=
  match s.thread t with
  | none => s
  | some th =>
    if th.hold = .exited then s
    else if th.holdsFault then (s.setThread t { th.endMwait 3 with hold := .faulting f }).dropWaits t
    else s.deliverNow t f

/-- A fault that waited is delivered when nothing holds it up any more (R359, R369). -/
def State.settleFault (s : State) (t : Nat) : State :=
  match s.thread t with
  | none => s
  | some th =>
    match th.hold with
    | .faulting f => if th.holdsFault then s else s.deliverNow t f
    | _ => s

/-- The return from a handler to an address (R148, R365): the handler state ends, and nothing else changes. -/
def Thread.leaveHandler (th : Thread) (pc : Addr56) : Thread :=
  { th with pc := pc, faults := { th.faults with inh := false } }

/-- A code address: code base + 12k for some k (R133). -/
def isCodeAddress (base : Nat) (a : Nat) : Bool := decide (base ≤ a ∧ (a - base) % 12 = 0)

/-- The code base of a thread's job (R120). -/
def State.codeBase (s : State) (t : Nat) : Nat := ((s.jobOf t).map Job.codeBase).getD 0

/-- The target of a relative branch, counted in units from an origin (R133, R140). -/
def relTarget (origin : Addr56) (unit : Int) (imm : Word) : Addr56 :=
  BitVec.ofInt 56 ((origin.toNat : Int) + unit * sval imm)

/-! ## What every instruction does for each member of its group -/

/-- The outcome of an instruction for one thread: the state after it, the check that failed, or a resource that
runs out in the middle of the group, so that the thread does not issue yet (R87, R216, R253). -/
inductive LaneRes where
  | ok (s : State)
  | fault (f : FaultInfo)
  | stall
  deriving DecidableEq, Repr

/-- Sequencing of checks. -/
def LaneRes.bind (r : LaneRes) (f : State → LaneRes) : LaneRes :=
  match r with
  | .ok s => f s
  | .fault e => .fault e
  | .stall => .stall

/-- The header of an instruction form. -/
def headerOf (word : BitVec 96) : Hdr :=
  (Hdr.read (Fields.ofWord word)).getD
    { neg := false, pred := 7#3, keep := .none, look := 0#4, yld := false, solo := false }

/-- What issue does to every thread of the group, whatever its guard: ages and marks (R23, R127), the LOOK
windows of earlier instructions (R129), and the thread's program order. A YLD hint counts the present issue cycle, in which
the thread has issued, and the next. -/
def Thread.issued (th : Thread) (h : Hdr) : Thread :=
  { th with
    order := th.order + 1
    longs := th.longs.map fun o => { o with left := o.left - 1 }
    marks := { th.marks with release := false, solo := h.solo, yld := if h.yld then 2 else 0, age := 0 } }

end Sys2Proof.Machine
end

