-- ==== Sys2Proof/Machine/Page.lean ====
section
/-! DEFINITION. Pages and lines below the instructions: page table entries (R51, R52), homes (R48), lines of DRAM with
their unscrubbed bits and poison (R65, R384), the L1 and the directory (R282, R285), and what INSP.s does to a core
(R97, R108). -/

namespace Sys2Proof.Machine

/-! ## Page table entries (Table 3-3) -/

def pteBits (pte : DWord) (lo len : Nat) : Nat := natBits pte.toNat lo len
def pteV (pte : DWord) : Bool := bitOf pte 0
def pteRd (pte : DWord) : Bool := bitOf pte 1
def pteWr (pte : DWord) : Bool := bitOf pte 2
def pteEx (pte : DWord) : Bool := bitOf pte 3
def ptePs (pte : DWord) : Nat := pteBits pte 4 2
def pteFmt (pte : DWord) : Nat := pteBits pte 6 5
def pteGeom (pte : DWord) : BitVec 2 := slice pte 11 2
def pteTier (pte : DWord) : Nat := pteBits pte 13 2
def pteProp (pte : DWord) : Bool := bitOf pte 15
def pteMir (pte : DWord) : Bool := bitOf pte 16
def pteTs (pte : DWord) : Bool := bitOf pte 17
def pteEd (pte : DWord) : Nat := pteBits pte 18 4
def ptePri (pte : DWord) : Bool := bitOf pte 23
def pteRwin (pte : DWord) : Bool := bitOf pte 24

/-- A page cached nowhere: SU = 1, or a fabric window, which behaves as SU = 1 (R54, R64). -/
def uncached (pte : DWord) : Bool := bitOf pte 22 || pteTier pte == 2

/-- Bytes of a page of a PS code (Table 3-3). -/
def pageBytes (ps : Nat) : Nat := if ps = 0 then 2 ^ 16 else if ps = 1 then 2 ^ 21 else 2 ^ 30

/-- The physical address of a VA in its page (Table 3-3). -/
def physOf (pte : DWord) (va : Nat) : Nat :=
  let b := pageBytes (ptePs pte)
  pteBits pte 25 32 * 2 ^ 16 / b * b + va % b

/-- Where DRAM keeps a physical byte: the second tier stands 2^48 above the first (Table 3-3, TIER); TIER 3 counts as the
first (DESIGN CHOICE: log 21). -/
def dramKey (pte : DWord) (va : Nat) : Nat := physOf pte va + if pteTier pte = 1 then 2 ^ 48 else 0

/-- The package holds the physical address of a leaf (R4): 384 GiB of first tier, and, where CAPS.TIER2 says that its
interface is present (R8, R9), 1 TiB of second tier; a fabric window is not its memory. The spec gives a leaf of TIER 3 no
effect: it serves as one of the first tier, and no range is checked. DESIGN CHOICE: log 21. -/
def physExists (caps : Word) (pte : DWord) (va : Nat) : Bool :=
  if pteTier pte = 0 then decide (physOf pte va < 384 * 2 ^ 30)
  else if pteTier pte = 1 then bitOf caps 2 && decide (physOf pte va < 2 ^ 40)
  else true

/-- The levels of the walk: lowest VA bit, index bits, and the PS a leaf may have (Table 3-4). -/
def walkLevels : List (Nat × Nat × Option Nat) :=
  [(43, 13, none), (30, 13, some 2), (21, 9, some 1), (16, 5, some 0)]

/-- The walk from a table through the levels left (R52): the leaf, where a valid one stands; `read` gives the entry at a
physical address. -/
def walkFrom (read : Nat → DWord) (table va : Nat) : List (Nat × Nat × Option Nat) → Option DWord
  | [] => none
  | (lo, len, leaf) :: rest =>
    let e := read (table + 8 * natBits va lo len)
    if !pteV e then none
    else if ptePs e = 3 then walkFrom read (pteBits e 8 40 * 256) va rest
    else if leaf = some (ptePs e) then some e
    else none

/-- The root table of a context (R52, R300). -/
def Partition.rootOf (p : Partition) (asid : Nat) : Option Nat :=
  (p.vdevs.find? fun v => v.2.asid == asid).map fun v => v.2.root

/-! ## Homes, the remap filter and translation -/

/-- The isles of the partition within a die. -/
def Partition.islesOfDie (p : Partition) (die : Nat) : List Nat := p.isles.filter fun i => dieOfIsle i == die

/-- The dies that hold an isle of the partition, lowest first. -/
def Partition.dies (p : Partition) : List Nat :=
  (List.range 4).filter fun d => !(p.islesOfDie d).isEmpty

/-- The die of the primary replica of a Mirror line (R61). -/
def Partition.primaryDie (p : Partition) : Nat := p.dies.headD 0

/-- The home of a Mirror replica on a die (R48). -/
def Partition.replicaHome (p : Partition) (line die : Nat) : Nat :=
  hashSlice line ((p.islesOfDie die).headD p.first) (max 1 (p.islesOfDie die).length)

/-- A Mirror page of a partition (R61): an uncached page has no replicas, and in a partition within one die a page with
MIR = 1 behaves as an ordinary one. -/
def isMirror (p : Partition) (pte : DWord) : Bool := pteMir pte && !uncached pte && decide (1 < p.dies.length)

/-- The home slice of a line of a page, as an agent of a die sees it: of a Mirror line, that of the die's replica
(R48). -/
def Partition.homeOf (p : Partition) (pte : DWord) (line die : Nat) : Nat :=
  if isMirror p pte then p.replicaHome line die else p.home line

/-- The L1 line of a core that holds an address. -/
def Core.line? (c : Core) (asid line : Nat) : Option L1Line :=
  c.l1.find? fun l => l.asid == asid && l.line == line

/-! ## Line data -/

/-- The bits of the bytes that a mask of `n` bytes selects. -/
def byteMask (mask : Nat) : Nat → Nat
  | 0 => 0
  | n + 1 => byteMask mask n + (if mask / 2 ^ n % 2 = 1 then 255 * 2 ^ (8 * n) else 0)

/-- Bytes of `new` where the mask selects, of `old` elsewhere. -/
def mergeBytes {w : Nat} (old new : BitVec w) (mask : Nat) : BitVec w :=
  let m := BitVec.ofNat w (byteMask mask (w / 8))
  (old &&& ~~~m) ||| (new &&& m)

/-- A 16-byte block placed in its line. -/
def blockInLine (block : Nat) (data : BitVec 128) (mask : BitVec 16) : BitVec 512 × Nat :=
  let k := block % 4
  (BitVec.ofNat 512 (data.toNat * 2 ^ (128 * k)), mask.toNat * 2 ^ (16 * k))

/-- The record of an unscrubbed page (R65). -/
def State.unscrubbed? (s : State) (key : Nat) : Option Unscrubbed :=
  s.mem.unscrubbed.find? fun u => u.page == key / 65536

/-- A line is still to be cleared (R65). -/
def State.lineUnscrubbed (s : State) (key : Nat) : Bool :=
  match s.unscrubbed? key with
  | none => false
  | some u => !u.lines.contains (key / 64)

/-- A 64-byte line of DRAM; a line still to be cleared reads as zeros (R65). -/
def State.dramLine (s : State) (key : Nat) : BitVec 512 :=
  if s.lineUnscrubbed key then 0#512 else Memory.readBits s.mem.dram (key / 64 * 64) 64 512

/-- A 64-bit word of DRAM, as a page walk reads it (R52, R65). -/
def State.dramWord (s : State) (key : Nat) : DWord := BitVec.ofNat 64 ((s.dramLine key).toNat / 2 ^ (8 * (key % 64)))

/-- A poisoned line of DRAM (R384); a line still to be cleared reports no error (R393). -/
def State.linePoisoned (s : State) (key : Nat) : Bool := s.mem.poison.contains (key / 64) && !s.lineUnscrubbed key

/-- A line of an unscrubbed page counts as cleared or written, and an earlier tenant's poison goes; the bit clears with
the last of its 1,024 lines (R65, R393). -/
def State.scrubLine (s : State) (key : Nat) : State :=
  let us := s.mem.unscrubbed.map fun u =>
    if u.page = key / 65536 then { u with lines := addOnce u.lines (key / 64) } else u
  s.setMem { s.mem with poison := without s.mem.poison (key / 64)
                        unscrubbed := us.filter fun u => decide (u.lines.length < 1024) }

/-- Masked bytes written to a line of DRAM; a line still to be cleared merges onto zeros (R65). Poison stays
(R384). -/
def State.writeDram (s : State) (key : Nat) (data : BitVec 512) (mask : Nat) : State :=
  let base := key / 64 * 64
  if s.lineUnscrubbed key then
    let s := s.setDram (Memory.writeMasked s.mem.dram base 64 (mergeBytes 0#512 data mask).toNat (2 ^ 64 - 1))
    s.scrubLine key
  else s.setDram (Memory.writeMasked s.mem.dram base 64 data.toNat mask)

/-! ## Encryption (R306) -/

/-- The pair of XTS keys that a page's ED names. -/
def State.keyFor (s : State) (pte : DWord) : BitVec 512 := Sparse.get s.fw.keys (pteEd pte)

/-- A line reads under a page as its bytes were written: nothing has been written to it under other keys. -/
def State.inDomain (s : State) (pte : DWord) (key : Nat) : Bool :=
  s.lineUnscrubbed key || Sparse.get s.mem.domains (key / 64) == 0#512 || Sparse.get s.mem.domains (key / 64) == s.keyFor pte

/-- A line of DRAM decrypted for a page (R306). DEDUCED: log 48. -/
def State.lineFor (s : State) (pte : DWord) (key : Nat) : BitVec 512 :=
  if s.inDomain pte key then s.dramLine key
  else Config.decrypt (Sparse.get s.mem.domains (key / 64)) (s.keyFor pte) (key / 64) (s.dramLine key)

/-- The keys under which a line has been written. -/
def State.setDomain (s : State) (key : Nat) (k : BitVec 512) : State :=
  s.setMem { s.mem with domains := Sparse.set s.mem.domains (key / 64) k }

/-- Masked bytes written to a line of DRAM through a page: they are merged into what the page reads there, and the line
is encrypted under the page's keys (R306). -/
def State.writeFor (s : State) (pte : DWord) (key : Nat) (data : BitVec 512) (mask : Nat) : State :=
  let s := if s.inDomain pte key then s else s.writeDram key (s.lineFor pte key) (2 ^ 64 - 1)
  (s.writeDram key data mask).setDomain key (s.keyFor pte)

/-- A line poisoned (R384). -/
def State.poisonLine (s : State) (key : Nat) : State :=
  s.setMem { s.mem with poison := addOnce s.mem.poison (key / 64) }

/-- A line's poison cleared by a whole-line write (R386). -/
def State.cleanLine (s : State) (key : Nat) : State :=
  s.setMem { s.mem with poison := without s.mem.poison (key / 64) }

/-! ## The directory and the L1 (R282, R285) -/

def State.dir? (s : State) (asid line : Nat) : Option DirEntry :=
  s.mem.dir.find? fun e => e.asid == asid && e.line == line

/-- A directory entry changed, or made. -/
def State.setDir (s : State) (e : DirEntry) : State :=
  s.setMem { s.mem with
    dir := e :: s.mem.dir.filter fun x => !(x.asid == e.asid && x.line == e.line) }

/-- The number under which a watch of a `.glb` line stands: its context and line, or, for a page cached nowhere,
its physical line, which partitions share, or the line of a fabric window (R199, R64). -/
def watchLine (p : Partition) (asid va : Nat) (pte : DWord) : Nat :=
  if pteTier pte = 2 then 2 ^ 71 + p.first * 2 ^ 50 + physOf pte va / 64
  else if uncached pte then 2 ^ 70 + dramKey pte va / 64
  else let (a, v) := primaryForm p asid va; a * 2 ^ 50 + v / 64

/-- Lines dropped from the L1 of a core, and the core with its writer record dropped from their directory entries; an
entry without sharers returns to I (R282). -/
def State.dropLines (s : State) (core : Nat) (gone : L1Line → Bool) : State :=
  let lost := ((s.core core).l1.filter gone).map fun (l : L1Line) => (l.asid, l.line)
  let s := s.modCore core fun c => { c with l1 := c.l1.filter fun l => !gone l }
  let leave (e : DirEntry) : DirEntry :=
    if lost.contains (e.asid, e.line) then
      { e with sharers := without e.sharers core, writers := e.writers.filter fun w => w.1 != core }
    else e
  s.setMem { s.mem with dir := (s.mem.dir.map leave).filter fun (e : DirEntry) => !(e.sharers.isEmpty) }

/-- The grant of a core's copy of a line, where it holds one (R283). -/
def State.grantOf (s : State) (core asid line : Nat) : BitVec 64 :=
  (((s.core core).line? asid line).map (·.grant)).getD 0#64

/-- A core's L1 copy of a line changed. -/
def Core.modLine (c : Core) (asid line : Nat) (f : L1Line → L1Line) : Core :=
  { c with l1 := c.l1.map fun (x : L1Line) => if x.asid = asid ∧ x.line = line then f x else x }

/-- The bytes of a holder's grant reach the home, and its grant and record go (R285). -/
def State.mergeBytesOf (s : State) (core asid line : Nat) (l : L1Line) : State :=
  let key := dramKey l.pte (line * 64)
  let s := s.writeFor l.pte key l.data l.grant.toNat
  let s := if l.poison then s.poisonLine key else s
  let s := s.modCore core fun c => c.modLine asid line fun x => { x with grant := 0#64 }
  let s := match s.dir? asid line with
    | none => s
    | some e => s.setDir { e with writers := e.writers.filter fun w => w.1 != core }
  s.setMem { s.mem with demands := s.mem.demands.filter fun d => !(d.core == core && d.asid == asid && d.line == line) }

/-- A line merged from one holder; one left with fewer than two grants returns to state S, in which the home holds the
newest value of every byte (Table 14-5), so that the last holder merges too (R285; DEDUCED: log 49). -/
def State.mergeData (s : State) (core asid line : Nat) (l : L1Line) : State :=
  let s := s.mergeBytesOf core asid line l
  match s.dir? asid line with
  | none => s
  | some e =>
    match e.sharers.filter fun c => s.grantOf c asid line != 0#64 with
    | [] => s.setDir { e with state := if e.state = .priv then .shared else e.state }
    | [c] =>
      match (s.core c).line? asid line with
      | none => s
      | some x =>
        let s := s.mergeBytesOf c asid line x
        match s.dir? asid line with
        | none => s
        | some e => s.setDir { e with state := if e.state = .priv then .shared else e.state }
    | _ => s

/-- An inspection drops the non-owned valid global lines of the L1 that it names, so later loads miss (R97, R108); a
privatised one is merged first, as with any line that leaves an L1 (R285). The home tells its watchers and what waits on
it in the turn that comes first (R265). -/
def State.dropL1 (s : State) (core : Nat) (named : L1Line → Bool) : State :=
  let mine := (s.core core).l1.filter fun l => !l.owned && l.grant != 0#64 && named l
  let s := mine.foldl (fun (s : State) (l : L1Line) => s.mergeData core l.asid l.line l) s
  let s := s.dropLines core fun l => !l.owned && named l
  let s := s.setMem { s.mem with demands := s.mem.demands ++ mine.map fun l =>
    { core := core, asid := l.asid, line := l.line : Demand } }
  s.sooner (mine.map fun l => .event (.mergeReceive core (l.asid * 2 ^ 50 + l.line)))

/-- The effect of INSP.s on what a thread has not observed: rows of complete MMAs whose sinks are no token registers
are observed by it (R108, R230). -/
def State.observeRows (s : State) (t : Nat) : State :=
  let see (u : Unseen) : Unseen := if u.done ∧ u.token.isNone then { u with seen := addOnce u.seen t } else u
  s.modCore (coreOf t) fun c => { c with unseen := c.unseen.map see }

/-- The rows of an MMA whose token a thread consumes are observed by it; other threads observe them with the next event
that has the effect of INSP.s for them (R108, R213, R230; log 27). -/
def State.observeToken (s : State) (t reg : Nat) : State :=
  let free (u : Unseen) : Unseen :=
    if u.done ∧ u.token = some (t, reg) then { u with token := none, seen := addOnce u.seen t } else u
  { s with cores := s.cores.map fun (c : Nat × Core) => (c.1, { c.2 with unseen := c.2.unseen.map free }) }

/-- INSP.s for a thread (R97, R108). -/
def State.inspSelf (s : State) (t : Nat) : State := (s.dropL1 (coreOf t) fun _ => true).observeRows t

end Sys2Proof.Machine
end

