-- ==== Sys2Proof/Machine/Operands.lean ====
section
/-! DEFINITION. Operand forms: which registers and predicates each instruction reads and writes, the sources
under SRCSEL (R124), the values of FOPA and FOPB (Table 23-2), and the frame around every instruction of an
issue group (R122, R136, R357, R358). -/

namespace Sys2Proof

/-! ## Which registers and predicates an instruction reads and writes -/

/-- `n` registers from `r` upward. -/
def regSpan (r : Reg) (n : Nat) : List Nat := (List.range n).map (· + r.toNat)

def SrcA.regs (a : SrcA) (n : Nat) : List Nat :=
  match a with
  | .reg r => regSpan r n
  | .zero => []

def SrcB.regs (b : SrcB) (n : Nat) : List Nat :=
  match b with
  | .reg r => regSpan r n
  | .imm _ => []

/-- Registers of an address operand (R183). -/
def addrSpan (sp : Space) : Nat := if sp = .glb then 2 else 1

/-- Registers of an end of a copy: a pair for `.glb`, whose two-bit code is 3 (R210). -/
def endSpan (c : BitVec 2) : Nat := if c = 3#2 then 2 else 1

/-- Registers of a data operand (R185). -/
def widthSpan : Width → Nat
  | .w64 => 2
  | .w128 => 4
  | _ => 1

/-- Registers of an FCVT operand: a pair for entry 3 (R175). -/
def entrySpan (e : BitVec 5) : Nat := if e = 3#5 then 2 else 1

/-- A sink designator is read; a token register is not (R213). -/
def sinkReads (k : SinkKind) (d : Reg) : List Nat := if k = .token then [] else regSpan d 2

/-- A token register is written (R213). -/
def sinkWrites (k : SinkKind) (d : Reg) : List Nat := if k = .token then regSpan d 1 else []

/-- The registers an instruction reads as source values (R108, R124). -/
def Instr.reads : Instr → List Nat
  | .nop _ => []
  | .bra _ _ => []
  | .brx _ x => regSpan x.b 2
  | .brt _ x => regSpan x.a 1
  | .call _ _ => []
  | .callx _ x => regSpan x.b 2
  | .ret _ => []
  | .exit _ => []
  | .split _ _ => []
  | .join _ => []
  | .yield _ _ => []
  | .sleep _ x => x.b.regs 1
  | .trap _ _ => []
  | .iret _ x => x.b.regs 2
  | .bkpt _ _ => []
  | .svc _ _ => []
  | .add _ x => x.a.regs 1 ++ x.b.regs 1
  | .sub _ x => x.a.regs 1 ++ x.b.regs 1
  | .mul _ x => x.a.regs 1 ++ x.b.regs 1
  | .mulh _ x => regSpan x.a 1 ++ x.b.regs 1
  | .mad _ x => regSpan x.a 1 ++ x.b.regs 1 ++ regSpan x.d 1
  | .madw _ x => regSpan x.a 1 ++ x.b.regs 1 ++ regSpan x.d 2
  | .div _ x => x.a.regs 1 ++ x.b.regs 1
  | .rem _ x => x.a.regs 1 ++ x.b.regs 1
  | .min _ x => x.a.regs 1 ++ x.b.regs 1
  | .max _ x => x.a.regs 1 ++ x.b.regs 1
  | .abs _ x => regSpan x.b 1
  | .neg _ x => regSpan x.b 1
  | .addc _ x => x.a.regs 1 ++ x.b.regs 1
  | .lea _ x => x.a.regs 2 ++ regSpan x.b 1
  | .add64 _ x => regSpan x.a 2 ++ x.b.regs 2
  | .sub64 _ x => regSpan x.a 2 ++ x.b.regs 2
  | .and _ x => x.a.regs 1 ++ x.b.regs 1
  | .or _ x => x.a.regs 1 ++ x.b.regs 1
  | .xor _ x => x.a.regs 1 ++ x.b.regs 1
  | .andn _ x => x.a.regs 1 ++ x.b.regs 1
  | .shl _ x => x.a.regs 1 ++ x.b.regs 1
  | .shr _ x => x.a.regs 1 ++ x.b.regs 1
  | .sar _ x => x.a.regs 1 ++ x.b.regs 1
  | .rotl _ x => x.a.regs 1 ++ x.b.regs 1
  | .clz _ x => regSpan x.b 1
  | .popc _ x => regSpan x.b 1
  | .brev _ x => regSpan x.b 1
  | .bfx _ x => x.a.regs 1 ++ x.b.regs 1
  | .bfi _ x => x.a.regs 1 ++ x.b.regs 1 ++ regSpan x.d 1
  | .prmb _ x => x.a.regs 1 ++ regSpan x.b 1
  | .mov _ x => x.b.regs 1
  | .sel _ x => x.a.regs 1 ++ regSpan x.b 1
  | .icmp _ x => x.a.regs 1 ++ x.b.regs 1
  | .plop _ _ => []
  | .p2g _ _ => []
  | .g2p _ x => regSpan x.b 1
  | .shflIdx _ x => regSpan x.a 1 ++ x.b.regs 1
  | .shflUp _ x => regSpan x.a 1 ++ x.b.regs 1
  | .shflDown _ x => regSpan x.a 1 ++ x.b.regs 1
  | .shflXor _ x => regSpan x.a 1 ++ x.b.regs 1
  | .voteAll _ _ => []
  | .voteAny _ _ => []
  | .voteBallot _ _ => []
  | .voteCount _ _ => []
  | .cred _ _ x => x.b.regs 1
  | .cscan _ x => x.b.regs 1
  | .matchLanes _ x => regSpan x.b 1
  | .elect _ _ => []
  | .fadd _ x => x.a.regs 1 ++ x.b.regs 1
  | .fsub _ x => x.a.regs 1 ++ x.b.regs 1
  | .fmul _ x => x.a.regs 1 ++ x.b.regs 1
  | .fma _ x => x.a.regs 1 ++ x.b.regs 1 ++ regSpan x.d 1
  | .fmin _ x => x.a.regs 1 ++ x.b.regs 1
  | .fmax _ x => x.a.regs 1 ++ x.b.regs 1
  | .fcmp _ x => x.a.regs 1 ++ x.b.regs 1
  | .fdiv _ x => x.a.regs 1 ++ x.b.regs 1
  | .frcp _ x => x.b.regs 1
  | .frsq _ x => x.b.regs 1
  | .fsqrt _ x => x.b.regs 1
  | .fexp2 _ x => x.b.regs 1
  | .flog2 _ x => x.b.regs 1
  | .fsinp _ x => x.b.regs 1
  | .fcosp _ x => x.b.regs 1
  | .fscale _ x => regSpan x.a 1 ++ x.b.regs 1
  | .fclass _ x => regSpan x.b 1
  | .frint _ x => x.b.regs 1
  | .fcvt _ x => regSpan x.a (entrySpan x.es)
  | .ftoi _ x => regSpan x.b 1
  | .itof _ x => x.b.regs 1
  | .dadd _ x => x.a.regs 2 ++ x.b.regs 2
  | .dmul _ x => x.a.regs 2 ++ x.b.regs 2
  | .dfma _ x => x.a.regs 2 ++ x.b.regs 2 ++ regSpan x.d 2
  | .dcmp _ x => x.a.regs 2 ++ x.b.regs 2
  | .hadd2 _ x => x.a.regs 1 ++ regSpan x.b 1
  | .hmul2 _ x => x.a.regs 1 ++ regSpan x.b 1
  | .hfma2 _ x => x.a.regs 1 ++ regSpan x.b 1 ++ regSpan x.d 1
  | .fdot2 _ x => regSpan x.a 1 ++ regSpan x.b 1 ++ regSpan x.d 1
  | .fdot4 _ x => regSpan x.a 1 ++ regSpan x.b 1 ++ regSpan x.d 1
  | .cmul _ x => regSpan x.a 2 ++ regSpan x.b 2 ++ regSpan x.d 2
  | .ld _ x => x.a.regs (addrSpan x.space)
  | .ldAfter _ x => x.a.regs (addrSpan x.space)
  | .st _ x => x.a.regs (addrSpan x.space) ++ regSpan x.d (widthSpan x.width)
  | .ldf _ x => regSpan x.a 2
  | .stf _ x => regSpan x.a 2 ++ regSpan x.d (widthSpan x.width)
  | .pref _ x => x.a.regs 2
  | .cinvD _ x => regSpan x.a 2 ++ x.len.regs 1
  | .cinvI _ x => regSpan x.a 2 ++ x.len.regs 1
  | .cinvIf _ x => regSpan x.a 2 ++ x.len.regs 1
  | .atomAdd _ x => x.a.regs (addrSpan x.space) ++ regSpan x.b (widthSpan x.width)
  | .atomMinS _ x => x.a.regs (addrSpan x.space) ++ regSpan x.b (widthSpan x.width)
  | .atomMinN _ x => x.a.regs (addrSpan x.space) ++ regSpan x.b (widthSpan x.width)
  | .atomMaxS _ x => x.a.regs (addrSpan x.space) ++ regSpan x.b (widthSpan x.width)
  | .atomMaxN _ x => x.a.regs (addrSpan x.space) ++ regSpan x.b (widthSpan x.width)
  | .atomAnd _ x => x.a.regs (addrSpan x.space) ++ regSpan x.b (widthSpan x.width)
  | .atomOr _ x => x.a.regs (addrSpan x.space) ++ regSpan x.b (widthSpan x.width)
  | .atomXor _ x => x.a.regs (addrSpan x.space) ++ regSpan x.b (widthSpan x.width)
  | .atomExch _ x => x.a.regs (addrSpan x.space) ++ regSpan x.b (widthSpan x.width)
  | .atomFadd _ x => x.a.regs (addrSpan x.space) ++ regSpan x.b (widthSpan x.width)
  | .atomFmin _ x => x.a.regs (addrSpan x.space) ++ regSpan x.b (widthSpan x.width)
  | .atomFmax _ x => x.a.regs (addrSpan x.space) ++ regSpan x.b (widthSpan x.width)
  | .atomcas _ x => x.a.regs (addrSpan x.space) ++ regSpan x.b (widthSpan x.width) ++ regSpan x.d (widthSpan x.width)
  | .red _ x => x.a.regs (addrSpan x.space) ++ regSpan x.b (widthSpan x.width)
  | .atombInc _ x => x.a.regs (addrSpan x.space) ++ regSpan x.b 1
  | .atombDec _ x => x.a.regs (addrSpan x.space) ++ regSpan x.b 1
  | .inspT _ x => regSpan x.a 1
  | .inspG _ x => regSpan x.a 1
  | .inspB _ x => regSpan x.a 1
  | .inspA _ x => regSpan x.a (addrSpan x.space) ++ x.len.regs 1
  | .inspS _ _ => []
  | .monitor _ x => x.a.regs (addrSpan x.space)
  | .mwait _ x => x.b.regs 1
  | .barinit _ x => regSpan x.a 1 ++ x.n.regs 1
  | .bara _ x => regSpan x.a 1 ++ x.n.regs 1
  | .barw _ x => regSpan x.a 1 ++ regSpan x.b 1
  | .elide _ x => regSpan x.a 2
  | .elend _ => []
  | .copy _ x => sinkReads x.kind x.d ++ regSpan x.a (endSpan x.ss) ++ regSpan x.b (endSpan x.ds)
  | .kick _ x => sinkReads x.kind x.d ++ regSpan x.a 1 ++ x.n.regs 1
  | .tileh _ x => regSpan x.a 1
  | .tilef _ x => sinkReads x.kind x.d ++ regSpan x.a 1 ++ regSpan x.b 1
  | .cwait _ x => regSpan x.a 2 ++ regSpan x.b 2
  | .fabxWr _ x => sinkReads x.kind x.d ++ regSpan x.a (endSpan x.ss) ++ regSpan x.b 2
  | .fabxRed _ x => sinkReads x.kind x.d ++ regSpan x.a (endSpan x.ss) ++ regSpan x.b 2
  | .mma _ x => sinkReads x.kind x.d ++ regSpan x.a 1
  | .mloadb _ x => sinkReads x.kind x.d ++ regSpan x.a 1 ++ regSpan x.b 1
  | .mread _ x => x.a.regs 1
  | .mwrite _ x => x.a.regs 1 ++ regSpan x.d 1
  | .mzero _ x => x.a.regs 1
  | .qput _ x => regSpan x.a 1
  | .qget _ x => regSpan x.a 1
  | .qcount _ _ => []
  | .msend _ x => regSpan x.a 1 ++ regSpan x.b 1
  | .mpost _ x => regSpan x.a 1 ++ regSpan x.b 1
  | .mtest _ x => regSpan x.a 1
  | .jspawn _ x => regSpan x.a 2 ++ x.b.regs 1
  | .jnext _ _ => []
  | .posti _ x => regSpan x.a 1 ++ regSpan x.b 1
  | .tryAlt _ x => regSpan x.d (x.wlen.toNat + 1)
  | .fail _ => []
  | .cut _ x => x.b.regs 1
  | .mark _ _ => []
  | .steal _ _ => []
  | .trailw _ x => regSpan x.a x.n.toNat
  | .fmtset _ x => sinkReads x.kind x.d ++ regSpan x.a 2
  | .fmtget _ _ => []
  | .movs _ _ => []
  | .movsCycl _ _ => []
  | .movsCych _ _ => []
  | .sets _ x => regSpan x.d (if specIsWide x.idx then 2 else 1)
  | .setsTrb _ d => regSpan d 1
  | .setsFlg _ d => regSpan d 1
  | .setsFrm _ d => regSpan d 1
  | .inspTargetCut _ _ => []
  | .inspComplete _ => []
  | .elideSectionFail _ _ => []
  | .asyncFaultDeliver _ => []
  | .longLatencyComplete _ _ => []
  | .loadBind _ _ => []
  | .storeCheckPass _ => []
  | .psqEntryDrain _ _ => []
  | .drainAgeExpiry _ _ => []
  | .writeThroughPerform _ => []
  | .mergeDemand _ _ => []
  | .mergeReceive _ _ => []
  | .mirrorPropagate _ _ => []
  | .mirrorReplicaAck _ _ => []
  | .translationWalkEnd _ => []
  | .parkedAccessResolved _ _ => []
  | .unscrubbedClear _ => []
  | .watchLossWake _ _ => []
  | .mwaitTimeout _ => []
  | .sleepExpiry _ => []
  | .yieldExpiry _ => []
  | .copyBlock _ _ => []
  | .requestComplete _ => []
  | .kickItemComplete _ _ => []
  | .mloadbComplete _ => []
  | .mmaKBlock _ => []
  | .mmaComplete _ => []
  | .fmtsetComplete _ _ => []
  | .messageArrival _ => []
  | .msendAnswer _ => []
  | .reqNackReceive _ _ => []
  | .backoffExpiry _ => []
  | .causewayFrameReceive _ _ => []
  | .causewayAckReceive _ _ => []
  | .causewayResendTimeout _ => []
  | .connectionOpen _ _ _ => []
  | .mergedResultDeliver _ _ => []
  | .reductionAck _ _ => []
  | .windowAbort _ _ => []
  | .cancelTakeEffect _ => []
  | .cardAdmit _ => []
  | .jobWaitReevaluate _ => []
  | .jobStart _ => []
  | .gangPlace _ _ _ => []
  | .bandPlace _ _ => []
  | .gangRetire _ => []
  | .jobSinkWrite _ => []
  | .budgetPeriodRefill _ => []
  | .timeSliceExpiry _ _ => []
  | .preempt _ _ => []
  | .preemptStep3Bound _ => []
  | .resume _ => []
  | .waitForWalk _ => []
  | .breakWait _ => []
  | .pagePurge _ _ _ => []
  | .remapRegister _ _ => []
  | .keySlotLoad _ _ => []
  | .partitionCreate _ _ _ => []
  | .partitionDestroy _ => []
  | .replicaHoldSet _ _ _ _ => []
  | .replicaHoldRelease _ _ => []
  | .debugStop _ => []
  | .singleStep _ _ => []
  | .packageReset _ => []
  | .bringUpEnd => []
  | .islePowerChange _ _ => []
  | .dieOvertemp _ => []
  | .dramOvertemp _ => []
  | .telemetryRefresh _ => []
  | .usageRecordEmit _ _ => []
  | .scrub _ _ => []
  | .dieWarmReset _ _ => []
  | .foreignProbeRefuse _ _ _ _ _ => []
  | .svcReply _ _ => []
  | .stallingInstructionComplete _ => []
  | .debugRelease _ => []
  | .debugStopEnable _ _ => []
  | .debugStateWrite _ _ => []
  | .dieTempRecover _ => []
  | .dramTempRecover _ => []
  | .streamDescriptorWrite _ _ => []
  | .runtimeThreadRegister _ _ _ _ => []
  | .pteInstall _ _ _ => []
  | .macsecKeyLoad _ _ => []
  | .runtimeCardPlace _ _ _ _ => []

/-- The registers an instruction writes. -/
def Instr.writes : Instr → List Nat
  | .nop _ => []
  | .bra _ _ => []
  | .brx _ _ => []
  | .brt _ _ => []
  | .call _ _ => []
  | .callx _ _ => []
  | .ret _ => []
  | .exit _ => []
  | .split _ _ => []
  | .join _ => []
  | .yield _ _ => []
  | .sleep _ _ => []
  | .trap _ _ => []
  | .iret _ _ => []
  | .bkpt _ _ => []
  | .svc _ x => regSpan x.d 1
  | .add _ x => regSpan x.d 1
  | .sub _ x => regSpan x.d 1
  | .mul _ x => regSpan x.d 1
  | .mulh _ x => regSpan x.d 1
  | .mad _ x => regSpan x.d 1
  | .madw _ x => regSpan x.d 2
  | .div _ x => regSpan x.d 1
  | .rem _ x => regSpan x.d 1
  | .min _ x => regSpan x.d 1
  | .max _ x => regSpan x.d 1
  | .abs _ x => regSpan x.d 1
  | .neg _ x => regSpan x.d 1
  | .addc _ x => regSpan x.d 1
  | .lea _ x => regSpan x.d 2
  | .add64 _ x => regSpan x.d 2
  | .sub64 _ x => regSpan x.d 2
  | .and _ x => regSpan x.d 1
  | .or _ x => regSpan x.d 1
  | .xor _ x => regSpan x.d 1
  | .andn _ x => regSpan x.d 1
  | .shl _ x => regSpan x.d 1
  | .shr _ x => regSpan x.d 1
  | .sar _ x => regSpan x.d 1
  | .rotl _ x => regSpan x.d 1
  | .clz _ x => regSpan x.d 1
  | .popc _ x => regSpan x.d 1
  | .brev _ x => regSpan x.d 1
  | .bfx _ x => regSpan x.d 1
  | .bfi _ x => regSpan x.d 1
  | .prmb _ x => regSpan x.d 1
  | .mov _ x => regSpan x.d 1
  | .sel _ x => regSpan x.d 1
  | .icmp _ _ => []
  | .plop _ _ => []
  | .p2g _ x => regSpan x.d 1
  | .g2p _ _ => []
  | .shflIdx _ x => regSpan x.d 1
  | .shflUp _ x => regSpan x.d 1
  | .shflDown _ x => regSpan x.d 1
  | .shflXor _ x => regSpan x.d 1
  | .voteAll _ _ => []
  | .voteAny _ _ => []
  | .voteBallot _ x => regSpan x.d 1
  | .voteCount _ x => regSpan x.d 1
  | .cred _ _ x => regSpan x.d 1
  | .cscan _ x => regSpan x.d 1
  | .matchLanes _ x => regSpan x.d 1
  | .elect _ _ => []
  | .fadd _ x => regSpan x.d 1
  | .fsub _ x => regSpan x.d 1
  | .fmul _ x => regSpan x.d 1
  | .fma _ x => regSpan x.d 1
  | .fmin _ x => regSpan x.d 1
  | .fmax _ x => regSpan x.d 1
  | .fcmp _ _ => []
  | .fdiv _ x => regSpan x.d 1
  | .frcp _ x => regSpan x.d 1
  | .frsq _ x => regSpan x.d 1
  | .fsqrt _ x => regSpan x.d 1
  | .fexp2 _ x => regSpan x.d 1
  | .flog2 _ x => regSpan x.d 1
  | .fsinp _ x => regSpan x.d 1
  | .fcosp _ x => regSpan x.d 1
  | .fscale _ x => regSpan x.d 1
  | .fclass _ x => regSpan x.d 1
  | .frint _ x => regSpan x.d 1
  | .fcvt _ x => regSpan x.d (entrySpan x.ed)
  | .ftoi _ x => regSpan x.d 1
  | .itof _ x => regSpan x.d 1
  | .dadd _ x => regSpan x.d 2
  | .dmul _ x => regSpan x.d 2
  | .dfma _ x => regSpan x.d 2
  | .dcmp _ _ => []
  | .hadd2 _ x => regSpan x.d 1
  | .hmul2 _ x => regSpan x.d 1
  | .hfma2 _ x => regSpan x.d 1
  | .fdot2 _ x => regSpan x.d 1
  | .fdot4 _ x => regSpan x.d 1
  | .cmul _ x => regSpan x.d 2
  | .ld _ x => regSpan x.d (widthSpan x.width)
  | .ldAfter _ x => regSpan x.d (widthSpan x.width)
  | .st _ _ => []
  | .ldf _ x => regSpan x.d (widthSpan x.width)
  | .stf _ _ => []
  | .pref _ _ => []
  | .cinvD _ _ => []
  | .cinvI _ _ => []
  | .cinvIf _ _ => []
  | .atomAdd _ x => regSpan x.d (widthSpan x.width)
  | .atomMinS _ x => regSpan x.d (widthSpan x.width)
  | .atomMinN _ x => regSpan x.d (widthSpan x.width)
  | .atomMaxS _ x => regSpan x.d (widthSpan x.width)
  | .atomMaxN _ x => regSpan x.d (widthSpan x.width)
  | .atomAnd _ x => regSpan x.d (widthSpan x.width)
  | .atomOr _ x => regSpan x.d (widthSpan x.width)
  | .atomXor _ x => regSpan x.d (widthSpan x.width)
  | .atomExch _ x => regSpan x.d (widthSpan x.width)
  | .atomFadd _ x => regSpan x.d (widthSpan x.width)
  | .atomFmin _ x => regSpan x.d (widthSpan x.width)
  | .atomFmax _ x => regSpan x.d (widthSpan x.width)
  | .atomcas _ x => regSpan x.d (widthSpan x.width)
  | .red _ _ => []
  | .atombInc _ x => regSpan x.d 1
  | .atombDec _ x => regSpan x.d 1
  | .inspT _ x => regSpan x.d 1
  | .inspG _ x => regSpan x.d 1
  | .inspB _ x => regSpan x.d 1
  | .inspA _ x => regSpan x.d 1
  | .inspS _ x => regSpan x.d 1
  | .monitor _ _ => []
  | .mwait _ x => regSpan x.d 1
  | .barinit _ _ => []
  | .bara _ x => regSpan x.d 1
  | .barw _ x => regSpan x.d 1
  | .elide _ x => regSpan x.d 1
  | .elend _ => []
  | .copy _ x => sinkWrites x.kind x.d
  | .kick _ x => sinkWrites x.kind x.d
  | .tileh _ _ => []
  | .tilef _ x => sinkWrites x.kind x.d
  | .cwait _ x => regSpan x.d 2
  | .fabxWr _ x => sinkWrites x.kind x.d
  | .fabxRed _ x => sinkWrites x.kind x.d
  | .mma _ x => sinkWrites x.kind x.d
  | .mloadb _ x => sinkWrites x.kind x.d
  | .mread _ x => regSpan x.d 1
  | .mwrite _ _ => []
  | .mzero _ _ => []
  | .qput _ x => regSpan x.d 1
  | .qget _ x => regSpan x.d 1
  | .qcount _ x => regSpan x.d 1
  | .msend _ x => regSpan x.d 1
  | .mpost _ x => regSpan x.d 1
  | .mtest _ x => regSpan x.d 2
  | .jspawn _ x => regSpan x.d 1
  | .jnext _ x => regSpan x.d 2
  | .posti _ x => regSpan x.d 1
  | .tryAlt _ _ => []
  | .fail _ => []
  | .cut _ _ => []
  | .mark _ x => regSpan x.d 1
  | .steal _ x => regSpan x.d 1
  | .trailw _ _ => []
  | .fmtset _ x => sinkWrites x.kind x.d
  | .fmtget _ x => regSpan x.d 2
  | .movs _ x => regSpan x.d (if specIsWide x.idx then 2 else 1)
  | .movsCycl _ d => regSpan d 1
  | .movsCych _ d => regSpan d 1
  | .sets _ _ => []
  | .setsTrb _ _ => []
  | .setsFlg _ _ => []
  | .setsFrm _ _ => []
  | .inspTargetCut _ _ => []
  | .inspComplete _ => []
  | .elideSectionFail _ _ => []
  | .asyncFaultDeliver _ => []
  | .longLatencyComplete _ _ => []
  | .loadBind _ _ => []
  | .storeCheckPass _ => []
  | .psqEntryDrain _ _ => []
  | .drainAgeExpiry _ _ => []
  | .writeThroughPerform _ => []
  | .mergeDemand _ _ => []
  | .mergeReceive _ _ => []
  | .mirrorPropagate _ _ => []
  | .mirrorReplicaAck _ _ => []
  | .translationWalkEnd _ => []
  | .parkedAccessResolved _ _ => []
  | .unscrubbedClear _ => []
  | .watchLossWake _ _ => []
  | .mwaitTimeout _ => []
  | .sleepExpiry _ => []
  | .yieldExpiry _ => []
  | .copyBlock _ _ => []
  | .requestComplete _ => []
  | .kickItemComplete _ _ => []
  | .mloadbComplete _ => []
  | .mmaKBlock _ => []
  | .mmaComplete _ => []
  | .fmtsetComplete _ _ => []
  | .messageArrival _ => []
  | .msendAnswer _ => []
  | .reqNackReceive _ _ => []
  | .backoffExpiry _ => []
  | .causewayFrameReceive _ _ => []
  | .causewayAckReceive _ _ => []
  | .causewayResendTimeout _ => []
  | .connectionOpen _ _ _ => []
  | .mergedResultDeliver _ _ => []
  | .reductionAck _ _ => []
  | .windowAbort _ _ => []
  | .cancelTakeEffect _ => []
  | .cardAdmit _ => []
  | .jobWaitReevaluate _ => []
  | .jobStart _ => []
  | .gangPlace _ _ _ => []
  | .bandPlace _ _ => []
  | .gangRetire _ => []
  | .jobSinkWrite _ => []
  | .budgetPeriodRefill _ => []
  | .timeSliceExpiry _ _ => []
  | .preempt _ _ => []
  | .preemptStep3Bound _ => []
  | .resume _ => []
  | .waitForWalk _ => []
  | .breakWait _ => []
  | .pagePurge _ _ _ => []
  | .remapRegister _ _ => []
  | .keySlotLoad _ _ => []
  | .partitionCreate _ _ _ => []
  | .partitionDestroy _ => []
  | .replicaHoldSet _ _ _ _ => []
  | .replicaHoldRelease _ _ => []
  | .debugStop _ => []
  | .singleStep _ _ => []
  | .packageReset _ => []
  | .bringUpEnd => []
  | .islePowerChange _ _ => []
  | .dieOvertemp _ => []
  | .dramOvertemp _ => []
  | .telemetryRefresh _ => []
  | .usageRecordEmit _ _ => []
  | .scrub _ _ => []
  | .dieWarmReset _ _ => []
  | .foreignProbeRefuse _ _ _ _ _ => []
  | .svcReply _ _ => []
  | .stallingInstructionComplete _ => []
  | .debugRelease _ => []
  | .debugStopEnable _ _ => []
  | .debugStateWrite _ _ => []
  | .dieTempRecover _ => []
  | .dramTempRecover _ => []
  | .streamDescriptorWrite _ _ => []
  | .runtimeThreadRegister _ _ _ _ => []
  | .pteInstall _ _ _ => []
  | .macsecKeyLoad _ _ => []
  | .runtimeCardPlace _ _ _ _ => []

/-- The predicates of a mask. -/
def maskPreds (m : BitVec 7) : List (BitVec 3) :=
  (List.range 7).filterMap fun i => if m.getLsbD i then some (BitVec.ofNat 3 i) else none

/-- The predicates an instruction reads, its guard apart. -/
def Instr.predReads : Instr → List (BitVec 3)
  | .sel _ x => [x.p]
  | .plop _ x => [x.pa, x.pb, x.pc]
  | .p2g _ _ => maskPreds 127#7
  | .voteAll _ x => [x.pa]
  | .voteAny _ x => [x.pa]
  | .voteBallot _ x => [x.pa]
  | .voteCount _ x => [x.pa]
  | _ => []

/-- The predicates an instruction writes. -/
def Instr.predWrites : Instr → List (BitVec 3)
  | .icmp _ x => [x.p]
  | .plop _ x => [x.p]
  | .g2p _ x => maskPreds x.mask
  | .voteAll _ x => [x.p]
  | .voteAny _ x => [x.p]
  | .elect _ x => [x.p]
  | .fcmp _ x => [x.p]
  | .dcmp _ x => [x.p]
  | _ => []

/-- How many registers the A operand spans; 0 where A names a predicate (Table 23-2). -/
def Instr.aSpan : Instr → Nat
  | .lea _ _ => 2
  | .add64 _ _ => 2
  | .sub64 _ _ => 2
  | .plop _ _ => 0
  | .voteAll _ _ => 0
  | .voteAny _ _ => 0
  | .voteBallot _ _ => 0
  | .voteCount _ _ => 0
  | .fcvt _ x => entrySpan x.es
  | .dadd _ _ => 2
  | .dmul _ _ => 2
  | .dfma _ _ => 2
  | .dcmp _ _ => 2
  | .cmul _ _ => 2
  | .ld _ x => addrSpan x.space
  | .ldAfter _ x => addrSpan x.space
  | .st _ x => addrSpan x.space
  | .ldf _ _ => 2
  | .stf _ _ => 2
  | .pref _ _ => 2
  | .cinvD _ _ => 2
  | .cinvI _ _ => 2
  | .cinvIf _ _ => 2
  | .atomAdd _ x => addrSpan x.space
  | .atomMinS _ x => addrSpan x.space
  | .atomMinN _ x => addrSpan x.space
  | .atomMaxS _ x => addrSpan x.space
  | .atomMaxN _ x => addrSpan x.space
  | .atomAnd _ x => addrSpan x.space
  | .atomOr _ x => addrSpan x.space
  | .atomXor _ x => addrSpan x.space
  | .atomExch _ x => addrSpan x.space
  | .atomFadd _ x => addrSpan x.space
  | .atomFmin _ x => addrSpan x.space
  | .atomFmax _ x => addrSpan x.space
  | .atomcas _ x => addrSpan x.space
  | .red _ x => addrSpan x.space
  | .atombInc _ x => addrSpan x.space
  | .atombDec _ x => addrSpan x.space
  | .inspA _ x => addrSpan x.space
  | .monitor _ x => addrSpan x.space
  | .elide _ _ => 2
  | .copy _ _ => 2
  | .cwait _ _ => 2
  | .fabxWr _ _ => 2
  | .fabxRed _ _ => 2
  | .jspawn _ _ => 2
  | .fmtset _ _ => 2
  | _ => 1

/-- How the B operand is read: its registers, and what an immediate becomes (R124). -/
inductive BForm where
  | pred
  | span (n : Nat)
  | signed
  | widened
  deriving DecidableEq, Repr

def Instr.bForm : Instr → BForm
  | .brx _ _ => .span 2
  | .callx _ _ => .span 2
  | .iret _ _ => .signed
  | .add64 _ _ => .signed
  | .sub64 _ _ => .signed
  | .plop _ _ => .pred
  | .dadd _ _ => .widened
  | .dmul _ _ => .widened
  | .dfma _ _ => .widened
  | .dcmp _ _ => .widened
  | .cmul _ _ => .span 2
  | .atomAdd _ x => .span (widthSpan x.width)
  | .atomMinS _ x => .span (widthSpan x.width)
  | .atomMinN _ x => .span (widthSpan x.width)
  | .atomMaxS _ x => .span (widthSpan x.width)
  | .atomMaxN _ x => .span (widthSpan x.width)
  | .atomAnd _ x => .span (widthSpan x.width)
  | .atomOr _ x => .span (widthSpan x.width)
  | .atomXor _ x => .span (widthSpan x.width)
  | .atomExch _ x => .span (widthSpan x.width)
  | .atomFadd _ x => .span (widthSpan x.width)
  | .atomFmin _ x => .span (widthSpan x.width)
  | .atomFmax _ x => .span (widthSpan x.width)
  | .atomcas _ x => .span (widthSpan x.width)
  | .red _ x => .span (widthSpan x.width)
  | .copy _ _ => .span 2
  | .cwait _ _ => .span 2
  | .fabxWr _ _ => .span 2
  | .fabxRed _ _ => .span 2
  | _ => .span 1

/-- Bytes of a width (R131). -/
def Width.bytes : Width → Nat
  | .w8 => 1
  | .w16 => 2
  | .w32 => 4
  | .w64 => 8
  | .w128 => 16

end Sys2Proof

namespace Sys2Proof.Machine

/-! ## Reading operands -/

/-- ReadA at 32 bits (R124). -/
def Thread.a32 (th : Thread) : SrcA → Word
  | .reg r => th.reg r.toNat
  | .zero => 0#32

/-- ReadA at 64 bits (R124). -/
def Thread.a64 (th : Thread) : SrcA → DWord
  | .reg r => th.pair r.toNat
  | .zero => 0#64

/-- ReadB at 32 bits (R124). -/
def Thread.b32 (th : Thread) : SrcB → Word
  | .reg r => th.reg r.toNat
  | .imm v => v

/-- ReadB of a 64-bit integer operand (R124). -/
def Thread.b64 (th : Thread) : SrcB → DWord
  | .reg r => th.pair r.toNat
  | .imm v => v.signExtend 64

/-- Widen64 (R124): the FP64 form of FP32 bits, exact; a NaN keeps its sign and its kind. -/
def widen64 (v : Word) : DWord :=
  let s := natBits v.toNat 31 1
  let e := natBits v.toNat 23 8
  let f := natBits v.toNat 0 23
  if e = 255 then BitVec.ofNat 64 (2 ^ 63 * s + 2 ^ 52 * 2047 + 2 ^ 29 * f)
  else if e = 0 then
    if f = 0 then BitVec.ofNat 64 (2 ^ 63 * s)
    else
      let k := Nat.log2 f
      BitVec.ofNat 64 (2 ^ 63 * s + 2 ^ 52 * (k + 874) + (f - 2 ^ k) * 2 ^ (52 - k))
  else BitVec.ofNat 64 (2 ^ 63 * s + 2 ^ 52 * (e + 896) + 2 ^ 29 * f)

/-- ReadB of an FP64 operand (R124). -/
def Thread.bFp64 (th : Thread) : SrcB → DWord
  | .reg r => th.pair r.toNat
  | .imm v => widen64 v

/-- A data operand of a width: one register, a pair, or a quad (R185). -/
def Thread.data (th : Thread) (w : Width) (r : Reg) : BitVec 128 :=
  match w with
  | .w64 => (th.pair r.toNat).setWidth 128
  | .w128 => (th.pair r.toNat).setWidth 128 ||| ((th.pair (r.toNat + 2)).setWidth 128 <<< 64)
  | _ => (th.reg r.toNat).setWidth 128

/-- A value of a width written to its registers, zero-extended to 32 bits (R185). -/
def dataWrites (w : Width) (r : Reg) (v : BitVec 128) : List (Nat × Word) :=
  match w with
  | .w8 => [(r.toNat, (v.setWidth 8).setWidth 32)]
  | .w16 => [(r.toNat, (v.setWidth 16).setWidth 32)]
  | .w32 => [(r.toNat, v.setWidth 32)]
  | .w64 => [(r.toNat, v.setWidth 32), (r.toNat + 1, (v >>> 32).setWidth 32)]
  | .w128 => [(r.toNat, v.setWidth 32), (r.toNat + 1, (v >>> 32).setWidth 32),
              (r.toNat + 2, (v >>> 64).setWidth 32), (r.toNat + 3, (v >>> 96).setWidth 32)]

/-- FOPA of a decoded instruction: ReadA at its width (Table 23-2). -/
def Thread.fopa (th : Thread) (i : Instr) (y : Body) : DWord :=
  if i.aSpan = 0 then BitVec.ofNat 64 (bit (th.pred (slice y.a 0 3)))
  else if bitOf y.sel 1 then 0#64
  else if i.aSpan = 1 then (th.reg y.a.toNat).setWidth 64
  else th.pair y.a.toNat

/-- FOPB of a decoded instruction: ReadB at its width (Table 23-2). -/
def Thread.fopb (th : Thread) (i : Instr) (y : Body) : DWord :=
  match i.bForm with
  | .pred => BitVec.ofNat 64 (bit (th.pred (slice y.b 0 3)))
  | .span n =>
    if bitOf y.sel 0 then y.imm.setWidth 64
    else if n = 1 then (th.reg y.b.toNat).setWidth 64 else th.pair y.b.toNat
  | .signed => if bitOf y.sel 0 then y.imm.signExtend 64 else th.pair y.b.toNat
  | .widened => if bitOf y.sel 0 then widen64 y.imm else th.pair y.b.toNat

/-- FOPA and FOPB where steps 1 to 3 of R136 fail: the registers that A and B name, zero where the index is not
below the register count (Table 23-2). -/
def Thread.rawOperand (th : Thread) (rc : Nat) (r : Reg) : DWord :=
  if r.toNat < rc then (th.reg r.toNat).setWidth 64 else 0#64

/-! ## One instruction for every member of its group -/

/-- ABSENT_UNIT at step 4 of R136, with FINFO the CAPS bit, or 8 for a bring-up limit (R10, R177, R180, R220,
R317, R361). The complex MMA is checked with its block (R227). -/
def absentUnit (caps : Word) (bring : Bool) : Instr → Option FaultInfo
  | .dadd _ _ | .dmul _ _ | .dfma _ _ | .dcmp _ _ =>
    if bitOf caps 0 then none else some (infoFault Code.absentUnit 0)
  | .cmul _ _ => if bitOf caps 1 then none else some (infoFault Code.absentUnit 1)
  | .fabxRed _ _ =>
    if !bitOf caps 3 then some (infoFault Code.absentUnit 3)
    else if bring then some (infoFault Code.absentUnit 8) else none
  | .fabxWr _ _ | .fmtset _ _ => if bring then some (infoFault Code.absentUnit 8) else none
  | _ => none

/-- A fault of a decoded instruction, with the decoded fields of its word (R360). -/
def faultOf (th : Thread) (i : Instr) (iss : Issue) (e : FaultInfo) : FaultRec :=
  let y := (Fields.ofWord iss.word).body
  { code := e.code, async := false, info := e.info, addr := e.addr, pc := iss.pc, word := iss.word,
    decoded := true, opa := th.fopa i y, opb := th.fopb i y }

/-- A fault of an instruction that has issued earlier, found later on: its own PC and word, with the values of A and B that
it issued with (R360, R385). -/
def lateFault (pc : Addr56) (word : BitVec 96) (a b : DWord) (e : FaultInfo) : FaultRec :=
  { code := e.code, async := false, info := e.info, addr := e.addr, pc := pc, word := word, decoded := true, opa := a, opb := b }

/-- A fault of the instruction that a thread issued last. -/
def Thread.lastFault (th : Thread) (pc : Addr56) (e : FaultInfo) : FaultRec := lateFault pc th.last th.opa th.opb e

/-- The checks that precede an instruction's own: the absent unit (R136 step 4), then poison on an operand
register (R385, FINFO 2). -/
def precheck (s : State) (t : Nat) (th : Thread) (i : Instr) : Option FaultInfo :=
  match absentUnit s.caps (s.part (s.partOf t)).bring i with
  | some e => some e
  | none => if i.reads.any th.poison.contains then some (infoFault Code.poison 2) else none

/-- A completed token read as a source value is consumed, with the effect of INSP.s (R108, R213). -/
def State.consumeTokens (s : State) (t : Nat) (i : Instr) : State :=
  match s.thread t with
  | none => s
  | some th =>
    let used := th.tokens.filter fun p => i.reads.contains p.1 && p.2 == Token.done
    let gone := (i.reads ++ i.writes)
    if used.isEmpty && !(th.tokens.any fun p => gone.contains p.1 && p.2 == Token.done) then s
    else
      let s := s.setThread t { th with
        tokens := th.tokens.filter fun p => !(gone.contains p.1 && p.2 == Token.done) }
      if used.isEmpty then s else (used.foldl (fun (s : State) p => s.observeToken t p.1) s).inspSelf t

/-- KEEP (R126): the value read for A or B is kept, where it comes from a register. -/
def Thread.keepOperand (th : Thread) (h : Hdr) (y : Body) : Thread :=
  match h.keep with
  | .none => th
  | .keepA =>
    if bitOf y.sel 1 then th
    else { th with marks := { th.marks with keepA := some { reg := y.a, value := (th.reg y.a.toNat).setWidth 64 } } }
  | .keepB =>
    if bitOf y.sel 0 then th
    else { th with marks := { th.marks with keepA := some { reg := y.b, value := (th.reg y.b.toNat).setWidth 64 } } }

/-- The address of the next instruction (R133). -/
def nextPc (pc : Addr56) : Addr56 := pc + 12#56

/-- What an address fault writes to the error log: a refused key, or an unregistered synonym (Table 25-2). -/
def State.logFault (s : State) (t : Nat) (e : FaultInfo) : State :=
  let part := s.partOf t
  let fe : Agent := .frontEnd ((s.part part).frontEnd (s.asidOf t) e.addr.toNat)
  if e.code = Code.access ∧ e.info = 4#32 then s.log 0x07 fe (some part) e.addr.toNat 0
  else if e.code = Code.synonym then s.log 0x06 fe (some part) e.addr.toNat 0
  else s

/-- One thread's part of its group's instruction: marks and windows, the guard, the checks of R136 from step 4
on, and the effect, with the PC already at the next instruction. A thread that fetches from the loop buffer is in
a run (R324). A check that fails changes nothing but the marks of issue, and delivers the fault (R357, R358). -/
def runLane (i : Instr) (iss : Issue) (f : Addr56 → State → Nat → LaneRes) (s : State) (t : Nat) : State :=
  match s.thread t with
  | none => s
  | some th =>
    let h := headerOf iss.word
    let run := th.marks.inRun || s.inLoop t iss.pc
    let y := (Fields.ofWord iss.word).body
    let th0 := { th.issued h with last := iss.word, opa := th.fopa i y, opb := th.fopb i y }
    let th1 := { th0 with pc := nextPc iss.pc, hold := .none, marks := { th0.marks with inRun := run } }
    if th.guard h = false then s.setThread t th1
    else
      match precheck s t th i with
      | some e => (s.setThread t th0).deliverFault t (faultOf th i iss e)
      | none =>
        let s1 := (s.setThread t (th1.keepOperand h y)).consumeTokens t i
        match f iss.pc s1 t with
        | .ok s2 => s2
        | .fault e => ((s.setThread t th0).logFault t e).deliverFault t (faultOf th i iss e)
        | .stall => s.modThread t fun th => { th with hold := .none }

/-- An instruction whose members act one by one, in lane order (R211, R229, R358). Outside an issue group it
changes nothing. -/
def perThread (i : Instr) (f : Addr56 → State → Nat → LaneRes) (s : State) :
    Host.Outcome State Fault Refusal :=
  match s.sched.issue with
  | none => .next s
  | some iss => .next (iss.members.foldl (runLane i iss f) s)

/-- A member put behind those whose key is not above its own. -/
def insertBy (key : Nat → Nat) (t : Nat) : List Nat → List Nat
  | [] => [t]
  | u :: us => if key u ≤ key t then u :: insertBy key t us else t :: u :: us

/-- An instruction whose members act in the increasing order of their gang handles, each gang's in lane order (R33). -/
def perGang (i : Instr) (f : Addr56 → State → Nat → LaneRes) (s : State) : Host.Outcome State Fault Refusal :=
  match s.sched.issue with
  | none => .next s
  | some iss =>
    let gang (t : Nat) : Nat := ((s.thread t).map (·.gang)).getD 0
    .next ((iss.members.foldl (fun ts t => insertBy gang t ts) []).foldl (runLane i iss f) s)

/-- An effect on the thread alone. -/
def threadOnly (f : Thread → Thread) : Addr56 → State → Nat → LaneRes :=
  fun _ s t => .ok (s.modThread t f)

end Sys2Proof.Machine
end

