-- ==== Sys2Proof/Machine/Flags.lean ====
section
/-! DEFINITION. The sticky flags of FLG (R81) and the flag rules of the integer instructions (R149). The rules
of the floating-point flags stand beside their encodings in FpCore. -/

namespace Sys2Proof.Machine

namespace Flag
def invalid : Nat := 1
def divzero : Nat := 2
def overflow : Nat := 4
def underflow : Nat := 8
def inexact : Nat := 16
def saturated : Nat := 32
end Flag

/-- A value with the flags its computation raises. -/
structure Flagged (α : Type) where
  val   : α
  flags : Nat
  deriving DecidableEq, Repr

/-- The union of two flag sets. -/
def orFlags (a b : Nat) : Nat := a ||| b

/-- X(v): the operand read under TY (R149). -/
def readTy (ty : IntTy) (v : Word) : Int :=
  match ty with
  | .s32 => sval v
  | .n32 => (uval v : Int)

/-- Fit(v): the value clamped to the range of TY (R149). -/
def fitInt (ty : IntTy) (v : Int) : Int :=
  match ty with
  | .s32 => max (-2147483648) (min v 2147483647)
  | .n32 => max 0 (min v 4294967295)

/-- Res(v): wrapped, or clamped with SATURATED where the clamp changed the value (R149). -/
def resInt (ty : IntTy) (sat : Bool) (v : Int) : Flagged Word :=
  if sat then
    { val := wrap32 (fitInt ty v), flags := if fitInt ty v = v then 0 else Flag.saturated }
  else { val := wrap32 v, flags := 0 }

/-- A flagged result written to a register, its flags raised. -/
def Thread.putFlagged (th : Thread) (r : Reg) (x : Flagged Word) : Thread :=
  (th.setReg r.toNat x.val).raise x.flags

/-- A flagged result written to a pair, its flags raised. -/
def Thread.putFlaggedPair (th : Thread) (r : Reg) (x : Flagged DWord) : Thread :=
  (th.setPair r.toNat x.val).raise x.flags

/-- Integer comparison under CC (R131, R154). -/
def ccHolds (cc : Cc) (a b : Int) : Bool :=
  match cc with
  | .eq => decide (a = b)
  | .ne => decide (a ≠ b)
  | .lt => decide (a < b)
  | .le => decide (a ≤ b)
  | .gt => decide (a > b)
  | .ge => decide (a ≥ b)

end Sys2Proof.Machine
end

