-- ==== Sys2Proof/Machine/FpCore.lean ====
section
/-! DEFINITION. The format table and exact arithmetic: entries (R67 to R71), decoding (R72, R73), rounding (R75),
encoding (R77 to R79), conversion (R80), the sum of exact terms with one rounding (R83, R167, R168) and the block
sums of the matrix engine (R84, R85). -/

namespace Sys2Proof.Machine

/-! ## Entries -/

/-- The fields of an entry image (Table 4-1). -/
structure Entry where
  v    : Bool
  s    : Bool
  ew   : Nat
  fw   : Nat
  bias : Int
  spec : Nat
  sub  : Bool
  blk  : Nat
  xw   : Nat
  rnd  : Nat
  ovf  : Nat
  rest : Nat
  deriving DecidableEq, Repr

def entryOf (image : DWord) : Entry :=
  let n := image.toNat
  { v := bitOf image 0, s := bitOf image 1, ew := natBits n 2 4, fw := natBits n 6 6,
    bias := (slice image 12 12).toInt, spec := natBits n 24 3, sub := bitOf image 27, blk := natBits n 28 2,
    xw := natBits n 30 4, rnd := natBits n 34 3, ovf := natBits n 37 2, rest := natBits n 39 25 }

/-- The images of entries 0 to 7 (Table 4-4). -/
def fixedImage (n : Nat) : DWord :=
  match n with
  | 0 => 0x000000200807F5E3#64
  | 1 => 0x000000200807F1E3#64
  | 2 => 0x000000200800F297#64
  | 3 => 0x00000020083FFD2F#64
  | 4 => 0x00000000040001C3#64
  | 5 => 0x00000000040003C3#64
  | 6 => 0x00000000040007C3#64
  | _ => 0x00000000090070D3#64

/-- Entry 0: FP32. -/
def fp32 : Entry := entryOf (fixedImage 0)

/-- Entry 3: FP64. -/
def fp64 : Entry := entryOf (fixedImage 3)

/-- INT(TY) of R176: entry 6, or the fixed unsigned entry that is not in the table. -/
def intEntry (ty : IntTy) : Entry :=
  match ty with
  | .s32 => entryOf (fixedImage 6)
  | .n32 => { v := true, s := false, ew := 0, fw := 32, bias := 0, spec := 4, sub := false, blk := 0, xw := 0,
              rnd := 0, ovf := 0, rest := 0 }

/-- The element width: S + EW + FW, or FW + 2 for BFP2 (R68). -/
def Entry.width (e : Entry) : Nat := if e.blk = 1 then e.fw + 2 else bit e.s + e.ew + e.fw

/-- An integer entry (R69). -/
def Entry.isInt (e : Entry) : Bool := e.blk == 0 && e.ew == 0

/-- A float entry (R69). -/
def Entry.isFloat (e : Entry) : Bool := e.blk == 0 && e.ew != 0

/-- The conditions of Table 4-2 on an image with V = 1 (R69). -/
def Entry.legal (e : Entry) : Bool :=
  let w := e.width
  e.rest == 0 && decide (e.spec ≤ 5) && decide (e.blk ≤ 1) && e.rnd != 5 && e.rnd != 6 && decide (e.ovf ≤ 2)
    && decide (e.ew ≤ 11) && decide (e.fw ≤ 52) && decide (1 ≤ w ∧ w ≤ 32)
    && (if e.blk = 1 then
          e.s && e.ew == 0 && e.spec == 3 && decide (1 ≤ e.fw ∧ e.fw ≤ 13) && decide (4 ≤ e.xw ∧ e.xw ≤ 8)
        else if e.ew = 0 then
          (e.spec == 4 || (e.spec == 5 && e.s && decide (2 ≤ w))) && e.xw == 0
        else decide (e.spec ≤ 3) && (e.spec != 0 || decide (2 ≤ e.ew)) && (e.spec != 2 || e.s) && e.xw == 0)

def Entry.hasInf (e : Entry) : Bool := e.spec == 0

/-- HasNaN (Table 4-3): the IEEE policy has none when FW = 0. -/
def Entry.hasNan (e : Entry) : Bool := (e.spec == 0 && e.fw != 0) || e.spec == 1 || e.spec == 2

/-- A float pattern. -/
def Entry.pack (e : Entry) (s : Bool) (ex fr : Nat) : Nat :=
  (if s && e.s then 2 ^ (e.width - 1) else 0) + ex * 2 ^ e.fw + fr

/-- The canonical NaN (Table 4-3). -/
def Entry.nan (e : Entry) : Nat :=
  if e.spec = 2 then 2 ^ (e.width - 1)
  else if e.spec = 1 then e.pack false (2 ^ e.ew - 1) (2 ^ e.fw - 1)
  else e.pack false (2 ^ e.ew - 1) (2 ^ (e.fw - 1))

/-- The infinity pattern of a sign. -/
def Entry.infPattern (e : Entry) (s : Bool) : Nat := e.pack s (2 ^ e.ew - 1) 0

/-- The largest finite pattern of a sign (Table 4-3). -/
def Entry.maxPattern (e : Entry) (s : Bool) : Nat :=
  let top := 2 ^ e.ew - 1
  if e.spec = 0 then e.pack s (top - 1) (2 ^ e.fw - 1)
  else if e.spec = 1 then
    if e.fw = 0 then e.pack s (top - 1) 0 else e.pack s top (2 ^ e.fw - 2)
  else e.pack s top (2 ^ e.fw - 1)

/-- Zero(E, s) (R77). -/
def Entry.zero (e : Entry) (s : Bool) : Nat := if s && e.s && e.spec != 2 && e.ew != 0 then 2 ^ (e.width - 1) else 0

/-! ## Values -/

/-- A decoded value (R72): a NaN with its kind, an infinity, or (-1)^s m 2^q exactly. -/
inductive Val where
  | nan (signalling : Bool)
  | inf (s : Bool)
  | fin (s : Bool) (m : Nat) (q : Int)
  deriving DecidableEq, Repr

def Val.isNan : Val → Bool
  | .nan _ => true
  | _ => false

def Val.signals : Val → Bool
  | .nan g => g
  | _ => false

def Val.isZero : Val → Bool
  | .fin _ m _ => m == 0
  | _ => false

def Val.isInf : Val → Bool
  | .inf _ => true
  | _ => false

def Val.sign : Val → Bool
  | .nan _ => false
  | .inf s => s
  | .fin s _ _ => s

/-- Modifiers on a value (R164). -/
def Val.mods (x : Val) (neg abs : Bool) : Val :=
  let f (s : Bool) : Bool := Bool.xor (s && !abs) neg
  match x with
  | .nan g => .nan g
  | .inf s => .inf (f s)
  | .fin s m q => .fin (f s) m q

/-- Decode of a scalar entry (R72). -/
def Entry.decode (e : Entry) (bits : Nat) : Val :=
  let w := e.width
  let b := bits % 2 ^ w
  let s := e.s && decide (2 ^ (w - 1) ≤ b)
  if e.ew = 0 then
    if e.spec = 4 then
      if s then .fin true (2 ^ w - b) (-e.bias) else .fin false b (-e.bias)
    else
      let m := if e.s then b % 2 ^ (w - 1) else b
      .fin (s && m != 0) m (-e.bias)
  else
    let ex := natBits b e.fw e.ew
    let fr := natBits b 0 e.fw
    let top := 2 ^ e.ew - 1
    if e.spec = 0 ∧ ex = top ∧ fr = 0 then .inf s
    else if e.spec = 0 ∧ ex = top then .nan (fr < 2 ^ (e.fw - 1))
    else if e.spec = 1 ∧ ex = top ∧ fr = 2 ^ e.fw - 1 then .nan false
    else if e.spec = 2 ∧ b = 2 ^ (w - 1) then .nan false
    else if ex = 0 then
      if e.sub then .fin s fr (1 - e.bias - e.fw) else .fin s 0 0
    else .fin s (2 ^ e.fw + fr) (ex - e.bias - e.fw)

/-- DecodeBFP2 (R73). -/
def Entry.decodeBfp (e : Entry) (header elem : Nat) : Val :=
  let x0 := natBits header 0 e.xw
  let x1 := natBits header 8 e.xw
  if x0 = 2 ^ e.xw - 1 ∧ x1 = 2 ^ e.xw - 1 then .nan false
  else
    let x := if natBits elem (e.fw + 1) 1 = 0 then x0 else x1
    .fin (natBits elem e.fw 1 == 1) (natBits elem 0 e.fw) (x - e.bias - e.fw)

/-! ## Rounding -/

/-- The mode of a rounding code (Table 4-6); 7 reads FRM. -/
def modeOfCode (c : Nat) (frm : Word) : Round :=
  let k := if c = 7 then frm.toNat else c
  match k with
  | 1 => .rz
  | 2 => .ru
  | 3 => .rd
  | 4 => .ra
  | _ => .rn

/-- The mode of a rounding field (R75). -/
def resolveMode (r : Round) (frm : Word) : Round :=
  match r with
  | .dyn => modeOfCode 7 frm
  | r => r

/-- Where a magnitude lies above its floor. -/
inductive Tail where
  | none
  | low
  | tie
  | high
  deriving DecidableEq, Repr

/-- Whether RoundInt goes to the integer above the floor (R75). -/
def roundsUp (mode : Round) (s : Bool) (odd : Bool) (tail : Tail) : Bool :=
  match mode with
  | .rz => false
  | .ru => !s && tail != .none
  | .rd => s && tail != .none
  | .ra => tail == .tie || tail == .high
  | _ => tail == .high || (tail == .tie && odd)

/-- The floor and the tail of m 2^-k; `sticky` says that the magnitude lies strictly between m and m + 1. -/
def floorTail (m : Nat) (k : Int) (sticky : Bool) : Nat × Tail :=
  if k ≤ 0 then (m * 2 ^ (-k).toNat, if sticky then .low else .none)
  else if m = 0 then (0, if sticky then .low else .none)
  else if Nat.log2 m + 2 ≤ k.toNat then (0, .low)
  else
    let n := k.toNat
    let r := m % 2 ^ n
    let half := 2 ^ (n - 1)
    (m / 2 ^ n,
     if r = 0 then (if sticky then .low else .none)
     else if r < half then .low
     else if r = half then (if sticky then .high else .tie)
     else .high)

/-- RoundInt of m 2^-k, and whether it is exact (R75). -/
def roundInt (mode : Round) (s : Bool) (m : Nat) (k : Int) (sticky : Bool) : Nat × Bool :=
  let (f, t) := floorTail m k sticky
  (if roundsUp mode s (f % 2 == 1) t then f + 1 else f, t == .none)

/-! ## Encoding -/

/-- RoundsAway (R77). -/
def roundsAway (mode : Round) (s : Bool) : Bool :=
  match mode with
  | .rz => false
  | .ru => !s
  | .rd => s
  | _ => true

/-- Overflow(E, s, mode) (R77). -/
def Entry.overflow (e : Entry) (s : Bool) (mode : Round) : Flagged Nat :=
  { flags := Flag.overflow ||| Flag.inexact,
    val := if e.ovf = 2 ∧ e.hasNan then e.nan
           else if e.ovf = 1 ∧ e.hasInf ∧ roundsAway mode s then e.infPattern s
           else e.maxPattern s }

/-- m 2^q exceeds the finite value of a pattern. -/
def exceeds (m : Nat) (q : Int) (top : Val) : Bool :=
  match top with
  | .fin _ mm mq =>
    if mq ≤ q then decide (mm = 0) || decide (100 < q - mq) || decide (mm < m * 2 ^ (q - mq).toNat)
    else decide (mm * 2 ^ (mq - q).toNat < m)
  | _ => false

/-- EncodeFloat(E, s, a, mode) for a = m 2^q > 0, or a strictly between m 2^q and (m + 1) 2^q (R77). -/
def Entry.encode (e : Entry) (s : Bool) (m : Nat) (q : Int) (sticky : Bool) (mode : Round) : Flagged Nat :=
  let emin := 1 - e.bias
  let lg := (Nat.log2 m : Int) + q
  let tiny := decide (lg < emin)
  if tiny && !e.sub then { val := e.zero s, flags := Flag.underflow ||| Flag.inexact }
  else
    let qq := max lg emin - e.fw
    let (r, exact) := roundInt mode s m (qq - q) sticky
    let (r, qq) := if r = 2 ^ (e.fw + 1) then (2 ^ e.fw, qq + 1) else (r, qq)
    let flags := if exact then 0 else Flag.inexact ||| (if tiny then Flag.underflow else 0)
    if r = 0 then { val := e.zero s, flags := flags }
    else if exceeds r qq (e.decode (e.maxPattern false)) then
      let o := e.overflow s mode
      { val := o.val, flags := flags ||| o.flags }
    else
      let ex := if 2 ^ e.fw ≤ r then (qq + e.fw + e.bias).toNat else 0
      { val := e.pack s ex (r % 2 ^ e.fw), flags := flags }

/-- The limits of an integer entry (R71, R78). -/
def Entry.intMin (e : Entry) : Int :=
  if !e.s then 0 else if e.spec = 4 then -(2 ^ (e.width - 1) : Nat) else -((2 ^ (e.width - 1) : Nat) - 1)

def Entry.intMax (e : Entry) : Int :=
  if e.s then (2 ^ (e.width - 1) : Nat) - 1 else (2 ^ e.width : Nat) - 1

/-- IntPattern(E, v) (R78). -/
def Entry.intPattern (e : Entry) (v : Int) : Nat :=
  if e.spec = 4 then (v % (2 ^ e.width : Nat)).toNat
  else if v < 0 then 2 ^ (e.width - 1) + v.natAbs else v.natAbs

/-- EncodeInt(E, x, mode) for x = (-1)^s m 2^q (R78). -/
def Entry.encodeInt (e : Entry) (s : Bool) (m : Nat) (q : Int) (mode : Round) : Flagged Nat :=
  let (r, exact) := roundInt mode s m (-(q + e.bias)) false
  let v : Int := if s then -(r : Int) else r
  if v < e.intMin then { val := e.intPattern e.intMin, flags := Flag.saturated }
  else if e.intMax < v then { val := e.intPattern e.intMax, flags := Flag.saturated }
  else { val := e.intPattern v, flags := if exact then 0 else Flag.inexact }

/-- Convert-from-decoded(v, Dst, mode) (R80). -/
def Entry.convert (e : Entry) (x : Val) (mode : Round) : Flagged Nat :=
  match x with
  | .nan g =>
    if e.hasNan then { val := e.nan, flags := if g then Flag.invalid else 0 }
    else { val := e.zero false, flags := Flag.invalid }
  | .inf s =>
    if e.isInt then
      { val := e.intPattern (if s then e.intMin else e.intMax), flags := Flag.saturated }
    else if !e.s && s then { val := e.zero false, flags := Flag.invalid }
    else if e.hasInf then { val := e.infPattern s, flags := 0 }
    else { val := e.maxPattern s, flags := Flag.overflow }
  | .fin s m q =>
    if e.isInt then e.encodeInt s m q mode
    else if !e.s && s && m != 0 then { val := e.zero false, flags := Flag.invalid }
    else if m = 0 then { val := e.zero s, flags := 0 }
    else e.encode s m q false mode

/-- One attempt of EncodeBFP2 under a selector's exponent: the magnitude and whether it is exact. -/
def Entry.bfpTry (e : Entry) (x : Nat) (s : Bool) (m : Nat) (q : Int) (mode : Round) : Nat × Bool :=
  roundInt mode s m ((x : Int) - e.bias - e.fw - q) false

/-- EncodeBFP2(E, x0, x1, d, mode) (R79). -/
def Entry.encodeBfp (e : Entry) (header : Nat) (d : Val) (mode : Round) : Flagged Nat :=
  let x0 := natBits header 0 e.xw
  let x1 := natBits header 8 e.xw
  let lo := if x1 < x0 then 1 else 0
  let xOf (sel : Nat) : Nat := if sel = 0 then x0 else x1
  let elem (sel : Nat) (s : Bool) (m : Nat) : Nat := sel * 2 ^ (e.fw + 1) + bit s * 2 ^ e.fw + m
  let top := 2 ^ e.fw - 1
  match d with
  | .nan _ => { val := elem lo false 0, flags := Flag.invalid }
  | .inf s => { val := elem (1 - lo) s top, flags := Flag.overflow }
  | .fin s m q =>
    let r := e.bfpTry (xOf lo) s m q mode
    let flagsOf (r : Nat × Bool) : Nat :=
      if r.2 then 0 else Flag.inexact ||| (if r.1 = 0 then Flag.underflow else 0)
    if r.1 ≤ top then { val := elem lo s r.1, flags := flagsOf r }
    else
      let r := e.bfpTry (xOf (1 - lo)) s m q mode
      if r.1 ≤ top then { val := elem (1 - lo) s r.1, flags := flagsOf r }
      else { val := elem (1 - lo) s top, flags := Flag.overflow ||| Flag.inexact }

/-! ## Exact products and sums -/

/-- An exact product; zero times infinity is invalid and answered apart (R167). -/
def mulVal (x y : Val) : Val :=
  match x, y with
  | .nan g, .nan h => .nan (g || h)
  | .nan g, _ => .nan g
  | _, .nan g => .nan g
  | .inf s, y => .inf (Bool.xor s y.sign)
  | x, .inf s => .inf (Bool.xor x.sign s)
  | .fin s m q, .fin t n r => .fin (Bool.xor s t) (m * n) (q + r)

/-- Zero times infinity. -/
def invalidProduct (x y : Val) : Bool := (x.isZero && y.isInf) || (x.isInf && y.isZero)

def Val.neg (x : Val) : Val := x.mods true false

/-- The exact sum of finite values: a signed multiple of 2^q. -/
def sumVals (xs : List Val) : Int × Int :=
  xs.foldl
    (fun (a : Int × Int) x =>
      match x with
      | .fin s m q =>
        let v : Int := if s then -(m : Int) else m
        if m = 0 then a
        else if a.1 = 0 then (v, q)
        else if q ≤ a.2 then (a.1 * (2 ^ (a.2 - q).toNat : Nat) + v, q)
        else (a.1 + v * (2 ^ (q - a.2).toNat : Nat), a.2)
      | _ => a) (0, 0)

/-- A NaN result in an entry (R166, R178). -/
def Entry.nanResult (e : Entry) (flags : Nat) : Flagged Nat :=
  if e.hasNan then { val := e.nan, flags := flags } else { val := e.zero false, flags := flags ||| Flag.invalid }

/-- The sum of exact terms rounded once into an entry: R167 and R168 for the arithmetic, R83 for block sums.
`inv` says that some product is invalid, `sig` that some operand is signalling. -/
def Entry.sum (e : Entry) (mode : Round) (inv sig : Bool) (terms : List Val) : Flagged Nat :=
  let pos := terms.any (· == .inf false)
  let neg := terms.any (· == .inf true)
  let bad := inv || sig || (pos && neg)
  if bad || terms.any Val.isNan then e.nanResult (if bad then Flag.invalid else 0)
  else if pos || neg then
    if e.hasInf then { val := e.infPattern neg, flags := 0 }
    else { val := e.maxPattern neg, flags := Flag.overflow }
  else
    let (v, q) := sumVals terms
    if v = 0 then
      let allZero := terms.all Val.isZero
      let s := if allZero && terms.all Val.sign then true
        else if allZero && terms.all (fun x => !x.sign) then false
        else mode == .rd
      { val := e.zero s, flags := 0 }
    else e.encode (decide (v < 0)) v.natAbs q false mode

/-- Sat01 (R165). Where the entry has no 1.0 of its own, under an unusual BIAS, the bound is 1.0 encoded in `.rn`: the spec says
only that 1.0 is taken in the packed entry. DESIGN CHOICE: log 55. -/
def Entry.sat01 (e : Entry) (x : Flagged Nat) : Flagged Nat :=
  let one := (e.encode false 1 0 false .rn).val
  match e.decode x.val with
  | .nan _ => { val := e.zero false, flags := x.flags ||| Flag.saturated }
  | .inf true => { val := e.zero false, flags := x.flags ||| Flag.saturated }
  | .inf false => { val := one, flags := x.flags ||| Flag.saturated }
  | .fin s m q =>
    if m = 0 then { val := e.zero false, flags := x.flags }
    else if s then { val := e.zero false, flags := x.flags ||| Flag.saturated }
    else if exceeds m q (.fin false 1 0) then { val := one, flags := x.flags ||| Flag.saturated }
    else x

/-- `.sat` applied or not. -/
def Entry.satIf (e : Entry) (sat : Bool) (x : Flagged Nat) : Flagged Nat := if sat then e.sat01 x else x

/-- x + y (R167). -/
def Entry.add (e : Entry) (mode : Round) (x y : Val) : Flagged Nat := e.sum mode false (x.signals || y.signals) [x, y]

/-- x y (R167). -/
def Entry.mul (e : Entry) (mode : Round) (x y : Val) : Flagged Nat :=
  e.sum mode (invalidProduct x y) (x.signals || y.signals) [mulVal x y]

/-- x y + z with one rounding (R167). -/
def Entry.fma (e : Entry) (mode : Round) (x y z : Val) : Flagged Nat :=
  e.sum mode (invalidProduct x y) (x.signals || y.signals || z.signals) [mulVal x y, z]

/-- A term of an exact sum: a product, with its sign flipped or not. -/
structure Term where
  x   : Val
  y   : Val
  neg : Bool
  deriving DecidableEq, Repr

def Term.val (t : Term) : Val := if t.neg then (mulVal t.x t.y).neg else mulVal t.x t.y

/-- ExactSum over an FP32 accumulator (R83). -/
def exactSum (acc : Nat) (ts : List Term) : Flagged Nat :=
  let z := fp32.decode acc
  fp32.sum .rn (ts.any fun t => invalidProduct t.x t.y)
    (z.signals || ts.any fun t => t.x.signals || t.y.signals) (z :: ts.map Term.val)

/-- IntBlockSum (R84): integer fields without their BIAS, wrapped or clamped. -/
def intBlockSum (acc : Nat) (ts : List (Val × Val)) (sat : Bool) : Flagged Nat :=
  let iv (x : Val) : Int := match x with | .fin s m _ => if s then -(m : Int) else m | _ => 0
  let v := ts.foldl (fun a t => a + iv t.1 * iv t.2) (BitVec.ofNat 32 acc).toInt
  let r := resInt .s32 sat v
  { val := r.val.toNat, flags := r.flags }

/-! ## Comparison -/

/-- Sign of x - y for values that are no NaN: less, equal or greater. -/
def cmpVals (x y : Val) : Ordering :=
  let rank (v : Val) : Int := match v with | .inf true => -1 | .inf false => 1 | _ => 0
  if rank x ≠ rank y then (if rank x < rank y then .lt else .gt)
  else if x.isInf then .eq
  else
    let d := (sumVals [x, y.neg]).1
    if d < 0 then .lt else if d = 0 then .eq else .gt

/-- Table 9-4 on two values: the result and whether INVALID is set (R170). -/
def fcmpHolds (cc : FCc) (x y : Val) : Bool × Bool :=
  let unord := x.isNan || y.isNan
  let o := cmpVals x y
  let loud := x.signals || y.signals
  match cc with
  | .eq => (!unord && o == .eq, loud)
  | .ne => (unord || o != .eq, loud)
  | .lt => (!unord && o == .lt, unord)
  | .le => (!unord && o != .gt, unord)
  | .gt => (!unord && o == .gt, unord)
  | .ge => (!unord && o != .lt, unord)
  | .un => (unord, loud)
  | .ord => (!unord, loud)

/-- FMIN or FMAX of FP32 bits after modifiers (R169): -0 lies below +0. -/
def fminmax (wantMax : Bool) (a b : Nat) : Flagged Nat :=
  let x := fp32.decode a
  let y := fp32.decode b
  let flags := if x.signals || y.signals then Flag.invalid else 0
  if x.isNan && y.isNan then { val := fp32.nan, flags := flags }
  else if x.isNan then { val := b, flags := flags }
  else if y.isNan then { val := a, flags := flags }
  else
    let less := match cmpVals x y with
      | .lt => true
      | .gt => false
      | .eq => x.sign
    { val := if less == wantMax then b else a, flags := flags }

/-- FP32 bits under modifiers (R164). -/
def mods32 (v : Word) (neg abs : Bool) : Nat :=
  let s := Bool.xor (bitOf v 31 && !abs) neg
  v.toNat % 2 ^ 31 + (if s then 2 ^ 31 else 0)

end Sys2Proof.Machine
end

