-- ==== Sys2Proof/Machine/FpFun.lean ====
section
/-! DEFINITION. Division, roots and the correctly rounded functions (R167, R171). An irrational result is held as
the integer below it in units of 2^-512, marked as lying strictly above; 512 bits separate every FP32 argument's
result from the nearest rounding boundary (log 10). -/

namespace Sys2Proof.Machine

/-- The precision of the fixed-point evaluations, in bits. -/
def fixBits : Nat := 512

/-- One in fixed point. -/
def fixOne : Nat := 2 ^ fixBits

/-- The integer square root of m, where its root lies below r + 2^n. -/
def sqrtFrom (m r : Nat) : Nat → Nat
  | 0 => r
  | n + 1 => if (r + 2 ^ n) * (r + 2 ^ n) ≤ m then sqrtFrom m (r + 2 ^ n) n else sqrtFrom m r n

/-- The integer square root. -/
def isqrt (m : Nat) : Nat := sqrtFrom m 0 (Nat.log2 m / 2 + 1)

/-- x / y for finite nonzero magnitudes, rounded once (R167). -/
def quotient (e : Entry) (mode : Round) (s : Bool) (m1 : Nat) (q1 : Int) (m2 : Nat) (q2 : Int) : Flagged Nat :=
  let k := Nat.log2 m2 + e.fw + 4
  let n := m1 * 2 ^ k
  e.encode s (n / m2) (q1 - q2 - k) (n % m2 != 0) mode

/-- FDIV (R167). -/
def fdivVal (mode : Round) (x y : Val) : Flagged Nat :=
  let sig := x.signals || y.signals
  let inv := (x.isZero && y.isZero) || (x.isInf && y.isInf)
  if x.isNan || y.isNan || inv then
    { val := fp32.nan, flags := if sig || inv then Flag.invalid else 0 }
  else
    let s := Bool.xor x.sign y.sign
    match x, y with
    | .fin _ m1 q1, .fin _ m2 q2 =>
      if m2 = 0 then { val := fp32.infPattern s, flags := Flag.divzero }
      else if m1 = 0 then { val := fp32.zero s, flags := 0 }
      else quotient fp32 mode s m1 q1 m2 q2
    | .inf _, _ => { val := fp32.infPattern s, flags := 0 }
    | _, _ => { val := fp32.zero s, flags := 0 }

/-- The special operands that every function shares: a NaN (Table 9-5). -/
def funNan (g : Bool) : Flagged Nat := { val := fp32.nan, flags := if g then Flag.invalid else 0 }

/-- The NaN of an invalid operand (Table 9-5). -/
def funInvalid : Flagged Nat := { val := fp32.nan, flags := Flag.invalid }

/-- FRCP: 1 / y (R171). -/
def frcpVal (mode : Round) (y : Val) : Flagged Nat :=
  match y with
  | .nan g => funNan g
  | .inf s => { val := fp32.zero s, flags := 0 }
  | .fin s m q =>
    if m = 0 then { val := fp32.infPattern s, flags := Flag.divzero } else quotient fp32 mode s 1 0 m q

/-- m 2^q with an even exponent. -/
def evenExp (m : Nat) (q : Int) : Nat × Int := if q % 2 = 0 then (m, q) else (2 * m, q - 1)

/-- FSQRT (R171). -/
def fsqrtVal (mode : Round) (y : Val) : Flagged Nat :=
  match y with
  | .nan g => funNan g
  | .inf s => if s then funInvalid else { val := fp32.infPattern false, flags := 0 }
  | .fin s m q =>
    if m = 0 then { val := fp32.zero s, flags := 0 }
    else if s then funInvalid
    else
      let (m, q) := evenExp m q
      let n := m * 2 ^ 64
      fp32.encode false (isqrt n) ((q - 64) / 2) (isqrt n * isqrt n != n) mode

/-- FRSQ: 1 / sqrt y (R171). -/
def frsqVal (mode : Round) (y : Val) : Flagged Nat :=
  match y with
  | .nan g => funNan g
  | .inf s => if s then funInvalid else { val := fp32.zero false, flags := 0 }
  | .fin s m q =>
    if m = 0 then { val := fp32.infPattern s, flags := Flag.divzero }
    else if s then funInvalid
    else
      let (m, q) := evenExp m q
      let n := 2 ^ 128 / m
      fp32.encode false (isqrt n) (-64 - q / 2) (isqrt n * isqrt n * m != 2 ^ 128) mode

/-! ## Series in fixed point -/

/-- The tail of atanh or atan of n / d from the term t / k on; `alt` alternates the signs. -/
def arcTail (n d t k : Nat) (alt : Bool) : Nat → Int
  | 0 => 0
  | fuel + 1 =>
    let rest := arcTail n d (t * (n * n) / (d * d)) (k + 2) alt fuel
    ((t / k : Nat) : Int) + (if alt then -rest else rest)

/-- atanh(n / d) for n / d at most 1/3, in fixed point. -/
def atanhFix (n d : Nat) : Nat := (arcTail n d (n * fixOne / d) 1 false 170).toNat

/-- atan(n / d) for n / d at most 1/5, in fixed point. -/
def atanFix (n d : Nat) : Nat := (arcTail n d (n * fixOne / d) 1 true 115).toNat

/-- The natural logarithm of 2: 2 atanh(1/3). -/
def ln2Fix : Nat := 2 * atanhFix 1 3

/-- Pi by Machin's formula. -/
def piFix : Nat := 16 * atanFix 1 5 - 4 * atanFix 1 239

/-- The tail of the exponential series from the term t of index k on. -/
def expTail (x t k : Nat) : Nat → Nat
  | 0 => 0
  | fuel + 1 => t + expTail x (t * x / fixOne / (k + 1)) (k + 1) fuel

/-- The tail of the sine series from the term t of index k on; x2 is the squared argument. -/
def sinTail (x2 t k : Nat) : Nat → Int
  | 0 => 0
  | fuel + 1 => (t : Int) - sinTail x2 (t * x2 / fixOne / ((k + 1) * (k + 2))) (k + 2) fuel

/-- 2^y for a finite y that is no integer: the floor and the fraction apart. -/
def exp2Irrational (mode : Round) (s : Bool) (m k : Nat) : Flagged Nat :=
  let whole := m / 2 ^ k
  let frac := m % 2 ^ k
  let n : Int := if s then -(whole : Int) - 1 else whole
  let f := if s then 2 ^ k - frac else frac
  let x := f * fixOne / 2 ^ k * ln2Fix / fixOne
  fp32.encode false (expTail x fixOne 0 112) (n - fixBits) true mode

/-- FEXP2 (R171). -/
def fexp2Val (mode : Round) (y : Val) : Flagged Nat :=
  match y with
  | .nan g => funNan g
  | .inf s => { val := if s then fp32.zero false else fp32.infPattern false, flags := 0 }
  | .fin s m q =>
    let k := (-q).toNat
    if 0 ≤ q then
      let n : Int := m * (2 ^ q.toNat : Nat)
      fp32.encode false 1 (if s then -n else n) false mode
    else if m % 2 ^ k = 0 then
      let n : Int := (m / 2 ^ k : Nat)
      fp32.encode false 1 (if s then -n else n) false mode
    else exp2Irrational mode s m k

/-- FLOG2 (R171). -/
def flog2Val (mode : Round) (y : Val) : Flagged Nat :=
  match y with
  | .nan g => funNan g
  | .inf s => if s then funInvalid else { val := fp32.infPattern false, flags := 0 }
  | .fin s m q =>
    if m = 0 then { val := fp32.infPattern true, flags := Flag.divzero }
    else if s then funInvalid
    else
      let l := Nat.log2 m
      let e : Int := l + q
      if m = 2 ^ l then
        if e = 0 then { val := fp32.zero false, flags := 0 } else fp32.encode (decide (e < 0)) e.natAbs 0 false mode
      else
        let frac := 2 * atanhFix (m - 2 ^ l) (m + 2 ^ l) * fixOne / ln2Fix
        let v : Int := e * (fixOne : Nat) + frac
        if v < 0 then fp32.encode true (v.natAbs - 1) (-fixBits) true mode
        else fp32.encode false v.natAbs (-fixBits) true mode

/-- sin(pi n / 2^k) for a nonnegative n, k at least 1: its sign with an exact or an irrational magnitude. -/
def sinPi (mode : Round) (s : Bool) (zero : Bool) (n k : Nat) : Flagged Nat :=
  let r := n % 2 ^ (k + 1)
  let s := Bool.xor s (decide (2 ^ k ≤ r))
  let r := r % 2 ^ k
  let r := if 2 ^ (k - 1) < r then 2 ^ k - r else r
  if r = 0 then { val := fp32.zero zero, flags := 0 }
  else if r = 2 ^ (k - 1) then fp32.encode s 1 0 false mode
  else
    let x := r * piFix / 2 ^ k
    fp32.encode s (sinTail (x * x / fixOne) x 1 60).toNat (-fixBits) true mode

/-- m 2^q as a count of units 2^-k, with k at least 1. -/
def dyadic (m : Nat) (q : Int) : Nat × Nat := if 0 ≤ q then (2 * (m * 2 ^ q.toNat), 1) else (2 * m, (-q).toNat + 1)

/-- FSINP (R171). An integer gives a zero of the sign of y. -/
def fsinpVal (mode : Round) (y : Val) : Flagged Nat :=
  match y with
  | .nan g => funNan g
  | .inf _ => funInvalid
  | .fin s m q => let (n, k) := dyadic m q; sinPi mode s s n k

/-- FCOSP (R171): cos(pi y) = sin(pi (|y| + 1/2)). -/
def fcospVal (mode : Round) (y : Val) : Flagged Nat :=
  match y with
  | .nan g => funNan g
  | .inf _ => funInvalid
  | .fin _ m q => let (n, k) := dyadic m q; sinPi mode false false (n + 2 ^ (k - 1)) k

/-- FRINT of FP32 bits (R174). -/
def frintVal (mode : Round) (bits : Nat) : Flagged Nat :=
  match fp32.decode bits with
  | .nan g => funNan g
  | .inf s => { val := fp32.infPattern s, flags := 0 }
  | .fin s m q =>
    if m = 0 then { val := fp32.zero s, flags := 0 }
    else
      let (r, exact) := roundInt mode s m (-q) false
      let flags := if exact then 0 else Flag.inexact
      if r = 0 then { val := fp32.zero s, flags := flags }
      else { val := (fp32.encode s r 0 false .rn).val, flags := flags }

/-- FSCALE: a 2^n, rounded once (R172). -/
def fscaleVal (mode : Round) (x : Val) (n : Int) : Flagged Nat :=
  match x with
  | .nan g => funNan g
  | .inf s => { val := fp32.infPattern s, flags := 0 }
  | .fin s m q => if m = 0 then { val := fp32.zero s, flags := 0 } else fp32.encode s m (q + n) false mode

/-- FCLASS (R173). -/
def fclassBits (bits : Nat) : Nat :=
  let sub := decide (natBits bits 23 8 = 0)
  match fp32.decode bits with
  | .nan g => if g then 2 ^ 8 else 2 ^ 9
  | .inf s => if s then 1 else 2 ^ 7
  | .fin s m _ =>
    if m = 0 then (if s then 2 ^ 3 else 2 ^ 4)
    else if sub then (if s then 2 ^ 2 else 2 ^ 5)
    else if s then 2 else 2 ^ 6

end Sys2Proof.Machine
end

