-- ==== Sys2Proof/Machine/Integer.lean ====
section
/-! DEFINITION. Integer instructions, OP 10 to 2F (R149 to R153). Each writes its destination and, under SAT,
may raise SATURATED; nothing else changes. DIV and REM are long-latency: their results are written when they
complete (R128, R150). -/

namespace Sys2Proof.Machine

/-! ## The shared values -/

/-- DIV and REM (R150): quotient and remainder, truncating toward zero, with the results of a zero divisor and
of -2^31 / -1. -/
def divRem (ty : IntTy) (a b : Word) : Word × Word :=
  match ty with
  | .n32 =>
    if uval b = 0 then (0xFFFFFFFF#32, a)
    else (BitVec.ofNat 32 (uval a / uval b), BitVec.ofNat 32 (uval a % uval b))
  | .s32 =>
    if sval b = 0 then ((if sval a < 0 then 1#32 else 0xFFFFFFFF#32), a)
    else if sval a = -2147483648 ∧ sval b = -1 then (a, 0#32)
    else (wrap32 ((sval a).tdiv (sval b)), wrap32 ((sval a).tmod (sval b)))

/-- Leading zeros of a 32-bit value (R149). -/
def clz32 (v : Word) : Nat := if v = 0#32 then 32 else 31 - Nat.log2 v.toNat

/-- Ones among the low `n` bits. -/
def popBits (v : Nat) : Nat → Nat
  | 0 => 0
  | n + 1 => v / 2 ^ n % 2 + popBits v n

/-- Ones of a 32-bit value (R149). -/
def popc32 (v : Word) : Nat := popBits v.toNat 32

/-- The low `n` bits of a value in reverse order, as a number below 2^n. -/
def revBits (v : Nat) : Nat → Nat
  | 0 => 0
  | n + 1 => v / 2 ^ n % 2 + 2 * revBits v n

/-- Bit i moved to bit 31 - i (R149). -/
def brev32 (v : Word) : Word := BitVec.ofNat 32 (revBits v.toNat 32)

/-- SHL, SHR, SAR, ROTL (R152): counts are not masked, but for ROTL's. -/
def shlWord (a b : Word) : Word := if 32 ≤ uval b then 0#32 else BitVec.ofNat 32 (uval a * 2 ^ uval b)

def shrWord (a b : Word) : Word := if 32 ≤ uval b then 0#32 else BitVec.ofNat 32 (uval a / 2 ^ uval b)

def sarWord (a b : Word) : Word := wrap32 (sval a / (2 ^ min (uval b) 31 : Nat))

def rotlWord (a b : Word) : Word :=
  let n := uval b % 32
  BitVec.ofNat 32 (uval a * 2 ^ n) ||| BitVec.ofNat 32 (uval a / 2 ^ (32 - n))

/-- The field position and length of BFX and BFI (R152). -/
def fieldPos (b : Word) : Nat := natBits b.toNat 0 5

def fieldLen (b : Word) : Nat := min (natBits b.toNat 8 6) (32 - fieldPos b)

/-- BFX (R152). -/
def bfxWord (ty : IntTy) (a b : Word) : Word :=
  let len := fieldLen b
  let f := natBits a.toNat (fieldPos b) len
  if ty = .s32 ∧ 0 < len ∧ 2 ^ (len - 1) ≤ f then wrap32 ((f : Int) - 2 ^ len) else BitVec.ofNat 32 f

/-- BFI (R152). -/
def bfiWord (d a b : Word) : Word :=
  let pos := fieldPos b
  let len := fieldLen b
  let hi := d.toNat / 2 ^ (pos + len) * 2 ^ (pos + len)
  BitVec.ofNat 32 (hi + natBits a.toNat 0 len * 2 ^ pos + natBits d.toNat 0 pos)

/-- One selected byte of PRMB (R153). -/
def prmbByte (v pick : Nat) (i : Nat) : Nat :=
  let n := natBits pick (4 * i) 4
  let y := natBits v (8 * (n % 8)) 8
  if 8 ≤ n then (if 128 ≤ y then 255 else 0) else y

/-- PRMB (R153): bytes 0 to 3 from a, 4 to 7 from b. -/
def prmbWord (a b : Word) (pick : BitVec 16) : Word :=
  let v := uval a + 2 ^ 32 * uval b
  BitVec.ofNat 32 (prmbByte v pick.toNat 0 + 2 ^ 8 * prmbByte v pick.toNat 1
    + 2 ^ 16 * prmbByte v pick.toNat 2 + 2 ^ 24 * prmbByte v pick.toNat 3)

/-- A 32-bit operation of two sources into a register. -/
def alu3 (d : Reg) (a : SrcA) (b : SrcB) (f : Word → Word → Word) : Addr56 → State → Nat → LaneRes :=
  threadOnly fun th => th.setReg d.toNat (f (th.a32 a) (th.b32 b))

/-- A 32-bit operation of two sources under TY and SAT. -/
def aluSat (ty : IntTy) (sat : Bool) (d : Reg) (a : SrcA) (b : SrcB) (f : Int → Int → Int) :
    Addr56 → State → Nat → LaneRes :=
  threadOnly fun th =>
    th.putFlagged d (resInt ty sat (f (readTy ty (th.a32 a)) (readTy ty (th.b32 b))))

/-- A long-latency instruction begins: its destination is written when it completes (R128, R129). -/
def Thread.begin (th : Thread) (pc : Addr56) (word : BitVec 96) (kind : LongKind) : Thread :=
  { th with longs := th.longs ++
      [{ order := th.order, pc := pc, word := word, opa := th.opa, opb := th.opb, left := (headerOf word).look.toNat, kind := kind }] }

/-- The word in the issue latch. -/
def State.issueWord (s : State) : BitVec 96 := (s.sched.issue.map (·.word)).getD 0#96

/-- A long-latency result computed at issue. -/
def longResult (f : Thread → List (Nat × Word) × Nat) : Addr56 → State → Nat → LaneRes :=
  fun pc s t => .ok (s.modThread t fun th => th.begin pc s.issueWord (.result (f th).1 (f th).2))

/-! ## The instructions -/

/-- ADD (R149): d := Res(X(a) + X(b)). -/
def execAdd (h : Hdr) (x : IntSatArgs) (s : State) : Host.Outcome State Fault Refusal :=
  perThread (.add h x) (aluSat x.ty x.sat x.d x.a x.b (· + ·)) s

/-- SUB (R149): d := Res(X(a) - X(b)). -/
def execSub (h : Hdr) (x : IntSatArgs) (s : State) : Host.Outcome State Fault Refusal :=
  perThread (.sub h x) (aluSat x.ty x.sat x.d x.a x.b (· - ·)) s

/-- MUL (R149): d := Res(X(a) * X(b)). -/
def execMul (h : Hdr) (x : IntSatArgs) (s : State) : Host.Outcome State Fault Refusal :=
  perThread (.mul h x) (aluSat x.ty x.sat x.d x.a x.b (· * ·)) s

/-- MULH (R149): bits [63:32] of the exact product. -/
def execMulh (h : Hdr) (x : MulhArgs) (s : State) : Host.Outcome State Fault Refusal :=
  perThread (.mulh h x) (threadOnly fun th =>
    th.setReg x.d.toNat
      (hi32 (wrap64 (readTy x.ty (th.reg x.a.toNat) * readTy x.ty (th.b32 x.b))))) s

/-- MAD (R149): d := Res(X(a) * X(b) + X(d)). -/
def execMad (h : Hdr) (x : MadArgs) (s : State) : Host.Outcome State Fault Refusal :=
  perThread (.mad h x) (threadOnly fun th =>
    th.putFlagged x.d (resInt x.ty x.sat
      (readTy x.ty (th.reg x.a.toNat) * readTy x.ty (th.b32 x.b) + readTy x.ty (th.reg x.d.toNat)))) s

/-- MADW (R149): pair := Wrap64(pair + X(a) * X(b)). -/
def execMadw (h : Hdr) (x : MadwArgs) (s : State) : Host.Outcome State Fault Refusal :=
  perThread (.madw h x) (threadOnly fun th =>
    th.setPair x.d.toNat (th.pair x.d.toNat
      + wrap64 (readTy x.ty (th.reg x.a.toNat) * readTy x.ty (th.b32 x.b)))) s

/-- DIV (R150). -/
def execDiv (h : Hdr) (x : IntTyArgs) (s : State) : Host.Outcome State Fault Refusal :=
  perThread (.div h x) (longResult fun th =>
    ([(x.d.toNat, (divRem x.ty (th.a32 x.a) (th.b32 x.b)).1)], 0)) s

/-- REM (R150). -/
def execRem (h : Hdr) (x : IntTyArgs) (s : State) : Host.Outcome State Fault Refusal :=
  perThread (.rem h x) (longResult fun th =>
    ([(x.d.toNat, (divRem x.ty (th.a32 x.a) (th.b32 x.b)).2)], 0)) s

/-- MIN (R149): the lesser under TY. -/
def execMin (h : Hdr) (x : IntTyArgs) (s : State) : Host.Outcome State Fault Refusal :=
  perThread (.min h x) (alu3 x.d x.a x.b fun a b =>
    if readTy x.ty a ≤ readTy x.ty b then a else b) s

/-- MAX (R149): the greater under TY. -/
def execMax (h : Hdr) (x : IntTyArgs) (s : State) : Host.Outcome State Fault Refusal :=
  perThread (.max h x) (alu3 x.d x.a x.b fun a b =>
    if readTy x.ty b ≤ readTy x.ty a then a else b) s

/-- ABS (R149): Res(|S(b)|), signed. -/
def execAbs (h : Hdr) (x : UnSatArgs) (s : State) : Host.Outcome State Fault Refusal :=
  perThread (.abs h x) (threadOnly fun th =>
    th.putFlagged x.d (resInt .s32 x.sat ((sval (th.reg x.b.toNat)).natAbs : Int))) s

/-- NEG (R149): Res(-S(b)), signed. -/
def execNeg (h : Hdr) (x : UnSatArgs) (s : State) : Host.Outcome State Fault Refusal :=
  perThread (.neg h x) (threadOnly fun th =>
    th.putFlagged x.d (resInt .s32 x.sat (-(sval (th.reg x.b.toNat))))) s

/-- ADDC (R149): 1 where the sum leaves the range of TY, else 0. -/
def execAddc (h : Hdr) (x : IntTyArgs) (s : State) : Host.Outcome State Fault Refusal :=
  perThread (.addc h x) (alu3 x.d x.a x.b fun a b =>
    if fitInt x.ty (readTy x.ty a + readTy x.ty b) = readTy x.ty a + readTy x.ty b then 0#32 else 1#32) s

/-- LEA (R151): pair := Wrap64(a + idx * 2^sh). -/
def execLea (h : Hdr) (x : LeaArgs) (s : State) : Host.Outcome State Fault Refusal :=
  perThread (.lea h x) (threadOnly fun th =>
    th.setPair x.d.toNat (th.a64 x.a
      + wrap64 (readTy x.ty (th.reg x.b.toNat) * (2 ^ x.sh.toNat : Nat)))) s

/-- ADD64 (R149): pair := Wrap64(a + b). -/
def execAdd64 (h : Hdr) (x : WideArgs) (s : State) : Host.Outcome State Fault Refusal :=
  perThread (.add64 h x) (threadOnly fun th =>
    th.setPair x.d.toNat (th.pair x.a.toNat + th.b64 x.b)) s

/-- SUB64 (R149): pair := Wrap64(a - b). -/
def execSub64 (h : Hdr) (x : WideArgs) (s : State) : Host.Outcome State Fault Refusal :=
  perThread (.sub64 h x) (threadOnly fun th =>
    th.setPair x.d.toNat (th.pair x.a.toNat - th.b64 x.b)) s

/-- AND (R149). -/
def execAnd (h : Hdr) (x : IntArgs) (s : State) : Host.Outcome State Fault Refusal :=
  perThread (.and h x) (alu3 x.d x.a x.b (· &&& ·)) s

/-- OR (R149). -/
def execOr (h : Hdr) (x : IntArgs) (s : State) : Host.Outcome State Fault Refusal :=
  perThread (.or h x) (alu3 x.d x.a x.b (· ||| ·)) s

/-- XOR (R149). -/
def execXor (h : Hdr) (x : IntArgs) (s : State) : Host.Outcome State Fault Refusal :=
  perThread (.xor h x) (alu3 x.d x.a x.b (· ^^^ ·)) s

/-- ANDN (R149): a AND NOT b. -/
def execAndn (h : Hdr) (x : IntArgs) (s : State) : Host.Outcome State Fault Refusal :=
  perThread (.andn h x) (alu3 x.d x.a x.b fun a b => a &&& ~~~b) s

/-- SHL (R152). -/
def execShl (h : Hdr) (x : IntArgs) (s : State) : Host.Outcome State Fault Refusal :=
  perThread (.shl h x) (alu3 x.d x.a x.b shlWord) s

/-- SHR (R152). -/
def execShr (h : Hdr) (x : IntArgs) (s : State) : Host.Outcome State Fault Refusal :=
  perThread (.shr h x) (alu3 x.d x.a x.b shrWord) s

/-- SAR (R152). -/
def execSar (h : Hdr) (x : IntArgs) (s : State) : Host.Outcome State Fault Refusal :=
  perThread (.sar h x) (alu3 x.d x.a x.b sarWord) s

/-- ROTL (R152). -/
def execRotl (h : Hdr) (x : IntArgs) (s : State) : Host.Outcome State Fault Refusal :=
  perThread (.rotl h x) (alu3 x.d x.a x.b rotlWord) s

/-- CLZ (R149): leading zeros, 0 to 32. -/
def execClz (h : Hdr) (x : UnArgs) (s : State) : Host.Outcome State Fault Refusal :=
  perThread (.clz h x) (threadOnly fun th =>
    th.setReg x.d.toNat (BitVec.ofNat 32 (clz32 (th.reg x.b.toNat)))) s

/-- POPC (R149): ones. -/
def execPopc (h : Hdr) (x : UnArgs) (s : State) : Host.Outcome State Fault Refusal :=
  perThread (.popc h x) (threadOnly fun th =>
    th.setReg x.d.toNat (BitVec.ofNat 32 (popc32 (th.reg x.b.toNat)))) s

/-- BREV (R149): bit reversal. -/
def execBrev (h : Hdr) (x : UnArgs) (s : State) : Host.Outcome State Fault Refusal :=
  perThread (.brev h x) (threadOnly fun th => th.setReg x.d.toNat (brev32 (th.reg x.b.toNat))) s

/-- BFX (R152). -/
def execBfx (h : Hdr) (x : IntTyArgs) (s : State) : Host.Outcome State Fault Refusal :=
  perThread (.bfx h x) (alu3 x.d x.a x.b (bfxWord x.ty)) s

/-- BFI (R152). -/
def execBfi (h : Hdr) (x : IntArgs) (s : State) : Host.Outcome State Fault Refusal :=
  perThread (.bfi h x) (threadOnly fun th =>
    th.setReg x.d.toNat (bfiWord (th.reg x.d.toNat) (th.a32 x.a) (th.b32 x.b))) s

/-- PRMB (R153). -/
def execPrmb (h : Hdr) (x : PrmbArgs) (s : State) : Host.Outcome State Fault Refusal :=
  perThread (.prmb h x) (threadOnly fun th =>
    th.setReg x.d.toNat (prmbWord (th.a32 x.a) (th.reg x.b.toNat) x.pick)) s

/-- MOV (R149): d := b. -/
def execMov (h : Hdr) (x : MovArgs) (s : State) : Host.Outcome State Fault Refusal :=
  perThread (.mov h x) (threadOnly fun th => th.setReg x.d.toNat (th.b32 x.b)) s

/-- SEL (R153): a where the predicate, with its negate bit, holds, else b. -/
def execSel (h : Hdr) (x : SelArgs) (s : State) : Host.Outcome State Fault Refusal :=
  perThread (.sel h x) (threadOnly fun th =>
    th.setReg x.d.toNat (if Bool.xor (th.pred x.p) x.neg then th.a32 x.a else th.reg x.b.toNat)) s

end Sys2Proof.Machine
end

