-- ==== Sys2Proof/Machine/Float.lean ====
section
/-! DEFINITION. Floating-point, conversion, packed and dot-product instructions, OP 40 to 5E (R164 to R182). FDIV
and the functions are long-latency: result and flags are written when they complete (R128, R181). -/

namespace Sys2Proof.Machine

/-! ## Format entries (R67) -/

/-- An entry of a job's format table as a core holds it (R67, R253). -/
def Job.image (j : Job) (core n : Nat) : DWord :=
  if n < 8 then fixedImage n else Sparse.get (Tab.getD j.copies core j.fmt) n

/-- The entry that a thread latches at issue (R67, R109). -/
def State.entry (s : State) (t n : Nat) : Entry :=
  entryOf (((s.jobOf t).map fun j => j.image (coreOf t) n).getD (if n < 8 then fixedImage n else 0#64))

/-! ## Operands -/

def val32 (v : Word) (neg abs : Bool) : Val := (fp32.decode v.toNat).mods neg abs

def val64 (v : DWord) (neg abs : Bool) : Val := (fp64.decode v.toNat).mods neg abs

/-- x and y of an FP32 instruction (R164). -/
def fpXy (x : FpArgs) (th : Thread) : Val × Val := (val32 (th.a32 x.a) x.na x.aa, val32 (th.b32 x.b) x.nb x.ab)

/-- x and y of an FP64 instruction (R164, R177). -/
def dpXy (x : DpArgs) (th : Thread) : Val × Val := (val64 (th.a64 x.a) x.na x.aa, val64 (th.bFp64 x.b) x.nb x.ab)

/-- A result written as a word. -/
def Flagged.word (x : Flagged Nat) : Flagged Word := { val := BitVec.ofNat 32 x.val, flags := x.flags }

/-- A result written as a pair. -/
def Flagged.dword (x : Flagged Nat) : Flagged DWord := { val := BitVec.ofNat 64 x.val, flags := x.flags }

/-- An FP32 operation of two sources (R167). -/
def fp2 (x : FpArgs) (f : Round → Thread → Val → Val → Flagged Nat) : Addr56 → State → Nat → LaneRes :=
  threadOnly fun th =>
    let (a, b) := fpXy x th
    th.putFlagged x.d (fp32.satIf x.sat (f (resolveMode x.rnd th.frm) th a b)).word

/-- An FP64 operation of two sources (R177). -/
def dp2 (x : DpArgs) (f : Round → Thread → Val → Val → Flagged Nat) : Addr56 → State → Nat → LaneRes :=
  threadOnly fun th =>
    let (a, b) := dpXy x th
    th.putFlaggedPair x.d (fp64.satIf x.sat (f (resolveMode x.rnd th.frm) th a b)).dword

/-- A function of one source, long-latency (R171). -/
def fun1 (x : FunArgs) (f : Round → Val → Flagged Nat) : Addr56 → State → Nat → LaneRes :=
  longResult fun th =>
    let r := fp32.satIf x.sat (f (resolveMode x.rnd th.frm) (val32 (th.b32 x.b) x.nb x.ab))
    ([(x.d.toNat, BitVec.ofNat 32 r.val)], r.flags)

/-- A step 5 fault of a format entry (R70). -/
def formatFault : LaneRes := .fault (plainFault Code.formatEntry)

/-! ## FP32 -/

/-- FADD (R167): d := x + y, rounded once. -/
def execFadd (h : Hdr) (x : FpArgs) (s : State) : Host.Outcome State Fault Refusal :=
  perThread (.fadd h x) (fp2 x fun m _ a b => fp32.add m a b) s

/-- FSUB (R167): d := x - y. -/
def execFsub (h : Hdr) (x : FpArgs) (s : State) : Host.Outcome State Fault Refusal :=
  perThread (.fsub h x) (fp2 x fun m _ a b => fp32.add m a b.neg) s

/-- FMUL (R167): d := x y. -/
def execFmul (h : Hdr) (x : FpArgs) (s : State) : Host.Outcome State Fault Refusal :=
  perThread (.fmul h x) (fp2 x fun m _ a b => fp32.mul m a b) s

/-- FMA (R167): d := x y + d, rounded once. -/
def execFma (h : Hdr) (x : FpArgs) (s : State) : Host.Outcome State Fault Refusal :=
  perThread (.fma h x)
    (fp2 x fun m th a b => fp32.fma m a b (fp32.decode (th.reg x.d.toNat).toNat)) s

/-- FMIN (R169). -/
def execFmin (h : Hdr) (x : FminArgs) (s : State) : Host.Outcome State Fault Refusal :=
  perThread (.fmin h x) (threadOnly fun th =>
    th.putFlagged x.d (fminmax false (mods32 (th.a32 x.a) x.na x.aa) (mods32 (th.b32 x.b) x.nb x.ab)).word) s

/-- FMAX (R169). -/
def execFmax (h : Hdr) (x : FminArgs) (s : State) : Host.Outcome State Fault Refusal :=
  perThread (.fmax h x) (threadOnly fun th =>
    th.putFlagged x.d (fminmax true (mods32 (th.a32 x.a) x.na x.aa) (mods32 (th.b32 x.b) x.nb x.ab)).word) s

/-- FCMP (R170). -/
def execFcmp (h : Hdr) (x : FcmpArgs) (s : State) : Host.Outcome State Fault Refusal :=
  perThread (.fcmp h x) (threadOnly fun th =>
    let r := fcmpHolds x.cc (val32 (th.a32 x.a) x.na x.aa) (val32 (th.b32 x.b) x.nb x.ab)
    (th.setPred x.p r.1).raise (if r.2 then Flag.invalid else 0)) s

/-- FDIV (R167), long-latency. -/
def execFdiv (h : Hdr) (x : FpArgs) (s : State) : Host.Outcome State Fault Refusal :=
  perThread (.fdiv h x) (longResult fun th =>
    let (a, b) := fpXy x th
    let r := fp32.satIf x.sat (fdivVal (resolveMode x.rnd th.frm) a b)
    ([(x.d.toNat, BitVec.ofNat 32 r.val)], r.flags)) s

/-- FRCP (R171). -/
def execFrcp (h : Hdr) (x : FunArgs) (s : State) : Host.Outcome State Fault Refusal :=
  perThread (.frcp h x) (fun1 x frcpVal) s

/-- FRSQ (R171). -/
def execFrsq (h : Hdr) (x : FunArgs) (s : State) : Host.Outcome State Fault Refusal :=
  perThread (.frsq h x) (fun1 x frsqVal) s

/-- FSQRT (R171). -/
def execFsqrt (h : Hdr) (x : FunArgs) (s : State) : Host.Outcome State Fault Refusal :=
  perThread (.fsqrt h x) (fun1 x fsqrtVal) s

/-- FEXP2 (R171). -/
def execFexp2 (h : Hdr) (x : FunArgs) (s : State) : Host.Outcome State Fault Refusal :=
  perThread (.fexp2 h x) (fun1 x fexp2Val) s

/-- FLOG2 (R171). -/
def execFlog2 (h : Hdr) (x : FunArgs) (s : State) : Host.Outcome State Fault Refusal :=
  perThread (.flog2 h x) (fun1 x flog2Val) s

/-- FSINP (R171). -/
def execFsinp (h : Hdr) (x : FunArgs) (s : State) : Host.Outcome State Fault Refusal :=
  perThread (.fsinp h x) (fun1 x fsinpVal) s

/-- FCOSP (R171). -/
def execFcosp (h : Hdr) (x : FunArgs) (s : State) : Host.Outcome State Fault Refusal :=
  perThread (.fcosp h x) (fun1 x fcospVal) s

/-- FSCALE (R172): a 2^S(b), rounded once. -/
def execFscale (h : Hdr) (x : FscaleArgs) (s : State) : Host.Outcome State Fault Refusal :=
  perThread (.fscale h x) (threadOnly fun th =>
    th.putFlagged x.d (fp32.satIf x.sat
      (fscaleVal (resolveMode x.rnd th.frm) (val32 (th.reg x.a.toNat) x.na x.aa) (sval (th.b32 x.b)))).word) s

/-- FCLASS (R173). -/
def execFclass (h : Hdr) (x : UnArgs) (s : State) : Host.Outcome State Fault Refusal :=
  perThread (.fclass h x) (threadOnly fun th =>
    th.setReg x.d.toNat (BitVec.ofNat 32 (fclassBits (th.reg x.b.toNat).toNat))) s

/-- FRINT (R174). -/
def execFrint (h : Hdr) (x : FrintArgs) (s : State) : Host.Outcome State Fault Refusal :=
  perThread (.frint h x) (threadOnly fun th =>
    th.putFlagged x.d (frintVal (resolveMode x.rnd th.frm) (mods32 (th.b32 x.b) x.nb x.ab)).word) s

/-! ## Conversions -/

/-- FCVT (R175): FORMAT_ENTRY for an invalid or BFP2 entry; entry 3 names pairs. -/
def execFcvt (h : Hdr) (x : FcvtArgs) (s : State) : Host.Outcome State Fault Refusal :=
  perThread (.fcvt h x) (fun _ s t =>
    let src := s.entry t x.es.toNat
    let dst := s.entry t x.ed.toNat
    if !src.v || !dst.v || src.blk != 0 || dst.blk != 0 then formatFault
    else
      .ok (s.modThread t fun th =>
        let bits := if x.es = 3#5 then (th.pair x.a.toNat).toNat else (th.reg x.a.toNat).toNat
        let r := dst.convert (src.decode bits) (resolveMode x.rnd th.frm)
        if x.ed = 3#5 then th.putFlaggedPair x.d r.dword else th.putFlagged x.d r.word)) s

/-- FTOI (R176). -/
def execFtoi (h : Hdr) (x : FtoiArgs) (s : State) : Host.Outcome State Fault Refusal :=
  perThread (.ftoi h x) (threadOnly fun th =>
    th.putFlagged x.d ((intEntry x.ty).convert (fp32.decode (th.reg x.b.toNat).toNat) (resolveMode x.rnd th.frm)).word) s

/-- ITOF (R176). -/
def execItof (h : Hdr) (x : ItofArgs) (s : State) : Host.Outcome State Fault Refusal :=
  perThread (.itof h x) (threadOnly fun th =>
    th.putFlagged x.d (fp32.convert ((intEntry x.ty).decode (th.b32 x.b).toNat) (resolveMode x.rnd th.frm)).word) s

/-! ## FP64 (R177) -/

/-- DADD. -/
def execDadd (h : Hdr) (x : DpArgs) (s : State) : Host.Outcome State Fault Refusal :=
  perThread (.dadd h x) (dp2 x fun m _ a b => fp64.add m a b) s

/-- DMUL. -/
def execDmul (h : Hdr) (x : DpArgs) (s : State) : Host.Outcome State Fault Refusal :=
  perThread (.dmul h x) (dp2 x fun m _ a b => fp64.mul m a b) s

/-- DFMA: the addend is the destination pair. -/
def execDfma (h : Hdr) (x : DpArgs) (s : State) : Host.Outcome State Fault Refusal :=
  perThread (.dfma h x)
    (dp2 x fun m th a b => fp64.fma m a b (fp64.decode (th.pair x.d.toNat).toNat)) s

/-- DCMP (R170, R177). -/
def execDcmp (h : Hdr) (x : DcmpArgs) (s : State) : Host.Outcome State Fault Refusal :=
  perThread (.dcmp h x) (threadOnly fun th =>
    let r := fcmpHolds x.cc (val64 (th.a64 x.a) x.na x.aa) (val64 (th.bFp64 x.b) x.nb x.ab)
    (th.setPred x.p r.1).raise (if r.2 then Flag.invalid else 0)) s

/-! ## Packed pairs (R178) -/

/-- An entry that the packed forms accept. -/
def Entry.packable (e : Entry) : Bool := e.v && e.isFloat && e.s && decide (e.width ≤ 16)

/-- One half of a packed operand. -/
def half (e : Entry) (v : Word) (i : Nat) : Val := e.decode (natBits v.toNat (16 * i) e.width)

/-- A packed operation, half by half (R178). -/
def packed2 (x : PackedArgs) (f : Entry → Round → Val → Val → Val → Flagged Nat) : Addr56 → State → Nat → LaneRes :=
  fun _ s t =>
    let e := s.entry t x.e.toNat
    if !e.packable then formatFault
    else
      .ok (s.modThread t fun th =>
        let m := resolveMode x.rnd th.frm
        let one (i : Nat) : Flagged Nat :=
          e.satIf x.sat (f e m ((half e (th.a32 x.a) i).mods x.na x.aa)
            ((half e (th.reg x.b.toNat) i).mods x.nb x.ab) (half e (th.reg x.d.toNat) i))
        let lo := one 0
        let hi := one 1
        th.putFlagged x.d { val := BitVec.ofNat 32 (lo.val + 65536 * hi.val), flags := lo.flags ||| hi.flags })

/-- HADD2 (R178). -/
def execHadd2 (h : Hdr) (x : PackedArgs) (s : State) : Host.Outcome State Fault Refusal :=
  perThread (.hadd2 h x) (packed2 x fun e m a b _ => e.add m a b) s

/-- HMUL2 (R178). -/
def execHmul2 (h : Hdr) (x : PackedArgs) (s : State) : Host.Outcome State Fault Refusal :=
  perThread (.hmul2 h x) (packed2 x fun e m a b _ => e.mul m a b) s

/-- HFMA2 (R178). -/
def execHfma2 (h : Hdr) (x : PackedArgs) (s : State) : Host.Outcome State Fault Refusal :=
  perThread (.hfma2 h x) (packed2 x fun e m a b c => e.fma m a b c) s

/-! ## Dot products (R179, R180) -/

/-- A dot product of `n` elements spaced `gap` bits apart (R179). -/
def dotN (n gap : Nat) (x : FdotArgs) : Addr56 → State → Nat → LaneRes :=
  fun _ s t =>
    let ea := s.entry t x.ea.toNat
    let eb := s.entry t x.eb.toNat
    if !ea.v || !eb.v || ea.blk != 0 || eb.blk != 0 || decide (gap < ea.width) || decide (gap < eb.width) then formatFault
    else
      .ok (s.modThread t fun th =>
        let ts := (List.range n).map fun i =>
          ({ x := ea.decode (natBits (th.reg x.a.toNat).toNat (gap * i) ea.width),
             y := eb.decode (natBits (th.reg x.b.toNat).toNat (gap * i) eb.width), neg := false } : Term)
        th.putFlagged x.d (exactSum (th.reg x.d.toNat).toNat ts).word)

/-- FDOT2 (R179). -/
def execFdot2 (h : Hdr) (x : FdotArgs) (s : State) : Host.Outcome State Fault Refusal :=
  perThread (.fdot2 h x) (dotN 2 16 x) s

/-- FDOT4 (R179). -/
def execFdot4 (h : Hdr) (x : FdotArgs) (s : State) : Host.Outcome State Fault Refusal :=
  perThread (.fdot4 h x) (dotN 4 8 x) s

/-- CMUL (R85, R180): each component one exact sum. -/
def execCmul (h : Hdr) (x : Pair3Args) (s : State) : Host.Outcome State Fault Refusal :=
  perThread (.cmul h x) (threadOnly fun th =>
    let v (r : Nat) : Val := fp32.decode (th.reg r).toNat
    let a := x.a.toNat
    let b := x.b.toNat
    let d := x.d.toNat
    let re := exactSum (th.reg d).toNat [⟨v a, v b, false⟩, ⟨v (a + 1), v (b + 1), true⟩]
    let im := exactSum (th.reg (d + 1)).toNat [⟨v a, v (b + 1), false⟩, ⟨v (a + 1), v b, false⟩]
    ((th.setReg d (BitVec.ofNat 32 re.val)).setReg (d + 1) (BitVec.ofNat 32 im.val)).raise (re.flags ||| im.flags)) s

end Sys2Proof.Machine
end

