-- ==== Sys2Proof/Machine/Crew.lean ====
section
/-! DEFINITION. Crew collectives, OP 34 to 39 (R29, R157 to R162): a member arrives with its operands as they
stand; the collective performs when every live lane of the crew has arrived at it, and writes the result of
every contributor at once. A member whose guard is false arrives, contributes nothing and goes on (R122). -/

namespace Sys2Proof.Machine

/-! ## Results -/

/-- What a collective writes to one contributor. -/
structure CollRes where
  regs  : List (Nat × Word)
  preds : List (BitVec 3 × Bool)
  flags : Nat
  deriving DecidableEq, Repr

/-- A register result. -/
def collReg (d : Reg) (v : Word) : CollRes := { regs := [(d.toNat, v)], preds := [], flags := 0 }

/-- A predicate result. -/
def collPred (p : BitVec 3) (v : Bool) : CollRes := { regs := [], preds := [(p, v)], flags := 0 }

/-- The contributor in a lane. -/
def contributor (cs : List Arrival) (lane : Nat) : Option Arrival := cs.find? fun x => x.lane == lane

/-- SHFL (R158): the value of the source lane, or the own one where that lane holds no contributor. -/
def shflValue (src : Nat) (cs : List Arrival) (x : Arrival) : Word := ((contributor cs src).getD x).a

/-- The source lanes of SHFL (R158). -/
def shflIdxLane (x : Arrival) : Nat := natBits x.b.toNat 0 5
def shflUpLane (x : Arrival) : Nat := if x.b.toNat ≤ x.lane then x.lane - x.b.toNat else x.lane
def shflDownLane (x : Arrival) : Nat := if x.lane + x.b.toNat ≤ 31 then x.lane + x.b.toNat else x.lane
def shflXorLane (x : Arrival) : Nat := Nat.xor x.lane (natBits x.b.toNat 0 5)

/-- The ballot of VOTE (R159). -/
def ballot (cs : List Arrival) : Word :=
  cs.foldl (fun w x => if bitOf x.a 0 then w ||| (1#32 <<< x.lane) else w) 0#32

/-- FADD.rn over FP32 patterns (R160, R167). -/
def faddWord (a b : Word) : Flagged Word := (fp32.add .rn (fp32.decode a.toNat) (fp32.decode b.toNat)).word

/-- FMIN and FMAX over FP32 patterns (R160, R169). -/
def fminmaxWord (wantMax : Bool) (a b : Word) : Flagged Word := (fminmax wantMax a.toNat b.toNat).word

/-- A value without flags. -/
def quiet (v : Word) : Flagged Word := { val := v, flags := 0 }

/-- The lesser or the greater under TY. -/
def minWord (ty : IntTy) (a b : Word) : Word := if readTy ty a ≤ readTy ty b then a else b
def maxWord (ty : IntTy) (a b : Word) : Word := if readTy ty b ≤ readTy ty a then a else b

/-- The operation of CRED (R160). -/
def credFold (op : CredOp) (ty : IntTy) (a b : Word) : Flagged Word :=
  match op with
  | .add => quiet (a + b)
  | .min => quiet (minWord ty a b)
  | .max => quiet (maxWord ty a b)
  | .and => quiet (a &&& b)
  | .or => quiet (a ||| b)
  | .xor => quiet (a ^^^ b)
  | .fadd => faddWord a b
  | .fmin => fminmaxWord false a b
  | .fmax => fminmaxWord true a b

/-- The operation of CSCAN (R161). -/
def scanFold (op : ScanOp) (ty : IntTy) (a b : Word) : Flagged Word :=
  match op with
  | .add => quiet (a + b)
  | .min => quiet (minWord ty a b)
  | .max => quiet (maxWord ty a b)
  | .and => quiet (a &&& b)
  | .or => quiet (a ||| b)
  | .xor => quiet (a ^^^ b)
  | .fadd => faddWord a b

/-- A step of a fold: the value so far, with the flags so far. -/
def foldStep (f : Word → Word → Flagged Word) (x y : Flagged Word) : Flagged Word :=
  let r := f x.val y.val
  { val := r.val, flags := orFlags r.flags (orFlags x.flags y.flags) }

/-- Two places of the tree combined; an absent one computes nothing (R160). -/
def treeNode (f : Word → Word → Flagged Word) (x y : Option (Flagged Word)) : Option (Flagged Word) :=
  match x, y with
  | none, y => y
  | x, none => x
  | some x, some y => some (foldStep f x y)

/-- One level of the tree: neighbours combined. -/
def treeLevel (f : Word → Word → Flagged Word) : List (Option (Flagged Word)) → List (Option (Flagged Word))
  | x :: y :: rest => treeNode f x y :: treeLevel f rest
  | l => l

/-- The fixed pairwise tree over the 32 lanes (R160). -/
def credTree (f : Word → Word → Flagged Word) (cs : List Arrival) : Flagged Word :=
  let leaves := (List.range 32).map fun l => (contributor cs l).map fun x => quiet x.b
  let l := treeLevel f (treeLevel f (treeLevel f (treeLevel f (treeLevel f leaves))))
  ((l.headD none).getD (quiet 0#32))

/-- The contributors at the lanes up to one, in lane order. -/
def lanesUpTo (cs : List Arrival) (lane : Nat) : List Arrival := (List.range (lane + 1)).filterMap (contributor cs)

/-- The inclusive scan of a lane (R161). -/
def scanTo (f : Word → Word → Flagged Word) (cs : List Arrival) (lane : Nat) : Flagged Word :=
  match lanesUpTo cs lane with
  | [] => quiet 0#32
  | x :: xs => xs.foldl (fun acc y => foldStep f acc (quiet y.b)) (quiet x.b)

/-- MATCH (R162): the contributors whose b equals a value. -/
def matchMask (cs : List Arrival) (v : Word) : Word :=
  cs.foldl (fun w x => if x.b = v then w ||| (1#32 <<< x.lane) else w) 0#32

/-- The lane of the lowest contributor (R162). -/
def lowestLane (cs : List Arrival) : Nat := cs.foldl (fun n x => min n x.lane) 32

/-- A flagged result of a contributor. -/
def collFlagged (d : Reg) (v : Flagged Word) : CollRes := { regs := [(d.toNat, v.val)], preds := [], flags := v.flags }

/-- What a contributor receives when the collective performs; other instructions are no collectives. -/
def collResult (cs : List Arrival) (a : Arrival) : CollRes :=
  match a.instr with
  | .shflIdx _ x => collReg x.d (shflValue (shflIdxLane a) cs a)
  | .shflUp _ x => collReg x.d (shflValue (shflUpLane a) cs a)
  | .shflDown _ x => collReg x.d (shflValue (shflDownLane a) cs a)
  | .shflXor _ x => collReg x.d (shflValue (shflXorLane a) cs a)
  | .voteAll _ x => collPred x.p (cs.all fun c => bitOf c.a 0)
  | .voteAny _ x => collPred x.p (cs.any fun c => bitOf c.a 0)
  | .voteBallot _ x => collReg x.d (ballot cs)
  | .voteCount _ x => collReg x.d (BitVec.ofNat 32 (popc32 (ballot cs)))
  | .cred _ op x => collFlagged x.d (credTree (credFold op x.ty) cs)
  | .cscan _ x => collFlagged x.d (scanTo (scanFold x.op x.ty) cs a.lane)
  | .matchLanes _ x => collReg x.d (matchMask cs a.b)
  | .elect _ x => collPred x.p (a.lane == lowestLane cs)
  | _ => { regs := [], preds := [], flags := 0 }

/-! ## Arrival and performance (R29) -/

/-- The lanes of a crew that hold a thread that has not exited. -/
def State.liveLanes (s : State) (crew : Nat) : List Nat :=
  (s.threads.filter fun (p : Nat × Thread) => crewOf p.1 == crew && p.2.hold != .exited).map fun p => laneOf p.1

/-- The earliest pending arrival of each lane. -/
def Crew.firstOf (c : Crew) (lanes : List Nat) : List Arrival :=
  lanes.filterMap fun l => c.arrivals.find? fun x => x.lane == l

/-- The arrivals that the collective performs with: one for every live lane, all at one PC. -/
def State.gathered (s : State) (crew : Nat) : Option (List Arrival) :=
  let lanes := s.liveLanes crew
  let firsts := (s.crew crew).firstOf lanes
  match firsts with
  | [] => none
  | x :: _ => if firsts.length = lanes.length ∧ firsts.all (fun y => y.pc == x.pc) then some firsts else none

/-- A contributor receives its result, and its collective completes (R157). -/
def Thread.collDone (th : Thread) (a : Arrival) (r : CollRes) : Thread :=
  let th := (th.setRegs r.regs).raise r.flags
  let th := r.preds.foldl (fun (th : Thread) (p : BitVec 3 × Bool) => th.setPred p.1 p.2) th
  { th with longs := th.longs.filter fun o => o.order != a.order }

/-- Pending collectives of a crew perform, oldest first; each takes one arrival of every lane, so that a lane which has gone
on to the next one stands there already (R29). -/
def State.performCrew (s : State) (crew : Nat) : Nat → State
  | 0 => s
  | fuel + 1 =>
    match s.gathered crew with
    | none => s
    | some firsts =>
      let cs := firsts.filter (·.counts)
      let s := s.setCrew crew { s.crew crew with arrivals := firsts.foldl List.erase (s.crew crew).arrivals }
      let s := cs.foldl (fun (s : State) (a : Arrival) =>
        s.modThread (32 * crew + a.lane) fun th => th.collDone a (collResult cs a)) s
      s.performCrew crew fuel

/-- The crew's collectives tested again, after an arrival or an EXIT (R28, R29). -/
def State.retestCrew (s : State) (crew : Nat) : State := s.performCrew crew ((s.crew crew).arrivals.length)

/-- An arrival noted. -/
def State.arrive (s : State) (t : Nat) (a : Arrival) : State :=
  let k := crewOf t
  (s.setCrew k { s.crew k with arrivals := (s.crew k).arrivals ++ [a] }).retestCrew k

/-- The arrival of a contributor, which becomes outstanding (R128, R157). -/
def collArrive (i : Instr) (pick : Thread → Word × Word) : Addr56 → State → Nat → LaneRes :=
  fun pc s t =>
    match s.thread t with
    | none => .ok s
    | some th =>
      let v := pick th
      let s := s.setThread t (th.begin pc s.issueWord (.coll i))
      .ok (s.arrive t { lane := laneOf t, pc := pc, instr := i, counts := true, a := v.1, b := v.2, order := th.order })

/-- The arrival of a member that contributes nothing: a false guard, or a handler that returned past the
collective (R122, R375). -/
def emptyArrival (t : Nat) (pc : Addr56) (i : Instr) : Arrival :=
  { lane := laneOf t, pc := pc, instr := i, counts := false, a := 0#32, b := 0#32, order := 0 }

/-- One member's part of a collective (R122, R157, R375). -/
def collLane (i : Instr) (pick : Thread → Word × Word) (iss : Issue) (s : State) (t : Nat) : State :=
  match s.thread t with
  | none => s
  | some th =>
    let s' := runLane i iss (collArrive i pick) s t
    if th.guard (headerOf iss.word) = false then s'.arrive t (emptyArrival t iss.pc i)
    else if (precheck s t th i).isSome then s'.modThread t fun th => { th with missed := some iss.pc }
    else s'

/-- A collective for every member of its group. -/
def collective (i : Instr) (pick : Thread → Word × Word) (s : State) : Host.Outcome State Fault Refusal :=
  match s.sched.issue with
  | none => .next s
  | some iss => .next (iss.members.foldl (collLane i pick iss) s)

/-- A predicate as a value. -/
def predWord (th : Thread) (p : BitVec 3) : Word := BitVec.ofNat 32 (bit (th.pred p))

/-! ## The instructions -/

/-- SHFL.idx (R158). -/
def execShflIdx (h : Hdr) (x : ShflArgs) (s : State) : Host.Outcome State Fault Refusal :=
  collective (.shflIdx h x) (fun th => (th.reg x.a.toNat, th.b32 x.b)) s

/-- SHFL.up (R158). -/
def execShflUp (h : Hdr) (x : ShflArgs) (s : State) : Host.Outcome State Fault Refusal :=
  collective (.shflUp h x) (fun th => (th.reg x.a.toNat, th.b32 x.b)) s

/-- SHFL.down (R158). -/
def execShflDown (h : Hdr) (x : ShflArgs) (s : State) : Host.Outcome State Fault Refusal :=
  collective (.shflDown h x) (fun th => (th.reg x.a.toNat, th.b32 x.b)) s

/-- SHFL.xor (R158). -/
def execShflXor (h : Hdr) (x : ShflArgs) (s : State) : Host.Outcome State Fault Refusal :=
  collective (.shflXor h x) (fun th => (th.reg x.a.toNat, th.b32 x.b)) s

/-- VOTE.all (R159). -/
def execVoteAll (h : Hdr) (x : VotePredArgs) (s : State) : Host.Outcome State Fault Refusal :=
  collective (.voteAll h x) (fun th => (predWord th x.pa, 0#32)) s

/-- VOTE.any (R159). -/
def execVoteAny (h : Hdr) (x : VotePredArgs) (s : State) : Host.Outcome State Fault Refusal :=
  collective (.voteAny h x) (fun th => (predWord th x.pa, 0#32)) s

/-- VOTE.ballot (R159). -/
def execVoteBallot (h : Hdr) (x : VoteRegArgs) (s : State) : Host.Outcome State Fault Refusal :=
  collective (.voteBallot h x) (fun th => (predWord th x.pa, 0#32)) s

/-- VOTE.count (R159). -/
def execVoteCount (h : Hdr) (x : VoteRegArgs) (s : State) : Host.Outcome State Fault Refusal :=
  collective (.voteCount h x) (fun th => (predWord th x.pa, 0#32)) s

/-- CRED (R160). -/
def execCred (h : Hdr) (op : CredOp) (x : CredArgs) (s : State) : Host.Outcome State Fault Refusal :=
  collective (.cred h op x) (fun th => (0#32, th.b32 x.b)) s

/-- CSCAN (R161). -/
def execCscan (h : Hdr) (x : CscanArgs) (s : State) : Host.Outcome State Fault Refusal :=
  collective (.cscan h x) (fun th => (0#32, th.b32 x.b)) s

/-- MATCH (R162). -/
def execMatchLanes (h : Hdr) (x : UnArgs) (s : State) : Host.Outcome State Fault Refusal :=
  collective (.matchLanes h x) (fun th => (0#32, th.reg x.b.toNat)) s

/-- ELECT (R162). -/
def execElect (h : Hdr) (x : ElectArgs) (s : State) : Host.Outcome State Fault Refusal :=
  collective (.elect h x) (fun _ => (0#32, 0#32)) s

end Sys2Proof.Machine
end

