-- ==== Sys2Proof/Machine/MemOps.lean ====
section
/-! DEFINITION. Memory below the instructions: the walk (R52), the remap filter (R58), permission checks (R50, R306,
R392), what leaves the caches (R4, R269, R285), the slices' miss tables and replay windows (R279, R280), grants (R283),
Mirror replicas (R61 to R63), and what a performed write wakes (R219, R262, R265). -/

namespace Sys2Proof.Machine

/-- What a walk finds (R49, R58, R366). -/
inductive Trans where
  | leaf (pte : DWord)
  | missing
  | synonym (pte : DWord)
  deriving DecidableEq, Repr

/-- A leaf that the front end accepts, or an unregistered secondary one (R58). -/
def classify (p : Partition) (asid va : Nat) (pte : DWord) : Trans :=
  if ptePri pte || (remapOf p asid va).isSome then .leaf pte else .synonym pte

/-- The walk of an address under a partition's tables (R52); a leaf that names memory which the package does not have
serves no engine and no drained entry (log 21). -/
def State.walkNow (s : State) (p : Partition) (asid va : Nat) : Trans :=
  match (p.rootOf asid).bind fun r => walkFrom s.dramWord r va walkLevels with
  | none => .missing
  | some pte => if physExists s.caps pte va then classify p asid va pte else .missing

/-- A TLB entry of the front end of an isle that covers an address (R49). -/
def State.tlb? (s : State) (isle asid va : Nat) : Option DWord :=
  (s.mem.tlb.find? fun e =>
    e.isle == isle && e.asid == asid && decide (e.va / pageBytes (ptePs e.pte) = va / pageBytes (ptePs e.pte))).map
    (·.pte)

/-- The attributes that the front end of a home slice holds: for a Mirror page, that of the replica of an agent's die
(R48, R49). -/
def State.tlbAttrs (s : State) (p : Partition) (asid va die : Nat) : Option DWord :=
  let line := (primaryForm p asid va).2 / 64
  match (s.tlb? (isleOf (p.replicaHome line die)) asid va).filter (isMirror p) with
  | some e => some e
  | none => (s.tlb? (p.frontEnd asid va) asid va).filter fun e => !isMirror p e

/-- The tag of a line at its home slice, as an agent of a die sees it (R47, R48). -/
def State.l2Tag? (s : State) (p : Partition) (asid line die : Nat) : Option L2Tag :=
  s.mem.l2.find? fun e => e.asid == asid && e.line == line && e.slice == p.homeOf e.pte line die

/-- The attributes at the first level that holds them: the L1, the home slice, the front end's TLB (R50). A
secondary page is cached nowhere (R58). -/
def State.attrs (s : State) (core : Nat) (p : Partition) (asid va : Nat) : Option DWord :=
  let fromTlb := s.tlbAttrs p asid va (dieOf core)
  if (remapOf p asid va).isSome then fromTlb
  else
    match (s.core core).line? asid (va / 64) with
    | some l => some l.pte
    | none =>
      match s.l2Tag? p asid (va / 64) (dieOf core) with
      | some e => some e.pte
      | none => fromTlb

/-- The attributes stand in the core's L1 (R186). -/
def State.l1Hit (s : State) (core asid va : Nat) : Bool := ((s.core core).line? asid (va / 64)).isSome

/-- A die whose agents answer with an error reply: under warm reset, or out of service; or an isle in RETAIN or
OFF (R394, R417, R418). -/
def State.isleAbsent (s : State) (isle : Nat) : Bool :=
  s.fw.reset.contains (dieOfIsle isle) || s.fw.dead.contains (dieOfIsle isle)
    || (s.isle isle).power == .retain || (s.isle isle).power == .off

/-- The agent that holds the physical page of a leaf is absent: the front end of a channel group, of 32 GiB each in the
order of the isles, or the base-die port of a quarter of the second tier (R4, R49, R64, R394; DEDUCED: log 50). -/
def State.memoryAbsent (s : State) (pte : DWord) (va : Nat) : Bool :=
  if pteTier pte = 0 then s.isleAbsent (physOf pte va / 2 ^ 35)
  else if pteTier pte = 1 then s.fw.reset.contains (physOf pte va / 2 ^ 38) || s.fw.dead.contains (physOf pte va / 2 ^ 38)
  else false

/-- An agent that an access of a die must reach is absent: the home slice and its front end, and, for a line that the
home does not hold, what holds its page (R49, R64, R394). -/
def State.lineAbsent (s : State) (p : Partition) (asid va : Nat) (pte : DWord) (die : Nat) : Bool :=
  let (a, v) := primaryForm p asid va
  s.isleAbsent (isleOf (p.homeOf pte (v / 64) die))
    || ((uncached pte || (s.l2Tag? p a (v / 64) die).isNone) && s.memoryAbsent pte va)

/-- The kinds of check at R50. -/
inductive AccessKind where
  | load
  | store
  | atomic
  | fetch
  deriving DecidableEq, Repr

/-- A slot that the partition may use and that holds a key (R306, R392). -/
def State.keyOk (s : State) (p : Partition) (pte : DWord) : Bool :=
  p.mayUseKey (pteEd pte) && Sparse.get s.fw.keys (pteEd pte) != 0#512

/-- No connection that has not failed serves a fabric-window page (R292). -/
def State.windowFailed (s : State) (part : Nat) (pte : DWord) (va : Nat) : Bool :=
  let entry := Sparse.get (s.part part).pm.windows (physOf pte va / 2 ^ 36)
  !(s.net.conns.any fun c => c.2.part == part && c.2.peer == slice entry 128 128 && !c.2.failed)

/-- The permission check (R50) in the order this model takes: the permission bit, the encryption domain, the
reduction window, an absent home, a failed connection (Table 23-3). DEDUCED: log 15. RWIN is read on a fabric window alone
(DESIGN CHOICE: log 21). -/
def State.permit (s : State) (part core : Nat) (k : AccessKind) (asid va : Nat) (pte : DWord) : Option Nat :=
  let p := s.part part
  if k = .fetch ∧ !pteEx pte then some 3
  else if (k = .load ∨ k = .atomic) ∧ !pteRd pte then some 1
  else if (k = .store ∨ k = .atomic) ∧ !pteWr pte then some 2
  else if !s.keyOk p pte then some 4
  else if pteRwin pte ∧ pteTier pte = 2 then some 7
  else if s.lineAbsent p asid va pte (if k = .load ∨ k = .fetch then dieOf core else p.primaryDie) then some 5
  else if pteTier pte = 2 ∧ s.windowFailed part pte va then some 8
  else none

/-- The writer of an engine's counter updates that stand for no thread. -/
def noThread : Nat := 2 ^ 22

/-- The number under which a request writes: above every thread handle. -/
def reqWriter (id : Nat) : Nat := 2 ^ 22 + 1 + id

/-! ## Watches, counters and wait conditions -/

/-- An event of a watch noted; an MWAIT returns at the end of the cycle, with the lowest reason among those that fell in
it (R200). -/
def Thread.watchEvent (th : Thread) (reason : Nat) : Thread :=
  { th with watch := th.watch.map fun w => { w with events := addOnce w.events reason } }

/-- WATCH_WRITE_WAKE and its kin (R265, R266): the event reaches every thread that watches the line and that
`who` admits. -/
def State.wake (s : State) (space : Space) (line reason : Nat) (who : Nat → Bool) : State :=
  s.threads.foldl
    (fun s p =>
      match p.2.watch with
      | none => s
      | some w =>
        if w.space = space ∧ w.line = line ∧ !w.overflow ∧ who p.1 then
          s.modThread p.1 fun th => th.watchEvent reason
        else s) s

/-- The newest value of a `.glb` word at its home, for CWAIT and wait conditions (R219, R262). -/
def State.homeWord (s : State) (part asid va : Nat) : DWord :=
  match s.walkNow (s.part part) asid va with
  | .leaf pte => BitVec.ofNat 64 ((s.lineFor pte (dramKey pte va)).toNat / 2 ^ (8 * (va % 64)))
  | _ => 0#64

/-- CWAIT completes with the value it saw, and has the effect of INSP.s (R219). -/
def State.endCwait (s : State) (t : Nat) (d : Reg) (v : DWord) : State :=
  let s := s.modThread t fun th => { th.setPair d.toNat v with hold := .none, pc := nextPc th.pc }
  (s.dropWaits t).inspSelf t

/-- CWAIT_REEVALUATE (R219): waiting CWAITs whose counter lies in the line written are tested again. -/
def State.retestCwaits (s : State) (asid line : Nat) : State :=
  s.threads.foldl
    (fun s p =>
      match p.2.hold with
      | .wait (.cwait va target d) =>
        let part := s.partOf p.1
        let f := primaryForm (s.part part) (s.asidOf p.1) va
        if f.1 = asid ∧ f.2 / 64 = line ∧ target.toNat ≤ (s.homeWord part (s.asidOf p.1) va).toNat then
          s.endCwait p.1 d (s.homeWord part (s.asidOf p.1) va)
        else s
      | _ => s) s

/-- The context of a job's virtual device (R300). -/
def State.asidOfJob (s : State) (j : Job) : Nat :=
  ((Tab.get? (s.part j.part).vdevs j.vdev).map (·.asid)).getD 0

/-- The wait conditions of a job that do not yet hold (R37, R262). -/
def State.openWaits (s : State) (j : Job) : List (Nat × DWord) :=
  j.waits.filter fun w => decide ((s.homeWord j.part (s.asidOfJob j) w.1).toNat < w.2.toNat)

/-- A performed write evaluates the wait conditions whose counter it may have changed (R262). -/
def State.retestJobs (s : State) (asid line : Nat) : State :=
  let names (j : Job) (va : Nat) : Bool :=
    let f := primaryForm (s.part j.part) (s.asidOfJob j) va
    f.1 == asid && f.2 / 64 == line
  { s with jobs := s.jobs.map fun (p : Nat × Job) =>
      if p.2.waits.any (fun w => names p.2 w.1) then (p.1, { p.2 with waits := s.openWaits p.2 }) else p }

/-- A write to a page that is cached nowhere evaluates every waiting CWAIT and wait condition: contexts share such
memory (R64, R219, R262). -/
def State.retestShared (s : State) : State :=
  let s := s.threads.foldl
    (fun (s : State) p =>
      match p.2.hold with
      | .wait (.cwait va _ _) =>
        let f := primaryForm (s.part (s.partOf p.1)) (s.asidOf p.1) va
        s.retestCwaits f.1 (f.2 / 64)
      | _ => s) s
  { s with jobs := s.jobs.map fun (p : Nat × Job) => (p.1, { p.2 with waits := s.openWaits p.2 }) }

/-- Threads that `who` admits and whose open section marks a line lose it: their sections fail before anything
else happens (Table 10-3). -/
def State.loseMarksOf (s : State) (asid line reason : Nat) (who : Nat → Bool) : State :=
  s.sooner ((s.threads.filter fun p =>
    who p.1 && (match p.2.choice.elide with
      | none => false
      | some x => x.marked.contains (asid * 2 ^ 50 + line))).map
    fun p => .event (.elideSectionFail p.1 reason))

/-- Threads other than the writer lose a mark (Table 10-3). -/
def State.loseMarks (s : State) (asid line writer reason : Nat) : State :=
  s.loseMarksOf asid line reason fun t => t != writer

/-- What a write performed to a `.glb` line tells its watchers and what waits on it (R219, R262, R265). -/
def State.told (s : State) (p : Partition) (asid va : Nat) (pte : DWord) (who : Nat → Bool) : State :=
  let (a, v) := primaryForm p asid va
  let s := s.wake .glb (watchLine p asid va pte) 0 who
  let s := if uncached pte then s.retestShared else s
  (s.retestCwaits a (v / 64)).retestJobs a (v / 64)

/-- What a write performed to a `.glb` line brings about (R207, R219, R262, R265). -/
def State.written (s : State) (p : Partition) (asid va : Nat) (pte : DWord) (writer : Nat) (who : Nat → Bool) :
    State :=
  let (a, v) := primaryForm p asid va
  (s.told p asid va pte who).loseMarks a (v / 64) writer 1

/-! ## Coherence: recalls, merges, grants (R282 to R285) -/

/-- A line that leaves the L1s and slices by a merge takes an entry of the write-back reserve of its home until the front
end has accepted it (R280). -/
def State.reserveLine (s : State) (slice asid line : Nat) : State :=
  s.setMem { s.mem with reserve := s.mem.reserve ++ [{ slice := slice, asid := asid, line := line }] }

/-- MERGE_RECEIVE (R285): the home applies a holder's grant-mask bytes and clears its grant and record, and the write is
one of no thread (R265). Sections of the holder's core have seen these bytes as they were drained (R207). -/
def State.mergeLine (s : State) (part core asid line : Nat) : State :=
  match (s.core core).line? asid line with
  | none => s
  | some l =>
    if l.grant = 0#64 then s
    else
      let s := (s.mergeData core asid line l).reserveLine ((s.part part).home line) asid line
      (s.told (s.part part) asid (line * 64) l.pte fun _ => true).loseMarksOf asid line 1 fun t => coreOf t != core

/-- The home merges every holder whose grant meets the bytes of a mask, but for one core (R285). -/
def State.mergeOthers (s : State) (part asid line mask : Nat) (but : Option Nat) : State :=
  match s.dir? asid line with
  | none => s
  | some e =>
    e.sharers.foldl
      (fun s c =>
        if but = some c || (s.grantOf c asid line).toNat &&& mask = 0 then s else s.mergeLine part c asid line) s

/-- The home recalls an owned copy: the owner loses the line, a section that marked it fails, and a watcher of
the copy wakes with reason 1 (R105, R200, R282). -/
def State.recallOwned (s : State) (asid line : Nat) (but : Option Nat) : State :=
  match s.dir? asid line with
  | none => s
  | some e =>
    if e.state ≠ .owned then s
    else
      let owners := e.sharers.filter fun c =>
        but != some c && (match (s.core c).line? asid line with | none => false | some l => l.owned)
      let s := owners.foldl
        (fun s c =>
          let s := s.dropLines c fun l => l.asid == asid && l.line == line
          (s.wake .glb (asid * 2 ^ 50 + line) 1 fun t => coreOf t == c).loseMarks asid line noThread 1) s
      match s.dir? asid line with
      | none => s
      | some e => s.setDir { e with state := .shared }

/-! ## What leaves the caches (R4, R269) -/

/-- A watched, marked or privatised copy leaves the L1 of a core to make room (R200, R207, R285). -/
def State.loseLine (s : State) (part core asid line : Nat) : State :=
  match (s.core core).line? asid line with
  | none => s
  | some _ =>
    let s := s.mergeLine part core asid line
    let s := s.dropLines core fun x => x.asid == asid && x.line == line
    (s.wake .glb (asid * 2 ^ 50 + line) 1 fun t => coreOf t == core).loseMarksOf asid line 2 fun t => coreOf t == core

/-- Lines of an L1: 256 KiB (R4). -/
def l1Lines : Nat := 4096

/-- Room for one more line in a core's L1. Which line leaves a full one is no rule of the spec: a free value picks it
(log 40). -/
def State.roomL1 (s : State) (part core : Nat) : State :=
  let ls := (s.core core).l1
  if ls.length < l1Lines then s
  else
    let (w, s) := s.freeWord
    match ls[w.toNat % ls.length]? with
    | none => s
    | some l => s.loseLine part core l.asid l.line

/-- Lines of an L2 slice: 4 MiB (R4). -/
def sliceLines : Nat := 65536

/-- L2QUOTA of a virtual device (Table 13-2). -/
def Partition.l2quota (p : Partition) (vdev : Nat) : Nat :=
  ((Tab.get? p.vdevs vdev).map fun v => natBits v.desc.toNat 160 16).getD 0

/-- The lines that a virtual device of a partition has at a slice (R269). -/
def State.sliceCount (s : State) (slice vdev : Nat) : Nat :=
  (s.mem.l2.filter fun e => e.slice == slice && e.vdev == vdev).length

/-- A virtual device is over its slice target (R269). -/
def State.overTarget (s : State) (p : Partition) (slice vdev : Nat) : Bool :=
  p.l2quota vdev != 0 && decide (p.l2quota vdev * 1024 / (32 * p.size) < s.sliceCount slice vdev)

/-- A line has an entry in the miss table of its slice (R280). -/
def State.missing? (s : State) (slice asid line : Nat) : Bool :=
  s.mem.misses.contains { slice := slice, asid := asid, line := line }

/-- A core holds a line of a commit in progress (R206). -/
def State.underCommit (s : State) (asid line : Nat) : Bool :=
  s.threads.any fun p => (match p.2.hold with | .finishing .elend => true | _ => false)
    && p.2.psq.any fun e => e.tent && e.space == .glb && e.block / 4 == line && s.asidOf p.1 == asid

/-- The lines of a full slice among which the victim of a fill is chosen (R269). -/
def State.victims (s : State) (p : Partition) (slice : Nat) : List L2Tag :=
  let ls := s.mem.l2.filter fun e => e.slice == slice && !s.missing? slice e.asid e.line && !s.underCommit e.asid e.line
  let above := ls.filter fun e => s.overTarget p slice e.vdev
  if above.isEmpty then ls else above

/-- Lines of 64 bytes moved between a front end and its tier, counted while the partition is resident (R310); the lines of
the bring-up partition never leave its slices (R317). -/
def State.moved (s : State) (part : Nat) (pte : DWord) (n : Nat) : State :=
  s.modPart part fun p =>
    { p with usage := if !p.resident || p.bring then p.usage
                      else if pteTier pte = 0 then { p.usage with tier1 := p.usage.tier1 + 64 * n }
                      else if pteTier pte = 1 then { p.usage with tier2 := p.usage.tier2 + 64 * n } else p.usage }

/-- The tag of a line notes a write, which goes to the tier when the line leaves the slice (R310). -/
def State.dirtyL2 (s : State) (p : Partition) (asid line : Nat) (pte : DWord) (die : Nat) : State :=
  let slice := p.homeOf pte line die
  s.setMem { s.mem with l2 := s.mem.l2.map fun (e : L2Tag) =>
    if e.slice = slice ∧ e.asid = asid ∧ e.line = line then { e with dirty := true } else e }

/-- Room for one more line at a slice. The slice's replacement order and its sets are no rules of the spec: a free value
ranks the lines that R269 lets it choose (log 40); a privatised victim is merged. -/
def State.roomL2 (s : State) (part slice : Nat) : State :=
  if (s.mem.l2.filter fun e => e.slice == slice).length < sliceLines then s
  else
    let vs := s.victims (s.part part) slice
    let (w, s) := s.freeWord
    match vs[w.toNat % vs.length]? with
    | none => s
    | some v =>
      let s := s.mergeOthers part v.asid v.line (2 ^ 64 - 1) none
      let s := if v.dirty then s.moved part v.pte 1 else s
      s.setMem { s.mem with l2 := s.mem.l2.filter fun e => !(e.slice == slice && e.asid == v.asid && e.line == v.line) }

/-! ## Miss tables and replay windows (R279, R280) -/

/-- Entries of a slice's miss table and of its write-back reserve. -/
def missEntries : Nat := 64
def reserveEntries : Nat := 16

/-- The merges that an operation on some bytes of a line demands first (R285). -/
def State.mergesNeeded (s : State) (asid line mask : Nat) (but : Option Nat) : Nat :=
  match s.dir? asid line with
  | none => 0
  | some e => (e.sharers.filter fun c => but != some c && (s.grantOf c asid line).toNat &&& mask != 0).length

/-- A home slice has room for an operation on a line: a miss finds or joins an entry, and each merge that it demands
finds one in the reserve, which takes them in turn (R280). -/
def State.sliceRoom (s : State) (p : Partition) (asid va : Nat) (pte : DWord) (mask die : Nat) (but : Option Nat) : Bool :=
  let (a, v) := primaryForm p asid va
  let slice := p.homeOf pte (v / 64) die
  let used := (s.mem.reserve.filter fun e => e.slice == slice).length
  uncached pte
    || (((s.l2Tag? p a (v / 64) die).isSome || s.missing? slice a (v / 64)
          || decide ((s.mem.misses.filter fun e => e.slice == slice).length < missEntries))
        && (used == 0 || decide (used + s.mergesNeeded a (v / 64) mask but ≤ reserveEntries)))

/-- A replay window that has sent nothing. -/
def Link.fresh : Link :=
  { next := 1, queue := [], nacking := false, unacked := [], refused := none, backoff := 64, resend := none, nacks := 0 }

/-- A REQ entry offered to its receiver, which has room for it or not: whether it is accepted, whether a NACK goes back
for the entry that stands first, and the window after it (R279). -/
def Link.offer (l : Link) (r : ReqRef) (room : Bool) : Bool × Option Nat × Link :=
  match l.queue with
  | [] => if room then (true, none, { l with next := l.next + 1 })
          else (false, some l.next, { l with next := l.next + 1, queue := [(l.next, r)], nacking := true, unacked := [l.next] })
  | (n, q) :: rest =>
    if q = r then
      if l.nacking || l.resend.isSome then (false, none, l)
      else if room then
        (true, none, { l with queue := rest, unacked := rest.map (·.1), refused := none, backoff := 64, nacks := 0 })
      else (false, some n, { l with nacking := true })
    else if (rest.any fun x => x.2 == r) || decide (16 ≤ l.queue.length) then (false, none, l)
    else
      (false, none, { l with next := l.next + 1, queue := l.queue ++ [(l.next, r)], unacked := l.unacked ++ [l.next] })

/-- What a REQ entry asks for still stands: an outstanding load or atomic, a queued store, an STF in progress, or a request
(R279). -/
def State.reqStands (s : State) : ReqRef → Bool
  | .load t n => ((s.thread t).map fun th => th.longs.any fun o => o.order == n).getD false
  | .atomic t n => ((s.thread t).map fun th => th.longs.any fun o => o.order == n).getD false
  | .head c => !(s.core c).wtq.isEmpty
  | .stf t => ((s.thread t).map fun th => match th.hold with | .finishing (.stf _ _ _ _ _ _) => true | _ => false).getD false
  | .request q => ((s.request q).map fun r => !r.saved).getD false

/-- A window that is not waiting for a resend loses the entries that nothing asks for any more: their receiver has accepted
them, and nothing came of it. -/
def State.pruneLink (s : State) (l : Link) : Link :=
  if l.nacking || l.resend.isSome then l
  else
    let q := l.queue.filter fun x => s.reqStands x.2
    { l with queue := q, unacked := q.map (·.1) }

/-- A REQ entry has been sent and not accepted. -/
def State.reqSent (s : State) (r : ReqRef) : Bool := s.net.links.any fun l => l.2.queue.any fun x => x.2 == r

/-- The number of the replay window of a sender towards a slice: 1,024 x sender + destination; cores, slices, front ends,
second-tier ports and copy engines in turn are senders. -/
def linkOf (sender slice : Nat) : Nat := 1024 * sender + slice

/-- A REQ flit reaches a home slice: it is performed there, or refused and sent again later (R279). -/
def State.sendReq (s : State) (sender slice : Nat) (r : ReqRef) (room : Bool) : Bool × State :=
  let k := linkOf sender slice
  match Tab.get? s.net.links k with
  | none => if room then (true, s) else
      let o := Link.fresh.offer r room
      (false, (s.setNet { s.net with links := Tab.set s.net.links k o.2.2 }).later
        (o.2.1.toList.map fun n => .event (.reqNackReceive k n)))
  | some l =>
    let o := (s.pruneLink l).offer r room
    (o.1, (s.setNet { s.net with links := Tab.set s.net.links k o.2.2 }).later
      (o.2.1.toList.map fun n => .event (.reqNackReceive k n)))

/-- A REQ flit of a sender for a line reaches the line's home (R279, R280). -/
def State.reachHome (s : State) (sender : Nat) (r : ReqRef) (p : Partition) (asid va : Nat) (pte : DWord)
    (mask die : Nat) (but : Option Nat) : Bool × State :=
  if uncached pte then (true, s)
  else
    s.sendReq sender (p.homeOf pte ((primaryForm p asid va).2 / 64) die) r (s.sliceRoom p asid va pte mask die but)

/-! ## Grants (R283) -/

/-- A privatised copy of a line may be granted: an ordinary page of either tier (R283). -/
def mayPrivatise (p : Partition) (pte : DWord) : Bool := !isMirror p pte && !uncached pte

/-- The number of privatised lines a core holds. -/
def Core.grants (c : Core) : Nat := (c.l1.filter fun l => l.grant != 0#64).length

/-- A core's record in a directory entry. -/
def DirEntry.record (e : DirEntry) (core : Nat) : BitVec 64 := ((e.writers.find? fun w => w.1 == core).map (·.2)).getD 0#64

/-- A core's record gains bytes; a ninth writer drops the oldest record (R282). -/
def DirEntry.addWriter (e : DirEntry) (core : Nat) (mask : BitVec 64) : DirEntry :=
  if e.writers.any fun w => w.1 == core then
    { e with writers := e.writers.map fun w => if w.1 = core then (core, w.2 ||| mask) else w }
  else
    let ws := e.writers ++ [(core, mask)]
    { e with writers := if 8 < ws.length then ws.drop 1 else ws }

/-- The bytes of a line that a core has drained and not yet sent out, newest last, over older bytes (R90). -/
def Core.overlay (c : Core) (asid line : Nat) (data : BitVec 512) : BitVec 512 :=
  c.wtq.foldl
    (fun d (e : WtEntry) =>
      if e.asid = asid ∧ e.block / 4 = line then
        let (x, m) := blockInLine e.block e.data e.mask
        mergeBytes d x m
      else d) data

/-- A privatised copy granted to a core: the home's bytes, but for those of the grant that it holds already. What the core
has drained and not yet sent out stands over them (R90, R283; DEDUCED: log 49). -/
def State.grant (s : State) (core asid line : Nat) (home : BitVec 512) (mask : BitVec 64) : State :=
  s.modCore core fun c => c.modLine asid line fun x =>
    { x with grant := mask, data := mergeBytes home x.data x.grant.toNat }

/-- PRIVATISE_GRANT (R283, R284): after a store of core X that its record `mask` adds to. In state S, X and a core Y
with a record disjoint from X's (the oldest one; DESIGN CHOICE: log 49) are granted, each that still shares the line and
holds fewer than 64 privatised ones, and the entry goes to state P. In state P a holder's grant gains the bytes, and a
core that holds none is granted its record where it meets no grant. -/
def State.privatise (s : State) (asid line x : Nat) (mask : BitVec 64) (home : BitVec 512) : State :=
  match s.dir? asid line with
  | none => s
  | some e =>
    let rx := e.record x
    let can (c : Nat) : Bool := e.sharers.contains c && ((s.core c).line? asid line).isSome
      && decide ((s.core c).grants < 64)
    if e.state = .priv then
      let gx := s.grantOf x asid line
      if gx ≠ 0#64 then s.grant x asid line home (gx ||| mask)
      else if can x && rx != 0#64 && e.sharers.all fun c => s.grantOf c asid line &&& rx == 0#64 then
        s.grant x asid line home rx
      else s
    else if e.state = .shared ∧ rx ≠ 0#64 then
      match e.writers.find? fun w => w.1 != x && (w.2 &&& rx) == 0#64 with
      | none => s
      | some (y, ry) =>
        let gs := [(x, rx), (y, ry)].filter fun g => can g.1
        if gs.isEmpty then s
        else (gs.foldl (fun (s : State) g => s.grant g.1 asid line home g.2) s).setDir { e with state := .priv }
    else s

/-! ## Mirror pages (R61 to R63) -/

/-- The bytes of a line at the replica of a die (R61). -/
def State.replicaLine (s : State) (p : Partition) (asid line die : Nat) (pte : DWord) (key : Nat) :
    BitVec 512 × Bool :=
  if die = p.primaryDie then (s.lineFor pte key, s.linePoisoned key)
  else
    match s.mem.replicas.find? fun r => r.asid == asid && r.line == line && r.die == die with
    | some r => (r.data, r.poison)
    | none => (s.lineFor pte key, s.linePoisoned key)

/-- A replica whose bytes stop following the primary's keeps its present ones (R62). -/
def State.freezeReplica (s : State) (p : Partition) (asid line die : Nat) (pte : DWord) (key : Nat) : State :=
  if s.mem.replicas.any fun r => r.asid == asid && r.line == line && r.die == die then s
  else
    let (d, b) := s.replicaLine p asid line die pte key
    let r : Replica := { asid := asid, line := line, die := die, data := d, poison := b }
    s.setMem { s.mem with replicas := r :: s.mem.replicas }

/-- The line is locked at every replica by an atomic propagation (R63). -/
def State.mirrorLocked (s : State) (asid line : Nat) : Bool :=
  s.mem.updates.any fun u => u.2.asid == asid && u.2.line == line && u.2.atomic

/-- A hold that keeps updates of a line from a die's replica (R323, R348). -/
def ReplicaHold.keeps (h : ReplicaHold) (part die asid line : Nat) : Bool :=
  h.part == part && h.die == die && (match h.line with | none => true | some l => l == (asid, line))

/-- Updates of a line to a die's replica are held (R323, R348). -/
def State.replicaHeld (s : State) (part die asid line : Nat) : Bool :=
  s.mem.holds.any fun h => h.keeps part die asid line

/-- The job of a writer. -/
def State.writerJob (s : State) (w : Nat) : Option Nat :=
  if w < noThread then (s.gangOf w).map (·.job)
  else if w = noThread then none
  else (s.request (w - noThread - 1)).map (·.job)

/-- The primary has performed an update and owes it to the other replicas (R61 to R63): `before` is the state in
which their bytes are taken. -/
def State.propagate (s before : State) (part asid line key : Nat) (pte : DWord) (writer : Nat) : State :=
  let p := s.part part
  let others := p.dies.filter fun d => d != p.primaryDie
  if others.isEmpty then s
  else
    let frozen := others.foldl (fun b d => b.freezeReplica p asid line d pte key) before
    let s := s.setMem { s.mem with replicas := frozen.mem.replicas }
    let u : MirrorUpdate :=
      { asid := asid, line := line, part := part, data := s.lineFor pte key, poison := s.linePoisoned key,
        atomic := pteProp pte && pteTs pte, todo := others, unacked := others, writer := writer, job := s.writerJob writer }
    s.setMem { s.mem with updates := Tab.set s.mem.updates (Tab.fresh s.mem.updates) u }

/-! ## Performing at the point of coherence -/

/-- Masked bytes of a line performed at the point of coherence of a `.glb` address (R90, R105, R281): recalls,
merges, the write, the directory, privatisation, replicas, and what the write wakes. `core` is the writing core, which
holds its own grant on; engines and frames have none, and their access merges every holder (R107, R285). Of R105's
recalls, those of privatised copies follow R284 and R285 (DEDUCED: log 49). -/
def State.performGlb (s : State) (part asid va : Nat) (pte : DWord) (data : BitVec 512) (mask : Nat)
    (core : Option Nat) (writer : Nat) : State :=
  let p := s.part part
  let (a, v) := primaryForm p asid va
  let line := v / 64
  let key := dramKey pte va
  if uncached pte then ((s.writeFor pte key data mask).moved part pte 1).written p asid va pte writer fun _ => true
  else if isMirror p pte then
    let s1 := ((s.dirtyL2 p a line pte p.primaryDie).writeFor pte key data mask).propagate s part a line key pte writer
    s1.written p asid va pte writer fun t => dieOf (coreOf t) == p.primaryDie
  else
    let s := (s.recallOwned a line none).mergeOthers part a line (if core.isSome then mask else 2 ^ 64 - 1) core
    let s := (s.dirtyL2 p a line pte 0).writeFor pte key data mask
    let s := match core, s.dir? a line with
      | some c, some e =>
        if mayPrivatise p pte && e.sharers.contains c then
          (s.setDir (e.addWriter c (BitVec.ofNat 64 mask))).privatise a line c (BitVec.ofNat 64 mask) (s.lineFor pte key)
        else s
      | _, _ => s
    s.written p asid va pte writer fun _ => true

/-- A frame on a connection carries a write to a fabric window (R291, R293): the entry waits for its
acknowledgement. A window that names no peer sends nothing. -/
def causewayHeader (addr len seq gen member win opc status : Nat) (ackseq : Nat) : BitVec 256 :=
  BitVec.ofNat 256 (1 + 2 ^ 16 * status + 2 ^ 24 * opc + 2 ^ 32 * (win % 2 ^ 12) + 2 ^ 48 * (member % 2 ^ 16)
    + 2 ^ 64 * (gen % 2 ^ 32) + 2 ^ 96 * (ackseq % 2 ^ 32) + 2 ^ 128 * (seq % 2 ^ 32) + 2 ^ 160 * (len % 2 ^ 16)
    + 2 ^ 192 * (addr % 2 ^ 64))

/-- The connection of a partition to the peer of a window (R292). -/
def State.connOf (s : State) (part window : Nat) : Option (Nat × Conn) :=
  let entry := Sparse.get (s.part part).pm.windows window
  s.net.conns.find? fun c => c.2.part == part && c.2.peer == slice entry 128 128 && !c.2.failed

/-- A port of the package is in service (R316). -/
def State.portUp (s : State) (p : Port) : Bool := !s.fw.boot.failed.contains p

/-- The transmit channel that protects a partition's frames: the newest key of one assigned to it, on a port in service
(R289, R316). -/
def State.channelOf (s : State) (part : Nat) : Option (Nat × Nat × Nat) :=
  ((s.net.macsec.filter fun (k : Nat × List MacsecKey) => s.portUp (.ethernet k.1)).findSome? fun k =>
    (k.2.reverse.find? fun (x : MacsecKey) => x.transmit && x.part == part).map fun x => (k.1, x.channel, x.assoc))

/-- Bytes of a fabric window and of the Causeway counted while the partition is resident (R310). -/
def State.countFabric (s : State) (part window causeway : Nat) : State :=
  s.modPart part fun p =>
    { p with usage := if p.resident then
        { p.usage with fabb := p.usage.fabb + window, cwb := p.usage.cwb + causeway } else p.usage }

/-- A frame sent on a connection, with the work it completes (R290, R291). -/
def State.sendOn (s : State) (conn vdev off opc member gen win status : Nat) (payload : List Byte) (use : FrameUse) :
    State :=
  match Tab.get? s.net.conns conn with
  | none => s
  | some c =>
    if c.failed then s
    else
      let f : Sent :=
        { seq := c.nextSeq, acked := false, vdev := vdev, channel := s.channelOf c.part, payload := payload, use := use,
          header := causewayHeader off payload.length c.nextSeq gen member win opc status c.recvSeq }
      let since := if c.sent.all (·.acked) then s.net.cycle else c.since
      let c' : Conn := { c with nextSeq := (c.nextSeq + 1) % 2 ^ 32, sent := c.sent ++ [f], since := since,
                                ackSent := c.recvSeq }
      (s.setNet { s.net with conns := Tab.set s.net.conns conn c' }).countFabric c.part 0 payload.length

/-- A frame sent on the connection of a window (R291, R293). -/
def State.sendFrame (s : State) (part vdev window off opc member gen : Nat) (payload : List Byte) (use : FrameUse) :
    State :=
  match s.connOf part window with
  | none => s
  | some (k, _) =>
    let entry := Sparse.get (s.part part).pm.windows window
    (s.sendOn k vdev off opc member gen (natBits entry.toNat 80 12) 0 payload use).countFabric part payload.length 0

/-- Bytes of a value, lowest first. -/
def bytesOf (v : Nat) (n : Nat) : List Byte := (List.range n).map fun i => BitVec.ofNat 8 (v / 2 ^ (8 * i))

/-- A value of bytes, lowest first. -/
def natOfBytes (bs : List Byte) : Nat := bs.foldr (fun b n => b.toNat + 256 * n) 0

/-! ## On-chip spaces (R43 to R45) -/

/-- Where an on-chip byte lies: a gang's region, a core's lent area, or an isle's Lagoon. -/
inductive Bank where
  | scr (gang : Nat)
  | clu (core : Nat)
  | lag (isle : Nat)
  deriving DecidableEq, Repr

/-- The bank and offset of a shared on-chip address, seen from a thread's core (R43 to R45). -/
def State.bankOf (s : State) (core part : Nat) (acc : Access) : Bank × Nat :=
  match acc.space with
  | .clu => (.clu (8 * clusterOf core + acc.addr / 4096 % 8), acc.addr / 32768 * 4096 + acc.addr % 4096)
  | .lag => (.lag ((s.part part).first + acc.addr / 2 ^ 27), acc.addr % 2 ^ 27)
  | _ => (.scr acc.region, acc.addr)

/-- The number under which a watch of a `.clu` or `.lag` line stands. -/
def bankLine (b : Bank) (off : Nat) : Nat :=
  match b with
  | .scr g => g * 2 ^ 20 + off / 64
  | .clu c => c * 2 ^ 20 + off / 64
  | .lag i => i * 2 ^ 22 + off / 64

def Bank.space : Bank → Space
  | .scr _ => .scr
  | .clu _ => .clu
  | .lag _ => .lag

def State.bankMem (s : State) : Bank → Memory
  | .scr g => ((s.gang g).map (·.scratch)).getD []
  | .clu c => (s.core c).lent
  | .lag i => (s.isle i).lagoon

def State.setBankMem (s : State) (b : Bank) (m : Memory) : State :=
  match b with
  | .scr g => s.modGang g fun x => { x with scratch := m }
  | .clu c => s.modCore c fun x => { x with lent := m }
  | .lag i => s.modIsle i fun x => { x with lagoon := m }

/-- The poisoned 16-byte words of a bank (R384). -/
def State.bankPoison (s : State) : Bank → List Nat
  | .scr g => ((s.gang g).map (·.scrPoison)).getD []
  | .clu c => (s.core c).lentPoison
  | .lag i => (s.isle i).lagPoison

def State.setBankPoison (s : State) (b : Bank) (l : List Nat) : State :=
  match b with
  | .scr g => s.modGang g fun x => { x with scrPoison := l }
  | .clu c => s.modCore c fun x => { x with lentPoison := l }
  | .lag i => s.modIsle i fun x => { x with lagPoison := l }

/-- Some byte of a range lies in a poisoned word. -/
def State.bankPoisoned (s : State) (b : Bank) (off n : Nat) : Bool :=
  (s.bankPoison b).any fun w => decide (off / 16 ≤ w ∧ 16 * w < off + n)

/-- `n` bytes of a bank as a number. -/
def State.readBank (s : State) (b : Bank) (off n : Nat) : Nat := Memory.readNat (s.bankMem b) off n

/-- The bank and offset of a `.clu` or `.lag` address of a pipe of a band on a core (R34). -/
def State.pipeSpot (s : State) (core part : Nat) (p : Pipe) (off : Nat) : Bank × Nat :=
  s.bankOf core part { space := p.space, region := 0, addr := p.base + off, size := 4, issued := 0#64 }

/-- Gangs parked on a pipe whose tail line is written are unparked (R35). -/
def State.unpark (s : State) (b : Bank) (off : Nat) : State :=
  if s.gangs.all (fun (g : Nat × Gang) => g.2.parkedOn.isNone) then s
  else
    let onLine (g : Nat × Gang) : Bool :=
      match g.2.parkedOn, s.band g.2.band, s.job g.2.job with
      | some k, some x, some j =>
        match x.pipes[k]? with
        | none => false
        | some p =>
          let y := s.pipeSpot (coreOf g.1) j.part p 64
          bankLine y.1 y.2 == bankLine b off && y.1.space == b.space
      | _, _, _ => false
    { s with gangs := s.gangs.map fun (g : Nat × Gang) =>
        if onLine g then (g.1, { g.2 with parkedOn := none }) else g }

/-- Entries that a pipe of a band on a core holds: tail less head, modulo 2^32 (R34, R231). -/
def State.pipeHolds (s : State) (core part : Nat) (p : Pipe) : Word :=
  let word (off : Nat) : Word := let b := s.pipeSpot core part p off; BitVec.ofNat 32 (s.readBank b.1 b.2 4)
  word 64 - word 0

/-- R35 for a gang of a band: parked on its first empty input pipe, halved by a full output pipe. -/
def State.weigh (s : State) (h : Nat) (g : Gang) : Gang :=
  match s.band g.band, s.job g.job with
  | some b, some j =>
    let used := (List.range b.pipes.length).filterMap fun k => (b.pipes[k]?).map fun p => (k, p)
    let count (p : Pipe) : Nat := (s.pipeHolds (coreOf h) j.part p).toNat
    let empty := used.find? fun (x : Nat × Pipe) => x.2.valid && x.2.cons == g.index && count x.2 == 0
    let full := used.any fun (x : Nat × Pipe) => x.2.valid && x.2.prod == g.index && decide (3 * x.2.depth / 4 < count x.2)
    { g with parkedOn := empty.map (·.1), halved := full }
  | _, _ => g

/-- The count of a pipe of a gang's band is another than it was (R35). -/
def State.countChanged (s before : State) (h : Nat) (g : Gang) : Bool :=
  match s.band g.band, s.job g.job with
  | some b, some j =>
    b.piped && b.pipes.any fun p => p.valid && s.pipeHolds (coreOf h) j.part p != before.pipeHolds (coreOf h) j.part p
  | _, _ => false

/-- The weights of the gangs whose pipes' counts a write has changed (R35). -/
def State.reweighFrom (s before : State) : State :=
  if s.bands.all (fun (b : Nat × Band) => !b.2.piped) then s
  else
    { s with gangs := s.gangs.map fun (g : Nat × Gang) =>
        if s.countChanged before g.1 g.2 then (g.1, s.weigh g.1 g.2) else g }

/-- Masked bytes of one 16-byte word of a bank performed: a whole word clears its poison (R386), a watch of the line
is written (R265), a gang parked on the line is unparked, and a pipe whose count changes weighs its gangs again (R35). -/
def State.performBank (s : State) (b : Bank) (off : Nat) (data : BitVec 128) (mask : BitVec 16) (poison : Bool) :
    State :=
  let w := off / 16
  let before := s
  let s := s.setBankMem b (Memory.writeMasked (s.bankMem b) (16 * w) 16 data.toNat mask.toNat)
  let s := if poison then s.setBankPoison b (addOnce (s.bankPoison b) w)
    else if mask = 0xFFFF#16 then s.setBankPoison b (without (s.bankPoison b) w) else s
  let s := if b.space = .scr then s else (s.unpark b off).reweighFrom before
  s.wake b.space (bankLine b off) 0 fun _ => true

/-- Bytes written to a bank at any offset, word by word. -/
def State.writeBank (s : State) (b : Bank) (off n v : Nat) : State :=
  (List.range ((off + n + 15) / 16 - off / 16)).foldl
    (fun s k =>
      let w := 16 * (off / 16 + k)
      let lo := max off w
      let hi := min (off + n) (w + 16)
      s.performBank b w (BitVec.ofNat 128 (v / 2 ^ (8 * (lo - off)) % 2 ^ (8 * (hi - lo)) * 2 ^ (8 * (lo - w))))
        (BitVec.ofNat 16 ((2 ^ (hi - lo) - 1) * 2 ^ (lo - w))) false) s

end Sys2Proof.Machine
end

