-- ==== Sys2Proof/Machine/Address.lean ====
section
/-! DEFINITION. Effective addresses and their checks (R42, R43, R184, R209): bounds, alignment, permission,
synonym, and the translation misses that hold a thread (R49, R366). -/

namespace Sys2Proof.Machine

/-- The effective address of a base and an offset (R42): 64 bits for `.glb`, modulo 2^32 elsewhere. -/
def effAddr (space : Space) (base : DWord) (off : Word) : DWord :=
  if space = .glb then base + off.signExtend 64 else ((lo32 base) + off).setWidth 64

/-- The base of an address operand: a pair for `.glb`, one register elsewhere, or zero (R184). -/
def Thread.base (th : Thread) (space : Space) (a : SrcA) : DWord :=
  if space = .glb then th.a64 a else (th.a32 a).setWidth 64

/-- The gang that a `.scr` address reaches: the issuer's, or under FOREIGN the gang of the same job on the core
whose slot base is SLOTB (R43). -/
def State.scrGang (s : State) (t : Nat) (ea : Nat) : Option Nat :=
  match s.thread t with
  | none => none
  | some th =>
    if natBits ea 27 1 = 0 then some th.gang
    else
      let g := handleOf (coreOf t) (natBits ea 19 8) 0
      match s.gang g, s.gang th.gang with
      | some x, some y => if x.job = y.job then some g else none
      | _, _ => none

/-- The access at an effective address, where it lies inside its space (Table 3-1, Table 3-2, R184). The whole
access must lie inside: an aligned access of a space whose size is a multiple of its width does when its first
byte does. -/
def State.resolve (s : State) (t : Nat) (space : Space) (ea : DWord) (size : Nat) : Option Access :=
  let a := ea.toNat
  let mk (region addr : Nat) : Access := { space := space, region := region, addr := addr, size := size, issued := ea }
  match space with
  | .priv => if a < s.privBytes t then some (mk 0 a) else none
  | .scr =>
    if natBits a 28 4 ≠ 0 then none
    else
      match s.scrGang t a with
      | none => none
      | some g => if natBits a 0 19 < s.scratchBytes t then some (mk g (natBits a 0 19)) else none
  | .clu => if a < 8 * (s.part (s.partOf t)).lend then some (mk 0 a) else none
  | .lag => if a < (s.part (s.partOf t)).size * 2 ^ 27 then some (mk 0 a) else none
  | .glb => if a < 2 ^ 56 then some (mk 0 a) else none

/-- The address checks of R184 up to alignment, in their order (R209). -/
inductive AddrRes where
  | ok (acc : Access)
  | fault (f : FaultInfo)
  deriving DecidableEq, Repr

def State.checkAddr (s : State) (t : Nat) (space : Space) (ea : DWord) (size : Nat) : AddrRes :=
  match s.resolve t space ea size with
  | none => .fault (addrFault Code.bounds ea)
  | some acc =>
    if acc.addr % size ≠ 0 then .fault (addrFault Code.misaligned ea) else .ok acc

/-- What the translation of a `.glb` access gives: the leaf's attributes, a fault, or a walk to wait for. -/
inductive TransRes where
  | ok (pte : DWord)
  | fault (f : FaultInfo)
  | walk
  deriving DecidableEq, Repr

/-- The permission check of a `.glb` access at the first level that holds its attributes (R50, R58, R209). -/
def State.checkGlb (s : State) (t : Nat) (k : AccessKind) (acc : Access) : TransRes :=
  let part := s.partOf t
  let p := s.part part
  let asid := s.asidOf t
  match s.attrs (coreOf t) p asid acc.addr with
  | none => .walk
  | some pte =>
    match s.permit part (coreOf t) k asid acc.addr pte with
    | some info =>
      if info = 5 ∧ k = .atomic then .fault (addrFault Code.partitionProbe acc.issued)
      else .fault (addrFault Code.access acc.issued info)
    | none =>
      match classify p asid acc.addr pte with
      | .synonym _ => .fault (addrFault Code.synonym acc.issued)
      | _ => .ok pte

/-- Page walkers of a front end (R49). -/
def walkers : Nat := 64

/-- A walk that the thread waits for: it joins a walk of the same page at the front end, or starts one (R49); beyond its
64 walkers a front end keeps walks waiting, and two waits for one page of 2 MiB or 1 GiB end with the first walk of it.
The instruction replays when the walk has ended, so the PC stays at it. -/
def State.startWalk (s : State) (t : Nat) (pc : Addr56) (va : Nat) (fetch : Bool) : State :=
  let part := s.partOf t
  let p := s.part part
  let asid := s.asidOf t
  let fe := p.frontEnd asid va
  let id := match s.mem.walks.find? fun w => w.2.isle == fe && w.2.asid == asid && w.2.va / 65536 == va / 65536 with
    | some w => w.1
    | none => Tab.fresh s.mem.walks
  let w := Tab.getD s.mem.walks id { isle := fe, part := part, asid := asid, va := va, waiters := [] }
  let w' : Walk := { w with waiters := w.waiters ++ [t] }
  let s := s.setMem { s.mem with walks := Tab.set s.mem.walks id w' }
  s.modThread t fun th => { th with hold := .walking id va fetch, pc := pc }

/-- A thread undone to the boundary before an instruction that has to replay: the PC, order and windows as they
stood, the marks as issue left them. -/
def State.replayLater (s : State) (t : Nat) (pc : Addr56) (va : Nat) : LaneRes :=
  let s := s.modThread t fun th =>
    { th with order := th.order - 1, longs := th.longs.map fun (o : Outstanding) => { o with left := o.left + 1 } }
  .ok (s.startWalk t pc va false)

/-- The address checks of a data access, then `f` with the access and its attributes (none off `.glb`); a
translation miss holds the thread until its walk ends (R209, R366). -/
def withAccess (s : State) (t : Nat) (pc : Addr56) (k : AccessKind) (space : Space) (ea : DWord) (size : Nat)
    (f : Access → Option DWord → LaneRes) : LaneRes :=
  match s.checkAddr t space ea size with
  | .fault e => .fault e
  | .ok acc =>
    if space = .glb then
      match s.checkGlb t k acc with
      | .fault e => .fault e
      | .walk => s.replayLater t pc acc.addr
      | .ok pte => f acc (some pte)
    else f acc none

end Sys2Proof.Machine
end

