-- ==== Sys2Proof/Machine/Budget.lean ====
section
/-! DEFINITION. Budgets of a virtual device on an isle (R267, R268): what an access or a request costs, whether its
counts let it start, and the charge. -/

namespace Sys2Proof.Machine

/-- V of a virtual device descriptor (Table 13-2): without it the virtual device runs nothing and is charged for nothing
(R260, R267). -/
def VDev.valid (v : VDev) : Bool := bitOf v.desc 0

/-- The virtual device of a thread. -/
def State.vdevOf (s : State) (t : Nat) : Nat := ((s.jobOf t).map (·.vdev)).getD 0

/-- The budget fields of a virtual device (Table 13-2). -/
def State.budgetOf (s : State) (part vdev : Nat) : Budget :=
  match (Tab.get? (s.part part).vdevs vdev).filter VDev.valid with
  | none => { cpyb := 0, netb := 0, tier2b := 0, strb := 0 }
  | some v =>
    { cpyb := natBits v.desc.toNat 32 32, netb := natBits v.desc.toNat 64 32,
      tier2b := natBits v.desc.toNat 96 32, strb := natBits v.desc.toNat 128 32 }

/-- The remaining counts of a virtual device on an isle; a count that nothing has charged yet is the budget. -/
def State.remaining (s : State) (isle part vdev : Nat) : Budget :=
  Tab.getD (s.isle isle).budgets vdev (s.budgetOf part vdev)

/-- The part of a cost that is counted: an activity with a budget field of 0 is unlimited (R267). -/
def Budget.counted (b field : Budget) : Budget :=
  { cpyb := if field.cpyb = 0 then 0 else b.cpyb, netb := if field.netb = 0 then 0 else b.netb,
    tier2b := if field.tier2b = 0 then 0 else b.tier2b, strb := if field.strb = 0 then 0 else b.strb }

/-- No unit of any activity. -/
def Budget.none : Budget := { cpyb := 0, netb := 0, tier2b := 0, strb := 0 }

def Budget.add (a b : Budget) : Budget :=
  { cpyb := a.cpyb + b.cpyb, netb := a.netb + b.netb, tier2b := a.tier2b + b.tier2b, strb := a.strb + b.strb }

def Budget.sub (a b : Budget) : Budget :=
  { cpyb := a.cpyb - b.cpyb, netb := a.netb - b.netb, tier2b := a.tier2b - b.tier2b, strb := a.strb - b.strb }

/-- Work of a cost may start: every activity that it is charged for is unlimited or has a count above 0 (R268).
DESIGN CHOICE: log 39. -/
def State.affords (s : State) (isle part vdev : Nat) (cost : Budget) : Bool :=
  let c := cost.counted (s.budgetOf part vdev)
  let m := s.remaining isle part vdev
  (c.cpyb == 0 || decide (0 < m.cpyb)) && (c.netb == 0 || decide (0 < m.netb))
    && (c.tier2b == 0 || decide (0 < m.tier2b)) && (c.strb == 0 || decide (0 < m.strb))

/-- A cost charged to an isle and a virtual device, and counted in the partition's usage (R267, R310). -/
def State.pay (s : State) (isle part vdev : Nat) (cost : Budget) : State :=
  let c := cost.counted (s.budgetOf part vdev)
  if c = Budget.none then s
  else
    let m := (s.remaining isle part vdev).sub c
    (s.modIsle isle fun x => { x with budgets := Tab.set x.budgets vdev m }).modPart part fun (p : Partition) =>
      { p with usage := { p.usage with
          budget := Tab.set p.usage.budget vdev ((Tab.getD p.usage.budget vdev Budget.none).add c) } }

/-! ## Costs (Table 13-3) -/

/-- The Strait boundaries that a flit crosses between two stacks (R275 to R277). -/
def straits (d e : Nat) : Nat := bit (d % 2 != e % 2) + bit (d / 2 != e / 2)

/-- The cost of `n` flits between two stacks. -/
def flitCost (n d e : Nat) : Budget := { cpyb := 0, netb := 0, tier2b := 0, strb := n * straits d e }

/-- The home slice holds the tag of a line, as an agent of a die sees it (R47, R48). -/
def State.l2Holds (s : State) (p : Partition) (asid line die : Nat) : Bool := (s.l2Tag? p asid line die).isSome

/-- The stack of the Ethernet port that serves a stack: stack 0 or 3, on its side of the package while that port is in
service (R274, R288, R316). DESIGN CHOICE: log 39. -/
def State.portStack (s : State) (die : Nat) : Nat :=
  let up (k : Nat) : Bool := s.portUp (.ethernet k)
  if die < 2 then (if up 0 || !up 1 then 0 else 3) else if up 1 || !up 0 then 3 else 0

/-- The stacks that a request for a `.glb` line passes on its way: the home slice, and, for a page cached nowhere, the
channel group, second-tier port or Ethernet port that serves it (R49, R64, Table 14-1). -/
def State.pathOf (s : State) (p : Partition) (pte : DWord) (line va die : Nat) : List Nat :=
  let home := dieOf (p.homeOf pte line die)
  home :: (if pteTier pte = 2 then [s.portStack home]
           else if pteTier pte = 1 then [physOf pte va / 2 ^ 38]
           else if uncached pte then [dieOfIsle (physOf pte va / 2 ^ 35)] else [])

/-- The Strait boundaries that a flit crosses from a stack along others. -/
def crossings (stack : Nat) : List Nat → Nat
  | [] => 0
  | d :: ds => straits stack d + crossings d ds

/-- The cost of a request for a `.glb` line that an agent of a stack sends: its flit, a frame of up to 64 bytes to a
fabric window, and a line of the second tier where the home does not hold it. -/
def State.homeCost (s : State) (part asid va : Nat) (pte : DWord) (stack : Nat) (load : Bool) : Budget :=
  let p := s.part part
  let (a, v) := primaryForm p asid va
  let line := v / 64
  let die := if load then stack else p.primaryDie
  let held := !uncached pte && s.l2Holds p a line die
  { cpyb := 0, netb := bit (pteTier pte == 2), tier2b := bit (pteTier pte == 1 && !held),
    strb := crossings stack (if held then [dieOf (p.homeOf pte line die)] else s.pathOf p pte line va die) }

/-- The cost of a request to an on-chip bank. -/
def bankCost (b : Bank) (stack : Nat) : Budget :=
  match b with
  | .lag i => flitCost 1 stack (dieOfIsle i)
  | .scr g => flitCost 1 stack (dieOf (coreOf g))
  | .clu c => flitCost 1 stack (dieOf c)

/-- A page whose lines an L1 may hold: no secondary mapping, and no page that is cached nowhere (R54, R58, R64). -/
def cacheable (p : Partition) (asid va : Nat) (pte : DWord) : Bool :=
  !uncached pte && (remapOf p asid va).isNone

/-- The cost of a thread's access; a load that its L1 serves costs nothing. -/
def State.accessCost (s : State) (t : Nat) (acc : Access) (pte : Option DWord) (load : Bool) : Budget :=
  let part := s.partOf t
  let asid := s.asidOf t
  match pte with
  | some e =>
    if load && cacheable (s.part part) asid acc.addr e && s.l1Hit (coreOf t) asid acc.addr then Budget.none
    else s.homeCost part asid acc.addr e (dieOf (coreOf t)) load
  | none => if acc.space = .lag then bankCost (s.bankOf (coreOf t) part acc).1 (dieOf (coreOf t)) else Budget.none

/-- A thread's access may start (R268). -/
def State.affordsFor (s : State) (t : Nat) (cost : Budget) : Bool :=
  s.affords (isleOf (coreOf t)) (s.partOf t) (s.vdevOf t) cost

/-- Work that finds its budget spent waits for the next refill, behind the work that waits already (R268). -/
def State.awaitBudget (s : State) (e : Instr) : State :=
  { s with sched := { s.sched with waiting := s.sched.waiting ++ [.event e] } }

/-- A cost charged to a thread's isle and virtual device. -/
def State.payFor (s : State) (t : Nat) (cost : Budget) : State :=
  s.pay (isleOf (coreOf t)) (s.partOf t) (s.vdevOf t) cost

end Sys2Proof.Machine
end

