-- ==== Sys2Proof/Machine/Lines.lean ====
section
/-! DEFINITION. Reading a line at its point of coherence (R48, R64, R93, R285), and bringing it into the L1
of a core and the instruction cache (R47, R50, R281). -/

namespace Sys2Proof.Machine

/-- Sixteen free words in place of a line whose bytes the spec does not give: the memory of a Causeway peer
(R291, log 5). -/
def State.freeLine (s : State) : BitVec 512 × State :=
  (BitVec.ofNat 512 ((List.range 16).foldl
      (fun n k => n + (Config.freeWord (s.sched.free + k)).toNat * 2 ^ (32 * k)) 0),
   { s with sched := { s.sched with free := s.sched.free + 16 } })

/-- The first read of an unscrubbed page starts its background clear (R65). -/
def State.startClear (s : State) (key : Nat) : State :=
  s.setMem { s.mem with unscrubbed := s.mem.unscrubbed.map fun (u : Unscrubbed) =>
    if u.page = key / 65536 then { u with started := true } else u }

/-- A line read by an agent of a die: its bytes, its poison, and the state after the merges and the recall that
the read demands. `mask` is the bytes read; `core` is the core that reads, where a core does. -/
structure LineRead where
  data   : BitVec 512
  poison : Bool
  after  : State
  deriving DecidableEq, Repr

/-- The read of a line at its point of coherence (R48, R61, R64, R285). -/
def State.homeLine (s : State) (part asid va : Nat) (pte : DWord) (mask die : Nat) (core : Option Nat) :
    LineRead :=
  let p := s.part part
  let (a, v) := primaryForm p asid va
  let line := v / 64
  let key := dramKey pte va
  if pteTier pte = 2 then
    let (d, s') := s.freeLine
    { data := d, poison := false, after := s'.countFabric part 64 0 }
  else
    let s := s.startClear key
    if uncached pte then { data := s.lineFor pte key, poison := s.linePoisoned key, after := s.moved part pte 1 }
    else if isMirror p pte then
      let (d, b) := s.replicaLine p a line die pte key
      { data := d, poison := b, after := s }
    else
      let s := (s.recallOwned a line core).mergeOthers part a line mask core
      { data := s.lineFor pte key, poison := s.linePoisoned key, after := s }

/-- The home slice holds the tag of a line, with the virtual device that filled it (R47, R269); a miss takes an entry of
the miss table until the line has come (R280). DESIGN CHOICE: log 40. -/
def State.tagL2 (s : State) (part asid line vdev : Nat) (pte : DWord) (die : Nat) : State :=
  let p := s.part part
  if s.l2Holds p asid line die then s
  else
    let slice := p.homeOf pte line die
    let s := (s.roomL2 part slice).moved part pte 1
    let e : L2Tag := { slice := slice, asid := asid, line := line, pte := pte, vdev := vdev, dirty := false }
    let m : SliceEntry := { slice := slice, asid := asid, line := line }
    s.setMem { s.mem with l2 := e :: s.mem.l2
                          misses := if s.missing? slice asid line then s.mem.misses else m :: s.mem.misses }

/-- The directory counts a core among the sharers of a line (R282). -/
def State.addSharer (s : State) (asid line core : Nat) : State :=
  match s.dir? asid line with
  | none => s.setDir { asid := asid, line := line, state := .shared, sharers := [core], writers := [] }
  | some e => s.setDir { e with sharers := addOnce e.sharers core }

/-- A line brought into a core's L1 as a shared copy, where it may be cached there; `mask` is the bytes that
ask for it (R47, R285). -/
def State.fillL1 (s : State) (core part asid va vdev : Nat) (pte : DWord) (mask : Nat) : State :=
  let p := s.part part
  let line := va / 64
  if !cacheable p asid va pte || ((s.core core).line? asid line).isSome then s
  else
    let r := s.homeLine part asid va pte mask (dieOf core) (some core)
    let l : L1Line :=
      { asid := asid, line := line, data := r.data, pte := pte, owned := false, grant := 0#64,
        poison := r.poison }
    let s := ((r.after.roomL1 part core).tagL2 part asid line vdev pte (dieOf core)).addSharer asid line core
    s.modCore core fun c => { c with l1 := l :: c.l1 }

/-! ## Loading (R88, R93, R185) -/

/-- A thread's own bytes of a 16-byte block: the newest covering entry of each byte (R88). -/
def Thread.ownBlock (th : Thread) (space : Space) (region block : Nat) : BitVec 128 × BitVec 16 :=
  th.psq.foldl
    (fun x (e : PsqEntry) =>
      if e.space = space ∧ e.region = region ∧ e.block = block then
        (mergeBytes x.1 e.data e.mask.toNat, x.2 ||| e.mask)
      else x) (0#128, 0#16)

/-- A thread's own bytes of a 64-byte line. -/
def Thread.ownLine (th : Thread) (space : Space) (region line : Nat) : BitVec 512 × Nat :=
  (List.range 4).foldl
    (fun x k =>
      let b := th.ownBlock space region (4 * line + k)
      let (d, m) := blockInLine (4 * line + k) b.1 b.2
      (mergeBytes x.1 d m, x.2 ||| m)) (0#512, 0)

/-- The mask of `n` bytes from offset `o` of a line. -/
def lineMask (o n : Nat) : Nat := (2 ^ n - 1) * 2 ^ o

/-- A `.glb` line as a core loads it: from the L1 or the home, under the write-through queue (R90, R185); `alloc` lets the
load bring the line into the L1. -/
def State.glbLine (s : State) (t : Nat) (va : Nat) (pte : DWord) (mask : Nat) (alloc : Bool) : LineRead :=
  let part := s.partOf t
  let p := s.part part
  let asid := s.asidOf t
  let core := coreOf t
  let s := if alloc then s.fillL1 core part asid va (s.vdevOf t) pte mask else s
  let (a, v) := primaryForm p asid va
  match if cacheable p asid va pte then (s.core core).line? asid (va / 64) else none with
  | some l => { data := (s.core core).overlay a (v / 64) l.data, poison := l.poison, after := s }
  | none =>
    let r := s.homeLine part asid va pte mask (dieOf core) (some core)
    { r with data := if uncached pte then r.data else (r.after.core core).overlay a (v / 64) r.data,
             after := if cacheable p asid va pte then r.after.tagL2 part asid (va / 64) (s.vdevOf t) pte (dieOf core)
                      else r.after }

/-- What a load finds: the bytes as a number, the FINFO of the poison it met, and the state after it. -/
structure LoadRes where
  value  : Nat
  poison : Option Nat
  after  : State
  deriving DecidableEq, Repr

/-- The thread's own bytes for an access: those of its PSQ entries, oldest first (R88), or all of lane-private
memory's. -/
def Thread.ownBytes (th : Thread) (acc : Access) : List OwnBytes :=
  if acc.space = .priv then
    [{ seq := none, data := BitVec.ofNat 512 (Memory.readNat th.priv acc.addr acc.size * 2 ^ (8 * (acc.addr % 64))),
       mask := lineMask (acc.addr % 64) acc.size }]
  else
    (th.psq.filter fun e => e.space == acc.space && e.region == acc.region && e.block / 4 == acc.addr / 64).map fun e =>
      let (d, m) := blockInLine e.block e.data e.mask
      { seq := some e.seq, data := d, mask := m : OwnBytes }

/-- Bytes that a thread's own stores gave, the newest of each, with their mask. -/
def gatherOwn (own : List OwnBytes) : BitVec 512 × Nat :=
  own.foldl (fun x (b : OwnBytes) => (mergeBytes x.1 b.data b.mask, x.2 ||| b.mask)) (0#512, 0)

/-- What a load has of its thread's own stores as it binds: an entry that has drained since its issue is performed, and
memory gives its bytes or newer ones (R88, R91, R93; DEDUCED: log 31). -/
def Thread.ownStanding (th : Thread) (own : List OwnBytes) : BitVec 512 × Nat :=
  gatherOwn (own.filter fun b => match b.seq with | none => true | some n => th.psq.any fun e => e.seq == n)

/-- The FINFO of poison among the thread's own bytes for an access: a poisoned entry or private word (R385, R413). -/
def Thread.ownPoison (th : Thread) (acc : Access) : Option Nat :=
  if acc.space = .priv then if th.privPoison.contains (acc.addr / 16) then some 3 else none
  else if th.psq.any fun e =>
      e.poison && e.space == acc.space && e.region == acc.region && e.block == acc.addr / 16
    then some 3
  else none

/-- The bytes of an access inside one line, with the thread's own bytes given and the others from memory (R185,
R385). -/
def State.loadWith (s : State) (t : Nat) (acc : Access) (pte : Option DWord) (alloc : Bool) (own : BitVec 512)
    (mask : Nat) : LoadRes :=
  let o := acc.addr % 64
  let need := lineMask o acc.size
  let cut (d : BitVec 512) : Nat := natBits (mergeBytes d own mask).toNat (8 * o) (8 * acc.size)
  if need &&& mask = need then { value := cut 0#512, poison := none, after := s }
  else
    match acc.space, pte with
    | .glb, some e =>
      let r := s.glbLine t acc.addr e need alloc
      { value := cut r.data, poison := if r.poison then some 0 else none, after := r.after }
    | _, _ =>
      let b := s.bankOf (coreOf t) (s.partOf t) acc
      let line := BitVec.ofNat 512 (s.readBank b.1 (b.2 / 64 * 64) 64)
      { value := cut line, poison := if s.bankPoisoned b.1 b.2 acc.size then some 3 else none, after := s }

/-- The bytes of an access inside one line, as the thread loads them (R88, R185, R385). -/
def State.loadNow (s : State) (t : Nat) (acc : Access) (pte : Option DWord) (alloc : Bool) : LoadRes :=
  match s.thread t with
  | none => { value := 0, poison := none, after := s }
  | some th =>
    let own := gatherOwn (th.ownBytes acc)
    let r := s.loadWith t acc pte alloc own.1 own.2
    match th.ownPoison acc with
    | some n => { r with poison := some n, after := s }
    | none => r

/-! ## Instruction fetch (R120, R324) -/

/-- The line of a core's instruction cache that holds an address. -/
def Core.codeLine? (c : Core) (asid line : Nat) : Option ICLine :=
  c.icache.find? fun l => l.asid == asid && l.line == line

/-- What a fetch finds: a word, a poisoned line, or a line that the instruction cache lacks. -/
inductive Fetch where
  | word (w : BitVec 96)
  | poisoned
  | missing (va : Nat)
  deriving DecidableEq, Repr

/-- Twelve bytes that start at byte `o` of two lines that follow each other. -/
def wordAt (lo hi : BitVec 512) (o : Nat) : BitVec 96 := BitVec.ofNat 96 ((lo.toNat + hi.toNat * 2 ^ 512) / 2 ^ (8 * o))

/-- The word at a PC through the instruction cache; an instruction may straddle two lines (R120). `name` gives the
primary form of an address, under which alone a line is cached (R58). -/
def Core.fetchAt (c : Core) (name : Nat → Nat × Nat) (pc : Nat) : Fetch :=
  match c.codeLine? (name pc).1 ((name pc).2 / 64) with
  | none => .missing (pc / 64 * 64)
  | some l =>
    if pc % 64 ≤ 52 then if l.poison then .poisoned else .word (wordAt l.data 0#512 (pc % 64))
    else
      match c.codeLine? (name (pc + 11)).1 ((name (pc + 11)).2 / 64) with
      | none => .missing ((pc + 11) / 64 * 64)
      | some h => if l.poison || h.poison then .poisoned else .word (wordAt l.data h.data (pc % 64))

/-- The primary form of a thread's addresses (R58). -/
def State.nameOf (s : State) (t va : Nat) : Nat × Nat := primaryForm (s.part (s.partOf t)) (s.asidOf t) va

/-- The fetch of a thread at its PC: from the loop buffer, else through the instruction cache (R324). -/
def State.fetch (s : State) (t : Nat) (pc : Addr56) : Fetch :=
  let c := s.core (coreOf t)
  let job := ((s.gangOf t).map (·.job)).getD 0
  match c.loop.bind fun b => b.word? job pc with
  | some w => .word w
  | none => c.fetchAt (s.nameOf t) pc.toNat

/-- The header's guard bits, read from any word (R122). -/
def wordGuard (th : Thread) (w : BitVec 96) : Bool :=
  let gd := (Fields.ofWord w).gd
  Bool.xor (th.pred (gd.setWidth 3)) (bitOf gd 3)

/-- A fault on instruction fetch: FADDR holds the fetch address, the decoded registers are 0 (Table 23-2). -/
def fetchFault (pc : Addr56) (e : FaultInfo) : FaultRec :=
  { code := e.code, async := false, info := e.info, addr := pc.setWidth 64, pc := pc, word := 0#96,
    decoded := false, opa := 0#64, opb := 0#64 }

/-- The access of a fetch of the line at an address. -/
def fetchAcc (pc : Addr56) (va : Nat) : Access :=
  { space := .glb, region := 0, addr := va, size := 1, issued := pc.setWidth 64 }

/-- A fetch of a missing line may start: its walk or fault does, and its request has a budget and room at the home
(R268, R280). -/
def State.mayFetch (s : State) (t : Nat) (pc : Addr56) (va : Nat) : Bool :=
  match s.checkGlb t .fetch (fetchAcc pc va) with
  | .ok pte =>
    s.affordsFor t (s.homeCost (s.partOf t) (s.asidOf t) va pte (dieOf (coreOf t)) true)
      && s.sliceRoom (s.part (s.partOf t)) (s.asidOf t) va pte (2 ^ 64 - 1) (dieOf (coreOf t)) none
  | _ => true

/-- Lines of an instruction cache: 128 KiB (R4). -/
def codeLines : Nat := 2048

/-- Room for one more line in a core's instruction cache; a free value picks what leaves a full one (log 40). -/
def State.roomCode (s : State) (core : Nat) : State :=
  let n := (s.core core).icache.length
  if n < codeLines then s
  else
    let (w, s) := s.freeWord
    s.modCore core fun c => { c with icache := c.icache.eraseIdx (w.toNat % n) }

/-- A line brought into the instruction cache under its primary form (R58), where the check of R50 passes; a translation
miss holds the thread (R366), and a refusal is a fault whatever the guard (R357). -/
def State.fillCode (s : State) (t : Nat) (pc : Addr56) (va : Nat) : State :=
  match s.checkGlb t .fetch (fetchAcc pc va) with
  | .walk => s.startWalk t pc va true
  | .fault e => s.deliverFault t (fetchFault pc e)
  | .ok pte =>
    let part := s.partOf t
    let asid := s.asidOf t
    let core := coreOf t
    let (a, v) := primaryForm (s.part part) asid va
    let s := s.payFor t (s.homeCost part asid va pte (dieOf core) true)
    let r := s.homeLine part asid va pte (2 ^ 64 - 1) (dieOf core) none
    let l : ICLine := { asid := a, line := v / 64, data := r.data, poison := r.poison }
    let s := if cacheable (s.part part) asid va pte then
        r.after.tagL2 part asid (va / 64) (s.vdevOf t) pte (dieOf core) else r.after
    (s.roomCode core).modCore core fun c => { c with icache := l :: c.icache }

/-! ## What leaves a core (R89, R90, R268, R280) -/

/-- The attributes under which an entry drains: those that stand beside the line, else those of a walk (R50,
R56). -/
def State.drainAttrs (s : State) (core : Nat) (p : Partition) (asid va : Nat) : Option DWord :=
  match s.attrs core p asid va with
  | some e => some e
  | none =>
    match s.walkNow p asid va with
    | .leaf e => some e
    | _ => none

/-- The cost of an entry that leaves the core as it drains; one that joins the write-through queue costs nothing yet,
nor does one that is refused (Table 13-3). -/
def State.drainCost (s : State) (t : Nat) (e : PsqEntry) (direct : Bool) : Budget :=
  let core := coreOf t
  let part := s.partOf t
  let p := s.part part
  let asid := s.asidOf t
  let va := 16 * e.block
  let acc : Access := { space := e.space, region := e.region, addr := va, size := 16, issued := 0#64 }
  if e.space = .glb then
    match s.drainAttrs core p asid va with
    | none => Budget.none
    | some pte =>
      if (s.permit part core .store asid va pte).isSome then Budget.none
      else if pteTier pte = 2 || uncached pte || isMirror p pte || direct then s.homeCost part asid va pte (dieOf core) false
      else Budget.none
  else s.accessCost t acc none false

/-- The cost of a drained entry (Table 13-3). -/
def State.wtCost (s : State) (core : Nat) (e : WtEntry) : Budget :=
  s.homeCost (s.partOf e.thread) e.asid (16 * e.block) e.pte (dieOf core) false

/-- The head of a core's write-through queue finds its budget (R268). -/
def State.queueAffords (s : State) (core : Nat) (e : WtEntry) : Bool :=
  s.affords (isleOf core) (s.partOf e.thread) e.vdev (s.wtCost core e)

/-- The home slices have room for lines that leave cores at once (R280). -/
def State.roomFor (s : State) (p : Partition) (lines : List Nat) : Bool :=
  lines.all fun n =>
    decide ((s.mem.misses.filter fun e => e.slice == p.home n).length + (lines.filter fun m => p.home m == p.home n).length
      ≤ missEntries)

/-! ## Locked Mirror lines (R63) -/

/-- The line of an access is locked by an update that has not ended (R63). -/
def State.accessLocked (s : State) (t : Nat) (acc : Access) : Bool :=
  acc.space == .glb &&
    (let (a, v) := primaryForm (s.part (s.partOf t)) (s.asidOf t) acc.addr
     s.mirrorLocked a (v / 64))

/-- A load meets a line that an update has locked and not yet reached on its die (R63). -/
def State.loadStalled (s : State) (t : Nat) (acc : Access) : Bool :=
  acc.space == .glb &&
    (let (a, v) := primaryForm (s.part (s.partOf t)) (s.asidOf t) acc.addr
     s.mem.updates.any fun u => u.2.asid == a && u.2.line == v / 64 && u.2.atomic
       && u.2.todo.contains (dieOf (coreOf t)))

/-- An access lies on a fabric window. -/
def State.onWindow (s : State) (t : Nat) (acc : Access) : Bool :=
  acc.space == .glb
    && (match s.drainAttrs (coreOf t) (s.part (s.partOf t)) (s.asidOf t) acc.addr with
        | some e => pteTier e == 2
        | none => false)

/-- An outstanding access is not cleared: a load stands at a locked line, whose update may still fail, or an atomic on a
fabric window waits for its reply, in whose place an error may come at its own boundary (R63, R129, R292). -/
def State.uncleared (s : State) (t : Nat) (o : Outstanding) : Bool :=
  match o.kind with
  | .load acc _ _ _ _ _ _ => s.loadStalled t acc
  | .atomic acc _ _ _ _ => s.onWindow t acc
  | _ => false

/-! ## An instruction that waits at its own turn -/

/-- A thread undone to the boundary before an instruction that has issued and may not act yet: it waits for a spent budget
or a locked line, and replays in its turn of the next cycle (R63, R268). -/
def State.waitLane (s : State) (t : Nat) (pc : Addr56) : LaneRes :=
  let s := s.modThread t fun th =>
    { th with pc := pc, hold := .replay, order := th.order - 1
              longs := th.longs.map fun (o : Outstanding) => { o with left := o.left + 1 } }
  .ok { s with sched := { s.sched with waiting := s.sched.waiting ++ [.group [t]] } }

/-- An instruction starts a unit of work of a cost, or waits for its budget (R268). -/
def State.ifAffords (s : State) (t : Nat) (pc : Addr56) (cost : Budget) (f : State → LaneRes) : LaneRes :=
  if s.affordsFor t cost then f (s.payFor t cost) else s.waitLane t pc

end Sys2Proof.Machine
end

