-- ==== Sys2Proof/Machine/Issue.lean ====
section
/-! DEFINITION. Issue: which threads may issue (R21, R87, R129, R181, R216, R230, R245, R253), the weights at
the ports (R35, R264), the group builder (R22, R23, R127) and what an undecodable word does (R363). -/

namespace Sys2Proof.Machine

/-- The issue ports, in the order in which they are filled (R22, R23): 0 memory, 1 control, 2 and 3 vector. An
OP that the map does not assign goes to the control port: DESIGN CHOICE (log 9). -/
def portOf (op : Nat) : Nat :=
  if op ≤ 0x0F then 1
  else if op ≤ 0x33 then 2
  else if op ≤ 0x3F then 1
  else if op ≤ 0x5E then 2
  else if op ≤ 0x5F then 1
  else if op ≤ 0xD0 then
    if op ≤ 0x65 ∨ (0x70 ≤ op ∧ op ≤ 0x73) ∨ (0x80 ≤ op ∧ op ≤ 0x87) ∨ (0x90 ≤ op ∧ op ≤ 0x95)
      ∨ (0xA0 ≤ op ∧ op ≤ 0xA4) ∨ (0xB0 ≤ op ∧ op ≤ 0xB8) ∨ (0xC0 ≤ op ∧ op ≤ 0xC5) ∨ op = 0xD0
    then 0 else 1
  else 1

/-! ## The scoreboard (R21, R128, R129) -/

/-- The registers that an outstanding instruction will write. -/
def Outstanding.regs (o : Outstanding) : List Nat :=
  match o.kind with
  | .result ws _ => ws.map (·.1)
  | .load _ w d _ _ _ _ => (dataWrites w d 0#128).map (·.1)
  | .atomic acc _ _ _ d =>
    match d with
    | none => []
    | some r => if acc.size = 8 then [r.toNat, r.toNat + 1] else [r.toNat]
  | .insp _ d => [d.toNat]
  | .mwait d _ => [d.toNat]
  | .coll i => i.writes

/-- The predicates that an outstanding instruction will write. -/
def Outstanding.preds (o : Outstanding) : List (BitVec 3) :=
  match o.kind with
  | .coll i => i.predWrites
  | _ => []

/-- An outstanding instruction that can set flags (R181). -/
def Outstanding.flagSetter (o : Outstanding) : Bool :=
  match o.kind with
  | .result _ _ => 0x47 ≤ (o.word.toNat % 256)
  | .load _ _ _ _ _ f _ => (match f with | .raw => false | .element _ _ _ => true)
  | .atomic _ (.op f) _ _ _ => f.isFloat
  | .coll (.cred _ o _) => o == .fadd || o == .fmin || o == .fmax
  | .coll (.cscan _ x) => x.op == .fadd
  | _ => false

/-- No window of an outstanding instruction is exhausted (R129). -/
def Thread.windowOpen (th : Thread) : Bool := th.longs.all fun o => 0 < o.left

/-- Registers that the scoreboard holds: results to come and pending tokens (R129, R213, R232). -/
def Thread.pendingRegs (th : Thread) : List Nat :=
  th.longs.flatMap Outstanding.regs ++ (th.tokens.filter fun p => p.2 != Token.done).map (·.1)

/-- Predicates that the scoreboard holds. -/
def Thread.pendingPreds (th : Thread) : List (BitVec 3) := th.longs.flatMap Outstanding.preds

/-- The scoreboard lets an instruction issue. -/
def Thread.scoreboardFree (th : Thread) (i : Instr) (guard : BitVec 3) : Bool :=
  let rs := th.pendingRegs
  let ps := th.pendingPreds
  !((i.reads ++ i.writes).any rs.contains) && !((guard :: i.predReads ++ i.predWrites).any ps.contains)

/-! ## Room (R87, R216, R230, R253) -/

/-- An earlier load, atomic or INSP that has not bound or completed (condition 2 of R89). -/
def Outstanding.holdsStores (o : Outstanding) : Bool :=
  match o.kind with
  | .load _ _ _ _ _ _ _ => true
  | .atomic _ _ _ _ _ => true
  | .insp _ _ => true
  | _ => false

/-- Condition 2 of R89 for an entry of a thread. -/
def Thread.mayDrain (th : Thread) (e : PsqEntry) : Bool :=
  !e.tent && th.longs.all fun o => !(o.holdsStores && decide (o.order < e.order))

/-- The line of an entry is locked by an update of a Mirror page that has not ended (R63). -/
def State.entryLocked (s : State) (t : Nat) (e : PsqEntry) : Bool :=
  e.space == .glb &&
    (let (a, v) := primaryForm (s.part (s.partOf t)) (s.asidOf t) (16 * e.block)
     s.mirrorLocked a (v / 64))

/-- The bytes of a `.glb` entry all lie in the grant of its core's copy of the line (R284). -/
def State.entryGranted (s : State) (t : Nat) (e : PsqEntry) : Bool :=
  let (a, v) := s.nameOf t (16 * e.block)
  let m := (blockInLine (v / 16) e.data e.mask).2
  let g := (s.grantOf (coreOf t) a (v / 64)).toNat
  e.space == .glb && g != 0 && m &&& g == m

/-- An entry that would be performed in its core's L1 alone stands behind one of the same bytes in the write-through queue:
it drains after it, so that a byte takes its stores in order (R91, R284). -/
def State.entryBehind (s : State) (t : Nat) (e : PsqEntry) : Bool :=
  let (a, v) := s.nameOf t (16 * e.block)
  s.entryGranted t e
    && (s.core (coreOf t)).wtq.any fun w => w.asid == a && w.block == v / 16 && w.mask &&& e.mask != 0#16

/-- The page of an entry has a leaf: one that has lost it waits, as an access without a leaf does (R56, R366; DEDUCED:
log 16). -/
def State.entryMapped (s : State) (t : Nat) (e : PsqEntry) : Bool :=
  e.space != .glb || (s.drainAttrs (coreOf t) (s.part (s.partOf t)) (s.asidOf t) (16 * e.block)).isSome

/-- An entry may drain now (R63, R89). -/
def State.mayDrain (s : State) (t : Nat) (th : Thread) (e : PsqEntry) : Bool :=
  th.mayDrain e && !s.entryLocked t e && !s.entryBehind t e && s.entryMapped t e

/-- An entry lies on a fabric window, whose peer performs it (R291). -/
def State.windowEntry (s : State) (t : Nat) (e : PsqEntry) : Bool :=
  e.space == .glb &&
    (match s.walkNow (s.part (s.partOf t)) (s.asidOf t) (16 * e.block) with
     | .leaf pte => pteTier pte == 2
     | _ => false)

/-- A write frame of a thread's entry stands unacknowledged (R291). -/
def State.entryUnacked (s : State) (t : Nat) : Bool :=
  s.net.conns.any fun c => c.2.sent.any fun f => match f.use with | .entry u _ => u == t | _ => false

/-- Every non-tentative entry of a thread can be forced to its point of coherence at once (R89, R107, R268); an entry on a
fabric window waits for its peer. -/
def State.forceable (s : State) (t : Nat) : Bool :=
  match s.thread t with
  | none => true
  | some th =>
    !s.entryUnacked t
      && th.psq.all fun e => e.tent || (s.mayDrain t th e && !s.windowEntry t e && s.affordsFor t (s.drainCost t e true))

/-- A replica hold keeps an update of a thread from where a scope of an issuer must see it (R92, R106, R323). -/
def State.updateHeld (s : State) (t scope u : Nat) : Bool :=
  s.mem.updates.any fun x =>
    x.2.writer == u
      && x.2.todo.any fun d => (decide (4 ≤ scope) || (decide (2 ≤ scope) && d == dieOf (coreOf t)))
        && s.replicaHeld x.2.part d x.2.asid x.2.line

/-- The threads that an implicit inspection reaches: the issuer, with its gang or band (R106, R212). -/
def State.inspected (s : State) (t : Nat) (target : InspTarget) : List Nat :=
  match s.thread t with
  | none => []
  | some th =>
    match target with
    | .none => [t]
    | .gang => (s.threads.filter fun p => p.2.gang == th.gang).map (·.1)
    | .band =>
      let gs := s.bandGangs th.gang
      (s.threads.filter fun p => gs.contains p.2.gang).map (·.1)

/-- The lines that an implicit inspection sends out of a core: those of its write-through queue. -/
def State.queueLines (s : State) (core : Nat) : List Nat := (s.core core).wtq.map fun e => e.block / 4

/-- The lines of the `.glb` entries of a thread. -/
def State.entryLines (s : State) (t : Nat) : List Nat :=
  match s.thread t with
  | none => []
  | some th => (th.psq.filter fun e => e.space == .glb && !e.tent).map fun e => e.block / 4

/-- What an implicit inspection at a scope forces can be forced at once, and nothing holds it back from where the scope
must see it (R89, R92, R106). -/
def State.inspectable (s : State) (t : Nat) (target : InspTarget) (scope : Nat) : Bool :=
  let us := s.inspected t target
  let cores := (us.map coreOf).foldl addOnce []
  us.all (fun u => s.forceable u && !s.updateHeld t scope u)
    && cores.all (fun c => (s.core c).wtq.all (s.queueAffords c))
    && s.roomFor (s.part (s.partOf t)) (cores.flatMap s.queueLines ++ us.flatMap s.entryLines)

/-- Entries of a core's pool in use (R87). -/
def State.poolUsed (s : State) (core : Nat) : Nat :=
  s.threads.foldl (fun n p => if coreOf p.1 = core then n + p.2.psq.length else n) 0

/-- A store can have an entry: its thread's 32 and its core's 2,048 leave room (R87). Entries that are all
tentative are no stall (R242). -/
def State.psqRoom (s : State) (t : Nat) (th : Thread) : Bool :=
  decide (th.psq.length < 32 ∧ s.poolUsed (coreOf t) < 2048)
    || (decide (32 ≤ th.psq.length) && th.psq.all (·.tent))

/-- A store merges into the thread's newest entry (R86, R242). -/
def PsqEntry.takes (e : PsqEntry) (acc : Access) (tent : Bool) (frame : Nat) : Bool :=
  e.space == acc.space && e.region == acc.region && e.block == acc.addr / 16 && e.tent == tent && (!tent || e.frame == frame)

/-- The frame serial that a store records: that of the newest frame, read from its private bytes (R242). -/
def Thread.newestSerial (th : Thread) : Nat :=
  if th.choice.cpd = 0#32 then 0
  else natBits (Memory.readNat th.priv (th.choice.trl.toNat - 32 * th.choice.cpd.toNat) 32) 224 32

/-- An entry that an outstanding INSP or atomic of its thread waits for: a later store does not merge into it, whose drain
would then wait for that instruction (R89, R97, R104; DEDUCED, log 19). -/
def State.awaited (s : State) (t : Nat) (th : Thread) (e : PsqEntry) : Bool :=
  (s.insps.any fun q => q.2.observer == t && q.2.entries.contains (t, e.seq))
    || th.longs.any fun o => match o.kind with
        | .atomic acc _ _ _ _ => acc.space == e.space && acc.region == e.region && acc.addr / 16 == e.block
        | _ => false

/-- A store may merge into the thread's newest entry. -/
def State.mayMerge (s : State) (t : Nat) (th : Thread) : Bool :=
  match th.psq.getLast? with
  | none => false
  | some e => !s.awaited t th e

/-- The entry that a store merges into: the thread's newest, where it takes the store (R86). -/
def Thread.mergeInto (th : Thread) (acc : Access) (may : Bool) : Option PsqEntry :=
  th.psq.getLast?.filter fun e => may && e.takes acc (th.choice.cpd != 0#32) th.newestSerial

/-- A store at issue needs no new entry (R86). -/
def State.storeMerges (s : State) (t : Nat) (th : Thread) (x : MemArgs) : Bool :=
  match s.resolve t x.space (effAddr x.space (th.base x.space x.a) x.off) x.width.bytes with
  | some acc => (th.mergeInto acc (s.mayMerge t th)).isSome
  | none => false

/-- The requests of the request-engine queue of a core (R216). -/
def State.engineQueue (s : State) (core : Nat) : List Request :=
  (s.reqs.filter fun p => p.2.core == core && !p.2.saved && (p.2.op == 0x90 || p.2.op == 0x91 || p.2.op == 0x93 || p.2.op == 0x95)).map
    (·.2)

/-- The requests of the matrix queue of a core (R216). -/
def State.matrixQueue (s : State) (core : Nat) : List Request :=
  (s.reqs.filter fun p => p.2.core == core && !p.2.saved && (p.2.op == 0xA0 || p.2.op == 0xA1)).map (·.2)

/-- A shared entry of the request-engine queue is free. -/
def State.sharedFree (s : State) (core : Nat) : Bool := decide (((s.engineQueue core).filter (·.shared)).length < 64)

/-- An entry of the request-engine queue is free for a gang (R216). -/
def State.engineRoom (s : State) (core gang : Nat) : Bool :=
  s.sharedFree core || !((s.engineQueue core).any fun r => r.gang == gang && !r.shared)

/-- An entry of the matrix queue is free (R216). -/
def State.matrixRoom (s : State) (core : Nat) : Bool := decide ((s.matrixQueue core).length < 32)

/-- An FMTSET can be accepted on a core (R253). -/
def State.fmtsetRoom (s : State) (core : Nat) : Bool :=
  decide ((s.reqs.filter fun p => p.2.core == core && p.2.op == 0xD0).length < 8)

/-- Accumulator rows of a matrix request on a member core: first row and count (R229). -/
def MmaJob.rows (m : MmaJob) : Nat × Nat := (natBits m.block.toNat 80 11, natBits m.block.toNat 0 12)

/-- An earlier matrix request touches accumulator rows of a core (R230). -/
def State.rowsBusy (s : State) (core first n : Nat) : Bool :=
  s.reqs.any fun p => !p.2.saved && match p.2.body with
    | .mma m => m.cores.contains core && decide (m.rows.1 < first + n ∧ first < m.rows.1 + m.rows.2)
    | _ => false

/-- Nothing outstanding will write a register: no long-latency instruction with a result, and no token register that a
request or a message will write (R213, R232, R245, R248). -/
def Thread.settled (th : Thread) : Bool :=
  (th.longs.all fun o => o.regs.isEmpty) && th.tokens.all fun p => p.2 == Token.done

/-- A load that binds at issue follows every INSP, and the loads and atomics before it (R91, R93, R140, R205; DEDUCED:
log 31). -/
def Thread.bindsNow (th : Thread) : Bool := th.longs.all fun o => !o.holdsStores

/-- The implicit inspection of an instruction: its target, and the scope at which what it forces must be visible (R106, R147,
R212, R231, R235, R309). -/
def Instr.inspection : Instr → Option (InspTarget × Nat)
  | .copy _ x | .kick _ x => some (x.target, x.sc.toNat)
  | .tilef _ x => some (x.target, x.sc.toNat)
  | .fabxWr _ x | .fabxRed _ x => some (x.target, x.sc.toNat)
  | .mma _ x => some (x.target, x.sc.toNat)
  | .mloadb _ x => some (x.target, x.sc.toNat)
  | .qput _ x => some (if x.g then .gang else .none, 2)
  | .qget _ _ => some (.none, 2)
  | .msend _ _ | .jspawn _ _ => some (.none, 4)
  | .posti _ _ | .svc _ _ => some (.none, 5)
  | _ => none

/-- What an instruction inspects can be inspected now (R106). -/
def State.inspectionMay (s : State) (t : Nat) (i : Instr) : Bool :=
  match Instr.inspection i with
  | none => true
  | some (g, sc) => s.inspectable t g sc

/-- An instruction finds the entry, the room or the settled results that it needs (Table 2-3). -/
def State.roomMay (s : State) (t : Nat) (th : Thread) : Instr → Bool
  | .exit _ => th.longs.isEmpty
  | .fail _ | .steal _ _ => th.settled && th.bindsNow
  | .brt _ _ | .tryAlt _ _ | .elide _ _ | .tileh _ _ => th.bindsNow
  | .movs _ x => x.idx != 0x016#12 || !th.longs.any Outstanding.flagSetter
  | .setsFlg _ _ => !th.longs.any Outstanding.flagSetter
  | .st _ x => x.space == .priv || s.psqRoom t th || s.storeMerges t th x
  | .copy _ _ | .kick _ _ | .tilef _ _ | .fabxWr _ _ | .fabxRed _ _ => s.engineRoom (coreOf t) th.gang
  | .mma _ _ | .mloadb _ _ => s.matrixRoom (coreOf t)
  | .fmtset _ _ => s.fmtsetRoom (coreOf t)
  | .mwrite _ x => !s.rowsBusy (coreOf t) (((th.a32 x.a).toNat + x.off.toNat) / 32) 1
  | .mzero _ x => !s.rowsBusy (coreOf t) (th.a32 x.a).toNat x.n.toNat
  | _ => true

/-- The conditions of Table 2-3 that stall a thread before its next instruction issues, beside the window and
the scoreboard. -/
def State.admits (s : State) (t : Nat) (th : Thread) (i : Instr) : Bool := s.inspectionMay t i && s.roomMay t th i

/-! ## Candidates -/

/-- A READY thread with the word at its PC. -/
structure Cand where
  t    : Nat
  pc   : Addr56
  word : BitVec 96
  job  : Nat
  vdev : Nat
  strm : Nat
  age  : Nat
  rel  : Bool
  solo : Bool
  yld  : Bool
  deriving DecidableEq, Repr

/-- The partition of a gang is being pre-empted, so that it issues nothing (R302 step 1). -/
def State.halting (s : State) (g : Gang) : Bool :=
  ((s.job g.job).map fun j => (s.part j.part).halting.isSome).getD false

/-- A thread that is READY but for the conditions of its next instruction: its gang runs and is not stopped, its
partition is not being pre-empted, no cancel stands at its boundary (R250), and what it has outstanding is cleared (R129). -/
def State.awake (s : State) (t : Nat) (th : Thread) : Bool :=
  th.hold == .none && th.windowOpen && !(th.choice.cancel && !th.faults.inh) && !th.longs.any (s.uncleared t)
    && (match s.gang th.gang with
        | none => false
        | some g => g.phase == .running && !g.stopped && !s.halting g)

/-- Its next instruction may issue, or its word raises a fault (R21, R363). -/
def State.mayIssue (s : State) (t : Nat) (th : Thread) (w : BitVec 96) : Bool :=
  match decode (s.regCount t) w with
  | .ok i => th.scoreboardFree i ((Fields.ofWord w).gd.setWidth 3) && (!wordGuard th w || s.admits t th i)
  | .error _ => !th.pendingPreds.contains ((Fields.ofWord w).gd.setWidth 3)

/-- The READY threads of a core with the words at their PCs, in increasing handle order. -/
def State.cands (s : State) (core : Nat) : List Cand :=
  s.threads.filterMap fun (p : Nat × Thread) =>
    if coreOf p.1 = core ∧ s.awake p.1 p.2 then
      match s.fetch p.1 p.2.pc with
      | .word w =>
        if s.mayIssue p.1 p.2 w then
          let g := s.gang p.2.gang
          let j := g.bind fun g => s.job g.job
          some { t := p.1, pc := p.2.pc, word := w, job := (g.map (·.job)).getD 0, vdev := (j.map (·.vdev)).getD 0,
                 strm := (j.map fun j => 256 * j.vdev + j.stream).getD 0, age := p.2.marks.age,
                 rel := p.2.marks.release, solo := p.2.marks.solo, yld := p.2.marks.yld != 0 }
        else none
      | _ => none
    else none

/-- A thread's fetch needs a step: it finds no line, and may ask for it, or a poisoned one (R120, R268, R385). -/
def State.needsFetch (s : State) (t : Nat) (th : Thread) : Bool :=
  match s.fetch t th.pc with
  | .word _ => false
  | .missing va => s.mayFetch t th.pc va
  | .poisoned => true

/-- The first READY thread of a core whose fetch needs a step. -/
def State.fetchNeed (s : State) (core : Nat) : Option (Nat × Addr56 × Fetch) :=
  (s.threads.find? fun (p : Nat × Thread) =>
    decide (coreOf p.1 = core) && s.awake p.1 p.2 && s.needsFetch p.1 p.2).map fun p => (p.1, p.2.pc, s.fetch p.1 p.2.pc)

/-- A fetch step: the line is brought in, or the fault is raised. -/
def State.fetchStep (s : State) (need : Nat × Addr56 × Fetch) : State :=
  match need with
  | (t, pc, .missing va) => s.fillCode t pc va
  | (t, pc, _) => s.deliverFault t (fetchFault pc (infoFault Code.poison 1))

/-- A list without repeats, in its order. -/
def dedup {α : Type} [BEq α] (l : List α) : List α :=
  l.foldl (fun seen x => if seen.contains x then seen else seen ++ [x]) []

/-- N of R23: the distinct PCs of the READY threads of a core, those a YLD hint leaves out included. -/
def State.readyPcs (s : State) (core : Nat) : Nat := (dedup ((s.cands core).map (·.pc))).length

/-! ## Weights (R35, R264) -/

/-- A gang that R35 keeps out of C in this cycle. -/
def State.keptOut (s : State) (t : Nat) : Bool :=
  match s.gangOf t with
  | none => true
  | some g => g.parkedOn.isSome || (g.halved && decide (s.clock t % 2 = 1))

/-- Overdue in this cycle (R23). -/
def Cand.overdue (c : Cand) (n : Nat) : Bool := decide (2 * n ≤ c.age)

/-- VWEIGHT of a virtual device (Table 13-2). -/
def State.vweight (s : State) (part vdev : Nat) : Int :=
  ((Tab.get? (s.part part).vdevs vdev).map fun v => (natBits v.desc.toNat 176 8 : Int)).getD 0

/-- WEIGHT of a stream (Table 13-1). -/
def State.sweight (s : State) (part stream : Nat) : Int :=
  ((Tab.get? (s.part part).streams stream).map fun v => (natBits v.desc.toNat 24 8 : Int)).getD 0

/-- A credit, where a holder that begins to contend starts at its weight. -/
def creditOf (credits : Tab Int) (k : Nat) (w : Int) : Int := Tab.getD credits k w

/-- Contenders' credits, refilled where none is positive: each gains its weight, capped at it (R264). -/
def refill (credits : Tab Int) (ks : List (Nat × Int)) : Tab Int :=
  let now := ks.map fun k => (k.1, creditOf credits k.1 k.2, k.2)
  let out := if now.any fun k => 0 < k.2.1 then now else now.map fun k => (k.1, min (k.2.1 + k.2.2) k.2.2, k.2.2)
  out.foldl (fun c k => Tab.set c k.1 k.2.1) credits

/-- The credits of a core after the refill for a port, and the candidates offered to the builder. -/
def State.offer (s : State) (core n : Nat) (cs : List Cand) : List Cand × Core :=
  let part (c : Cand) : Nat := s.partOf c.t
  let cr := s.core core
  let vs := dedup (cs.map fun c => (c.vdev, s.vweight (part c) c.vdev))
  let ss := dedup (cs.map fun c => (c.strm, s.sweight (part c) c.strm))
  let vc := refill cr.vcredit vs
  let sc := vs.foldl (fun sc v => refill sc (ss.filter fun x => x.1 / 256 == v.1)) cr.scredit
  let vpos (k : Nat) : Bool := decide (0 < Tab.getD vc k 0)
  let spos (k : Nat) : Bool := decide (0 < Tab.getD sc k 0)
  let ok (c : Cand) : Bool :=
    !s.keptOut c.t
      && (c.overdue n
          || ((vpos c.vdev || !(vs.any fun v => vpos v.1))
              && (spos c.strm || !(ss.any fun x => x.1 / 256 == c.vdev && spos x.1))))
  (cs.filter ok, { cr with vcredit := vc, scredit := sc })

/-! ## The group builder (R23, R127) -/

/-- The key of a candidate: its PC and its job. -/
def Cand.key (c : Cand) : Addr56 × Nat := (c.pc, c.job)

/-- The number of distinct lanes with a key. -/
def keySize (cs : List Cand) (k : Addr56 × Nat) : Nat :=
  (dedup ((cs.filter fun c => c.key == k).map fun c => laneOf c.t)).length

/-- The better of two keys: more lanes, then the lower PC, then the lower job. -/
def betterKey (cs : List Cand) (a b : Addr56 × Nat) : Addr56 × Nat :=
  if keySize cs a ≠ keySize cs b then if keySize cs b < keySize cs a then a else b
  else if a.1 ≠ b.1 then if a.1.toNat < b.1.toNat then a else b
  else if a.2 ≤ b.2 then a else b

/-- For each lane the candidate with the key in the lowest slot, in lane order. -/
def groupOf (cs : List Cand) (k : Addr56 × Nat) : List Nat :=
  (List.range 32).filterMap fun lane =>
    ((cs.filter fun c => c.key == k && laneOf c.t == lane).foldl
      (fun (best : Option Nat) c => match best with
        | none => some c.t
        | some t => if slotOf c.t < slotOf t then some c.t else some t) none)

/-- The group that the builder forms from C, with its word. -/
def buildGroup (n : Nat) (cs : List Cand) : Option (Addr56 × BitVec 96 × List Nat) :=
  let pool :=
    if cs.any (·.rel) then cs.filter (·.rel)
    else if cs.any (·.overdue n) then cs.filter (·.overdue n)
    else if cs.any (·.solo) then cs.filter (·.solo)
    else cs
  match dedup (pool.map Cand.key) with
  | [] => none
  | k :: ks =>
    let best := ks.foldl (betterKey cs) k
    match cs.find? fun c => c.key == best with
    | none => none
    | some c => some (best.1, c.word, groupOf cs best)

/-- One credit taken from the virtual device and the stream of a group (R264). -/
def Core.charge (c : Core) (vdev strm : Nat) : Core :=
  { c with vcredit := Tab.set c.vcredit vdev (Tab.getD c.vcredit vdev 0 - 1)
           scredit := Tab.set c.scredit strm (Tab.getD c.scredit strm 0 - 1) }

/-- The group that issues on a port of a core, latched and charged, none where C is empty; in either case the refilled
credits stand, and the threads that R35 does not keep out count as offered (R23, R264). -/
def State.form (s : State) (core port : Nat) : Option Issue × State :=
  let n := s.sched.pcs
  let cs := (s.cands core).filter fun c =>
    !c.yld && !s.sched.chosen.contains c.t && min (portOf (c.word.toNat % 256)) 2 == min port 2
  if cs.isEmpty then (none, s)
  else
    let (offered, cr) := s.offer core n cs
    let aging := (cs.filter fun c => !s.keptOut c.t).map (·.t)
    let s := { s with sched := { s.sched with offered := aging.foldl addOnce s.sched.offered } }
    match buildGroup n offered with
    | none => (none, s.setCore core cr)
    | some (pc, w, ts) =>
      match offered.find? fun c => ts.contains c.t with
      | none => (none, s.setCore core cr)
      | some c =>
        let iss : Issue := { core := core, pc := pc, word := w, members := ts }
        let s := s.setCore core (cr.charge c.vdev c.strm)
        let s := s.modPart (s.partOf c.t) fun (p : Partition) => { p with usage := { p.usage with groups := p.usage.groups + 1 } }
        (some iss, { s with sched := { s.sched with issue := some iss, chosen := s.sched.chosen ++ ts } })

/-! ## Words that decode to no instruction (R136, R363) -/

/-- The fault code of a word that the decoder refuses. -/
def codeOfDecode : DecodeFault → Nat
  | .illegalOp => Code.illegalOp
  | .illegalField => Code.illegalField
  | .scopeReserved => Code.scopeReserved

/-- One thread meets such a word: a false guard passes it, a true one raises the fault (R122). -/
def State.illegalLane (e : DecodeFault) (iss : Issue) (s : State) (t : Nat) : State :=
  match s.thread t with
  | none => s
  | some th =>
    let y := Fields.ofWord iss.word
    if wordGuard th iss.word then
      let rc := s.regCount t
      (s.setThread t (th.issued (headerOf iss.word))).deliverFault t
        { code := codeOfDecode e, async := false, info := 0#32, addr := 0#64, pc := iss.pc, word := iss.word,
          decoded := true, opa := th.rawOperand rc y.body.a, opb := th.rawOperand rc y.body.b }
    else s.setThread t { th.issued (headerOf iss.word) with pc := nextPc iss.pc, hold := .none }

/-- A group whose word decodes to no instruction. -/
def State.illegalGroup (s : State) (e : DecodeFault) (iss : Issue) : State :=
  iss.members.foldl (State.illegalLane e iss) s

end Sys2Proof.Machine
end

