-- ==== Sys2Proof/Machine/Mirror.lean ====
section
/-! DEFINITION. Mirror updates carried to the replicas (R61 to R63, R323, R348, R395), and loads that bind as they issue
(R140, R205). -/

namespace Sys2Proof.Machine

/-! ## Mirror updates (R61 to R63, R323, R395) -/

/-- The oldest update of a line that a die's replica still owes. -/
def State.oldestUpdate (s : State) (u : MirrorUpdate) (die : Nat) : Option Nat :=
  (s.mem.updates.find? fun x => x.2.asid == u.asid && x.2.line == u.line && x.2.todo.contains die).map (·.1)

/-- An update without anything left to do goes; under atomic propagation that unlocks the line (R63). -/
def State.settleUpdate (s : State) (k : Nat) : State :=
  match Tab.get? s.mem.updates k with
  | none => s
  | some u =>
    if u.todo.isEmpty && (!u.atomic || u.unacked.isEmpty) then
      s.setMem { s.mem with updates := Tab.erase s.mem.updates k }
    else s

/-- The bytes of a die's replica replaced by an update; a replica that now follows the primary needs no record
(R61). -/
def State.setReplica (s : State) (u : MirrorUpdate) (die : Nat) (bad : Bool) : State :=
  let mine (r : Replica) : Bool := r.asid == u.asid && r.line == u.line && r.die == die
  let more := s.mem.updates.any fun x => x.2.asid == u.asid && x.2.line == u.line && x.2.todo.contains die
  let rest := s.mem.replicas.filter fun r => !mine r
  let r : Replica := { asid := u.asid, line := u.line, die := die, data := u.data, poison := bad || u.poison }
  s.setMem { s.mem with replicas := if bad || more then r :: rest else rest }

/-- MIRROR_PROPAGATE (R61): an update applied at the replica of a die, in the primary's order; a replica whose die
is absent becomes poisoned, and event 0x09 is logged (R395). -/
def State.applyMirror (s : State) (k die : Nat) : State :=
  match Tab.get? s.mem.updates k with
  | none => s
  | some u =>
    if !u.todo.contains die || s.replicaHeld u.part die u.asid u.line || s.oldestUpdate u die != some k then s
    else
      let bad := s.fw.reset.contains die || s.fw.dead.contains die
      let u' : MirrorUpdate := { u with todo := without u.todo die, unacked := if bad then without u.unacked die else u.unacked }
      let s := s.setMem { s.mem with updates := Tab.set s.mem.updates k u' }
      let s := s.setReplica u die bad
      let p := s.part u.part
      let s := if bad then s.log 0x09 (.slice (p.replicaHome u.line p.primaryDie)) (some u.part) (64 * u.line) 0
        else s.wake .glb (u.asid * 2 ^ 50 + u.line) 0 fun t => dieOf (coreOf t) == die
      s.settleUpdate k

/-- MIRROR_REPLICA_ACK (R63). -/
def State.ackMirror (s : State) (k die : Nat) : State :=
  match Tab.get? s.mem.updates k with
  | none => s
  | some u =>
    if u.todo.contains die then s
    else
      (s.setMem { s.mem with updates := Tab.set s.mem.updates k { u with unacked := without u.unacked die } }).settleUpdate k

/-- The updates of a partition carried to the dies that `which` selects, and acknowledged (R95, Table 5-2). -/
def State.spreadMirror (s : State) (part : Nat) (which : Nat → Bool) : State :=
  (s.mem.updates.filter fun u => u.2.part == part).foldl
    (fun (s : State) u =>
      (u.2.todo.filter which).foldl (fun (s : State) d => (s.applyMirror u.1 d).ackMirror u.1 d) s) s

/-- The Mirror updates among `mine` have reached what a scope asks for (Table 5-2). -/
def State.mirrorClear (s : State) (mine : MirrorUpdate → Bool) (scope die : Nat) : Bool :=
  decide (scope ≤ 1) || s.mem.updates.all fun u => !mine u.2
    || (if scope ≤ 3 then !(u.2.todo.contains die) else u.2.todo.isEmpty)

/-- Mirror updates carried as far as a scope asks for (Table 5-2). -/
def State.spreadScope (s : State) (part scope die : Nat) : State :=
  if scope ≤ 1 then s
  else if scope ≤ 3 then s.spreadMirror part fun d => d == die
  else s.spreadMirror part fun _ => true

/-- Replica holds end, and the updates that they kept are applied in order (R323). -/
def State.endHolds (s : State) (which : ReplicaHold → Bool) : State :=
  let s1 := s.setMem { s.mem with holds := s.mem.holds.filter fun h => !which h }
  s.mem.updates.foldl
    (fun (s1 : State) (u : Nat × MirrorUpdate) =>
      (u.2.todo.filter fun d => s.replicaHeld u.2.part d u.2.asid u.2.line).foldl
        (fun (s1 : State) d => s1.applyMirror u.1 d) s1) s1

/-- A hold that releases at a stall ends when a load stalls on a line that it holds (R348). -/
def State.stallHolds (s : State) (t : Nat) (acc : Access) : State :=
  let part := s.partOf t
  let (a, v) := primaryForm (s.part part) (s.asidOf t) acc.addr
  s.endHolds fun h => h.atStall && h.keeps part (dieOf (coreOf t)) a (v / 64)

/-! ## Loads that bind as they issue -/

/-- The cost of a load: none where the thread has every byte of its own (Table 13-3). -/
def State.loadCost (s : State) (t : Nat) (acc : Access) (pte : Option DWord) (mask : Nat) : Budget :=
  if lineMask (acc.addr % 64) acc.size &&& mask = lineMask (acc.addr % 64) acc.size then Budget.none
  else s.accessCost t acc pte true

/-- The home slice has room for a load that its L1 does not serve (R280). -/
def State.loadRoom (s : State) (t : Nat) (acc : Access) (pte : Option DWord) : Bool :=
  match pte with
  | none => true
  | some e =>
    (s.loadCost t acc pte 0 == Budget.none && s.l1Hit (coreOf t) (s.asidOf t) acc.addr)
      || s.sliceRoom (s.part (s.partOf t)) (s.asidOf t) acc.addr e (lineMask (acc.addr % 64) acc.size) (dieOf (coreOf t))
          (some (coreOf t))

/-- A load that binds as its instruction issues (R140, R205): it waits at a locked line (R63), for room at the home (R280)
and for its budget (R268); poison is a fault (R385). -/
def State.bindAtIssue (s : State) (t : Nat) (pc : Addr56) (acc : Access) (pte : Option DWord)
    (f : Nat → State → LaneRes) : LaneRes :=
  let own := ((s.thread t).map fun th => (gatherOwn (th.ownBytes acc)).2).getD 0
  if s.loadStalled t acc then (s.stallHolds t acc).waitLane t pc
  else if !s.loadRoom t acc pte then s.waitLane t pc
  else
    s.ifAffords t pc (s.loadCost t acc pte own) fun s =>
      let r := s.loadNow t acc pte true
      match r.poison with
      | some n => .fault (addrFault Code.poison acc.issued n)
      | none => f r.value r.after

end Sys2Proof.Machine
end

