-- ==== Sys2Proof/Machine/Trail.lean ====
section
/-! DEFINITION. Lane-private stores, the trail and the choice stack (R46, R239 to R242), tentative entries, the
failure of an elide section (R207), what ends a wait (R270), and where a branch goes on (R133, R139, R324). -/

namespace Sys2Proof.Machine

/-! ## Private memory and the trail -/

def Thread.cpd (th : Thread) : Nat := th.choice.cpd.toNat
def Thread.trb (th : Thread) : Nat := th.choice.trb.toNat
def Thread.trp (th : Thread) : Nat := th.choice.trp.toNat
def Thread.trl (th : Thread) : Nat := th.choice.trl.toNat

def Thread.setCpd (th : Thread) (n : Nat) : Thread := { th with choice := { th.choice with cpd := BitVec.ofNat 32 n } }
def Thread.setTrp (th : Thread) (n : Nat) : Thread := { th with choice := { th.choice with trp := BitVec.ofNat 32 n } }

/-- Bytes written to lane-private memory; a write that covers a whole 16-byte word clears its poison (R386). -/
def Thread.privWrite (th : Thread) (a n v : Nat) : Thread :=
  { th with priv := Memory.writeNat th.priv a n v,
            privPoison := th.privPoison.filter fun w => !decide (a ≤ 16 * w ∧ 16 * w + 16 ≤ a + n) }

/-- A trail entry appended at TRP (Table 12-3). -/
def Thread.trail (th : Thread) (kind loc old : Nat) : Thread :=
  (th.privWrite th.trp 16 (old * 2 ^ 64 + kind * 2 ^ 62 + loc % 2 ^ 18)).setTrp (th.trp + 16)

/-- `n` more trail entries fit below TRL - 32 CPD (R242). -/
def Thread.trailFits (th : Thread) (n : Nat) : Bool := decide (th.trp + 16 * n + 32 * th.cpd ≤ th.trl)

/-- What a private store trails: TKIND and address of each word (R242). -/
def trailWords (a n : Nat) : List (Nat × Nat) :=
  if n ≤ 4 then [(0, a / 4 * 4)] else if n = 8 then [(1, a)] else [(1, a), (1, a + 8)]

/-- A private store: trailed while CPD > 0; none where the entries do not fit (R46, R242). -/
def Thread.privStore (th : Thread) (a n v : Nat) : Option Thread :=
  if th.cpd = 0 then some (th.privWrite a n v)
  else
    let ws := trailWords a n
    if th.trailFits ws.length then
      some ((ws.foldl (fun (th : Thread) w =>
        th.trail w.1 w.2 (Memory.readNat th.priv w.2 (if w.1 = 0 then 4 else 8))) th).privWrite a n v)
    else none

/-- One entry undone; entries that Table 12-3 does not cover write nothing (R241). -/
def Thread.undoEntry (th : Thread) (rc pbytes at_ : Nat) : Thread :=
  let e := Memory.readNat th.priv at_ 16
  let kind := natBits e 62 2
  let loc := natBits e 0 18
  if kind = 0 then
    if loc % 4 = 0 ∧ loc + 4 ≤ pbytes then th.privWrite loc 4 (natBits e 64 32) else th
  else if kind = 1 then
    if loc % 8 = 0 ∧ loc + 8 ≤ pbytes then th.privWrite loc 8 (natBits e 64 64) else th
  else if kind = 2 then
    if loc % 512 < rc then th.setReg (loc % 512) (BitVec.ofNat 32 (natBits e 64 32)) else th
  else th

/-- Undo down to x, newest first (R241). -/
def Thread.undoLoop (th : Thread) (rc pbytes x : Nat) : Nat → Thread
  | 0 => th
  | fuel + 1 =>
    if x < th.trp then
      let at_ := th.trp - 16
      ((th.undoEntry rc pbytes at_).setTrp at_).undoLoop rc pbytes x fuel
    else th

def Thread.undoTo (th : Thread) (rc pbytes x : Nat) : Thread := th.undoLoop rc pbytes x (th.trp / 16 + 1)

/-! ## Frames (Table 12-2) -/

/-- A choice frame. -/
structure Frame where
  ser    : Nat
  stolen : Nat
  kind   : Nat
  steal  : Bool
  mark   : Nat
  wstart : Nat
  wlen   : Nat
  cnt    : Nat
  next   : Nat
  trp0   : Nat
  pv     : Bool
  prev   : Nat
  table  : Nat
  aux    : Nat
  deriving DecidableEq, Repr

def Frame.ofNat (n : Nat) : Frame :=
  { ser := natBits n 224 32, stolen := natBits n 208 16, kind := natBits n 206 2, steal := natBits n 205 1 == 1,
    mark := natBits n 199 6, wstart := natBits n 190 9, wlen := natBits n 185 5, cnt := natBits n 181 4,
    next := natBits n 176 5, trp0 := natBits n 158 18, pv := natBits n 157 1 == 1, prev := natBits n 139 18,
    table := natBits n 56 54, aux := natBits n 0 56 }

def Frame.toNat (f : Frame) : Nat :=
  f.ser % 2 ^ 32 * 2 ^ 224 + f.stolen % 2 ^ 16 * 2 ^ 208 + f.kind % 4 * 2 ^ 206 + bit f.steal * 2 ^ 205
    + f.mark % 64 * 2 ^ 199 + f.wstart % 512 * 2 ^ 190 + f.wlen % 32 * 2 ^ 185 + f.cnt % 16 * 2 ^ 181
    + f.next % 32 * 2 ^ 176 + f.trp0 % 2 ^ 18 * 2 ^ 158 + bit f.pv * 2 ^ 157 + f.prev % 2 ^ 18 * 2 ^ 139
    + f.table % 2 ^ 54 * 2 ^ 56 + f.aux % 2 ^ 56

/-- The address of the frame at a depth (R239). -/
def Thread.frameAt (th : Thread) (d : Nat) : Nat := th.trl - 32 * d

/-- The frame at a depth (R240). -/
def Thread.frame (th : Thread) (d : Nat) : Frame := Frame.ofNat (Memory.readNat th.priv (th.frameAt d) 32)

/-- A frame written at a depth. -/
def Thread.setFrame (th : Thread) (d : Nat) (f : Frame) : Thread := th.privWrite (th.frameAt d) 32 f.toNat

/-- A change of a frame field, the frame's zero bits left as they stand. -/
def Thread.patchFrame (th : Thread) (d lo len v : Nat) : Thread :=
  let n := Memory.readNat th.priv (th.frameAt d) 32
  th.privWrite (th.frameAt d) 32 (n - natBits n lo len * 2 ^ lo + v % 2 ^ len * 2 ^ lo)

/-- The depths of the stack, newest first. -/
def Thread.depths (th : Thread) : List Nat := (List.range th.cpd).reverse.map (· + 1)

/-- The depth of the innermost elide frame above a depth (R206, R246). -/
def Thread.elideDepth (th : Thread) (above : Nat) : Option Nat :=
  th.depths.find? fun d => decide (above < d) && (th.frame d).kind == 1

/-- Tentative entries that the thread holds. -/
def Thread.tentative (th : Thread) : List PsqEntry := th.psq.filter (·.tent)

/-- The tentative entries beyond the first `n` discarded, in creation order (R245). -/
def Thread.keepTentative (th : Thread) (n : Nat) : Thread :=
  let keep := (th.tentative.take n).map (·.seq)
  { th with psq := th.psq.filter fun e => !e.tent || keep.contains e.seq }

/-- A private store that its trail refuses raises TRAIL_FULL (R242). -/
def State.storePriv (s : State) (t : Nat) (a n v : Nat) : LaneRes :=
  match (s.thread t).map fun th => th.privStore a n v with
  | none => .ok s
  | some none => .fault (plainFault Code.trailFull)
  | some (some th) => .ok (s.setThread t th)

/-! ## Links (R247, R249, R250, R426) -/

/-- The depths of the link frames of a thread, newest first (R240). -/
def Thread.linkDepths (th : Thread) : List Nat := th.depths.filter fun d => (th.frame d).kind == 2

/-- Fields of a link frame's AUX (Table 12-2). -/
def Frame.spent (f : Frame) : Bool := natBits f.aux 41 1 == 1
def Frame.vser (f : Frame) : Nat := natBits f.aux 9 32
def Frame.valt (f : Frame) : Nat := natBits f.aux 5 4
def Frame.vlane (f : Frame) : Nat := natBits f.aux 0 5

/-- A thread has an active link (Table 12-2). -/
def Thread.linked (th : Thread) : Bool := th.linkDepths.any fun d => !(th.frame d).spent

/-- SPENT of a link frame: AUX[41] (Table 12-2). A cancel that has reached a link has no effect once it is spent
(R250). -/
def Thread.spend (th : Thread) (d : Nat) : Thread :=
  let th := th.patchFrame d 41 1 1
  { th with choice := { th.choice with cancel := th.choice.cancel && th.linked } }

/-- Cancel(V, s) (R247): every thread of V's crew with an active link to V's lane, of serial s or more, has a
cancel pending. -/
def State.cancelFrom (s : State) (victim serial : Nat) : State :=
  let hit := s.threads.filter fun (p : Nat × Thread) =>
    crewOf p.1 == crewOf victim && p.2.hold != .exited
      && p.2.linkDepths.any fun d =>
        let f := p.2.frame d
        !f.spent && f.vlane == laneOf victim && decide (serial ≤ f.vser)
  let s := hit.foldl (fun (s : State) p =>
    s.modThread p.1 fun th => { th with choice := { th.choice with cancel := true } }) s
  s.sooner (hit.map fun p => .event (.cancelTakeEffect p.1))

/-- Release (R249): bit VALT of STOLEN in the victim's frame of serial VSER, where that frame is still on its
stack, and the link record goes (R426). -/
def State.releaseLink (s : State) (t : Nat) : State :=
  match (s.thread t).bind fun th => th.choice.link with
  | none => s
  | some l =>
    let s := s.modThread t fun th => { th with choice := { th.choice with link := none } }
    s.modThread (32 * crewOf t + l.lane) fun v =>
      match v.depths.find? fun d => (v.frame d).ser == l.serial with
      | none => v
      | some d => v.patchFrame d (208 + l.alt) 1 0

/-- A thread leaves a link with a status (R245, R250): where it holds a link record, the status is written to the
record's register and it goes on after the record's STEAL; else at `pc`. -/
def Thread.leaveLink (th : Thread) (status : Nat) (pc : Addr56) : Thread :=
  match th.choice.link with
  | none => { th with pc := pc }
  | some l => { th.setReg l.reg.toNat (BitVec.ofNat 32 status) with pc := nextPc l.pc }

/-! ## Waits that end -/

/-- A JOIN arrival withdrawn: the lane leaves the arrived mask that holds it (R250). -/
def Crew.withdrawJoin (c : Crew) (lane : Nat) : Crew :=
  { c with records := c.records.map fun (r : Rejoin) => { r with arrived := r.arrived &&& ~~~(1#32 <<< lane) } }

/-- Every arrival of a lane withdrawn, as its thread goes (R28). -/
def Crew.withdrawAll (c : Crew) (lane : Nat) : Crew :=
  { c with arrivals := c.arrivals.filter fun x => x.lane != lane }

/-- The unperformed arrival of a lane that waits at a collective withdrawn; collectives that it has passed under a false
guard count it as arrived all the same (R29, R250, R401). -/
def Crew.withdrawColl (c : Crew) (lane : Nat) : Crew :=
  { c with arrivals := c.arrivals.filter fun x => x.lane != lane || !x.counts }

/-- The WAITING state left without its effect: the record of the wait is removed, an MWAIT is abandoned, and a
JOIN arrival is withdrawn (R250, R380). An abandoned MWAIT leaves MONITOR's watch armed, since R250 and R200 say nothing of
it: DESIGN CHOICE (log 51). -/
def State.abandonWait (s : State) (t : Nat) : State :=
  match s.thread t with
  | none => s
  | some th =>
    let joined := match th.hold with | .wait .join => true | _ => false
    let th := { th with
      hold := match th.hold with | .wait _ => .none | h => h
      longs := th.longs.filter fun o => match o.kind with | .mwait _ _ => false | _ => true }
    let s := (s.setThread t th).dropWaits t
    if joined then s.setCrew (crewOf t) ((s.crew (crewOf t)).withdrawJoin (laneOf t)) else s

/-- A cancel takes effect at the boundary `pc` of a thief (R250): its wait and its arrivals are withdrawn, its own
thieves are cancelled, it undoes down to TRB, and its links are spent. A thread without an active link is not
changed. -/
def State.takeCancel (s : State) (t : Nat) (pc : Addr56) : State :=
  let s := s.modThread t fun th => { th with choice := { th.choice with cancel := false } }
  match s.thread t with
  | none => s
  | some th0 =>
    match th0.linkDepths.find? fun d => !(th0.frame d).spent with
    | none => s.settleFault t
    | some d =>
      let s := s.abandonWait t
      let s := s.setCrew (crewOf t) ((s.crew (crewOf t)).withdrawColl (laneOf t))
      let s := s.cancelFrom t (th0.frame d).ser
      s.modThread t fun th =>
        let links := th.linkDepths
        let th := (th.undoTo (s.regCount t) (s.privBytes t) th.trb).keepTentative 0
        let th := (links.foldl (fun (th : Thread) d => th.spend d) th).setCpd 0
        let th := { th with
          hold := .none
          longs := th.longs.filter fun o => match o.kind with | .coll _ => false | _ => true
          choice := { th.choice with elide := none, cancel := false }
          faults := { th.faults with inh := false } }
        th.leaveLink 2 pc

/-- An elide section is open (R205). -/
def Thread.inSection (th : Thread) : Bool := th.choice.elide.isSome

/-- The failure of an elide section (R207, R365); a BARINIT or inspection in progress goes on. -/
def State.elideFail (s : State) (t reason : Nat) : State :=
  let s := s.abandonWait t
  s.modThread t fun th =>
    if th.hold = .exited then th else
    let d := (th.elideDepth 0).getD 1
    let f := th.frame d
    let th := (th.undoTo (s.regCount t) (s.privBytes t) f.trp0).keepTentative f.mark
    let th := (th.setTrp f.trp0).setCpd (d - 1)
    let hold : Hold := match th.hold with | .finishing .elend => .none | .finishing x => .finishing x | _ => .none
    { th with choice := { th.choice with elide := none }, pc := BitVec.ofNat 56 f.aux, hold := hold,
              faults := { th.faults with finfo := BitVec.ofNat 32 reason, inh := false } }

/-- An instruction that fails an open section instead of acting (Table 10-3, R380). -/
def unlessSection (reason : Nat) (f : Addr56 → State → Nat → LaneRes) : Addr56 → State → Nat → LaneRes :=
  fun pc s t =>
    match (s.thread t).map Thread.inSection with
    | some true => .ok (s.elideFail t reason)
    | _ => f pc s t

/-! ## Loads in a section (R205) -/

/-- The number of a line among the marks of a section. -/
def markOf (asid va : Nat) : Nat := asid * 2 ^ 50 + va / 64

/-- A line marked in an open section (R205). -/
def Thread.mark (th : Thread) (line : Nat) : Thread :=
  { th with choice := { th.choice with elide := th.choice.elide.map fun (x : Section) =>
      { x with marked := addOnce x.marked line } } }

/-- A load in an open section that cannot allocate in the L1 fails it with reason 2 (Table 10-3). -/
def State.sectionLoadFails (s : State) (t : Nat) (acc : Access) (pte : Option DWord) (hint : BitVec 2) : Bool :=
  match s.thread t, pte with
  | some th, some e =>
    th.inSection && acc.space == .glb
      && (hint == 2#2 || !cacheable (s.part (s.partOf t)) (s.asidOf t) acc.addr e)
  | _, _ => false

/-- The mark that a `.glb` load of an open section leaves (R205). -/
def State.markLoad (s : State) (t : Nat) (acc : Access) : State :=
  if acc.space = .glb then s.modThread t fun th => th.mark (markOf (s.asidOf t) acc.addr) else s

/-! ## Branches -/

/-- The address of a relative target and its check (R133). -/
def State.isCode (s : State) (t : Nat) (a : Nat) : Bool := decide (a < 2 ^ 56) && isCodeAddress (s.codeBase t) a

/-- The words from a PC on as the instruction cache holds them. -/
def Core.wordsFrom (c : Core) (name : Nat → Nat × Nat) (pc : Nat) : Nat → List (Option (BitVec 96))
  | 0 => []
  | n + 1 =>
    (match c.fetchAt name pc with
      | .word w => some w
      | _ => none) :: c.wordsFrom name (pc + 12) n

/-- A thread leaves its run (R324). -/
def State.endRun (s : State) (t : Nat) : State :=
  match s.thread t with
  | none => s
  | some th =>
    if th.marks.inRun then
      (s.setThread t { th with marks := { th.marks with inRun := false } }).freeLoop (coreOf t)
    else s

/-- A taken branch from b to a target: a target outside the captured range ends the run, and a short backward
branch captures its range where the buffer is free (R139, R324). DEDUCED: log 17. -/
def State.jump (s : State) (t : Nat) (b target : Addr56) : State :=
  let s := s.modThread t fun th => { th with pc := target }
  let core := coreOf t
  let job := ((s.gangOf t).map (·.job)).getD 0
  match (s.core core).loop with
  | some l => if l.covers job target then s else s.endRun t
  | none =>
    let n := (b.toNat - target.toNat) / 12 + 1
    if target.toNat ≤ b.toNat ∧ n ≤ 48 then
      let ws := (s.core core).wordsFrom (s.nameOf t) target.toNat n
      let s := s.modCore core fun c => { c with loop := some { job := job, first := target, words := ws } }
      s.modThread t fun th => { th with marks := { th.marks with inRun := true } }
    else s

/-- A thread goes on at an address by a return or an alternative: no branch of R139, so nothing is captured; an
address outside the captured range ends the run (R324). -/
def State.goTo (s : State) (t : Nat) (target : Addr56) : State :=
  let s := s.modThread t fun th => { th with pc := target }
  if s.inLoop t target then s else s.endRun t

/-- A branch with its target check (R133). -/
def State.jumpChecked (s : State) (t : Nat) (b : Addr56) (target : Nat) : LaneRes :=
  if s.isCode t target then .ok (s.jump t b (BitVec.ofNat 56 target))
  else .fault (addrFault Code.codeAlign (BitVec.ofNat 64 target))

end Sys2Proof.Machine
end

