-- ==== Sys2Proof/Machine/Control.lean ====
section
/-! DEFINITION. Control instructions, OP 00 to 0E (R26 to R28, R139 to R148): branches, calls, rejoin records,
EXIT, pacing, traps and the return from a handler. SVC stands with the services of the runtime. -/

namespace Sys2Proof.Machine

/-! ## Branches and calls (R139 to R142) -/

/-- The target of BRA, CALL and SPLIT (R133). -/
def braTarget (pc : Addr56) (off : Word) : Nat := (relTarget (nextPc pc) 12 off).toNat

/-- CODE_ALIGN with the target that failed (R133). -/
def badTarget (a : Nat) : FaultInfo := addrFault Code.codeAlign (BitVec.ofNat 64 a)

/-- A call: the target's check, Push, and the branch (R139, R141). -/
def State.call (s : State) (t : Nat) (pc : Addr56) (target : Nat) : LaneRes :=
  match s.thread t with
  | none => .ok s
  | some th =>
    let csp := th.csp.toNat
    if !s.isCode t target then .fault (badTarget target)
    else if csp % 8 ≠ 0 then .fault (addrFault Code.misaligned (BitVec.ofInt 64 ((csp : Int) - 8)))
    else if csp < th.trl + 8 then .fault (infoFault Code.callStack 0)
    else
      (s.storePriv t (csp - 8) 8 (nextPc pc).toNat).bind fun s =>
        .ok ((s.modThread t fun th => { th with csp := BitVec.ofNat 32 (csp - 8) }).jump t pc (BitVec.ofNat 56 target))

/-- RET (R141). -/
def State.ret (s : State) (t : Nat) : LaneRes :=
  match s.thread t with
  | none => .ok s
  | some th =>
    let csp := th.csp.toNat
    if csp % 8 ≠ 0 then .fault (addrFault Code.misaligned (BitVec.ofNat 64 csp))
    else if s.privBytes t < csp + 8 then .fault (infoFault Code.callStack 1)
    else if th.privPoison.contains (csp / 16) then .fault (addrFault Code.poison (BitVec.ofNat 64 csp) 3)
    else
      let r := Memory.readNat th.priv csp 8
      if s.isCode t r then
        .ok ((s.modThread t fun th => { th with csp := BitVec.ofNat 32 (csp + 8) }).goTo t (BitVec.ofNat 56 r))
      else .fault (badTarget r)

/-- Entry i of an alternative table at `tb` (R140, R243): the 32-bit `.glb` load with its checks, and the target's
check; then `f` with the target, in the state after the load. -/
def withTarget (s : State) (t : Nat) (pc : Addr56) (tb i : Nat) (f : State → Addr56 → LaneRes) : LaneRes :=
  withAccess s t pc .load .glb (BitVec.ofNat 64 (tb + 4 * i)) 4 fun acc pte =>
    if s.sectionLoadFails t acc pte 0#2 then .ok (s.elideFail t 2)
    else
      s.bindAtIssue t pc acc pte fun v s =>
        let target := BitVec.ofInt 56 ((tb : Int) + 4 * sval (BitVec.ofNat 32 v))
        if s.isCode t target.toNat then f (s.markLoad t acc) target else .fault (badTarget target.toNat)

/-- The start of a table (R140). -/
def tableStart (pc : Addr56) (off : Word) : Nat := (relTarget (nextPc pc) 4 off).toNat

/-- BRA (R139). -/
def execBra (h : Hdr) (x : OffArgs) (s : State) : Host.Outcome State Fault Refusal :=
  perThread (.bra h x) (fun pc s t => s.jumpChecked t pc (braTarget pc x.off)) s

/-- BRX (R139): b[63:56] must be zero, and b a code address. -/
def execBrx (h : Hdr) (x : PairArgs) (s : State) : Host.Outcome State Fault Refusal :=
  perThread (.brx h x) (fun pc s t =>
    match s.thread t with
    | none => .ok s
    | some th => s.jumpChecked t pc (th.pair x.b.toNat).toNat) s

/-- BRT (R140). -/
def execBrt (h : Hdr) (x : BrtArgs) (s : State) : Host.Outcome State Fault Refusal :=
  perThread (.brt h x) (fun pc s t =>
    match s.thread t with
    | none => .ok s
    | some th =>
      let i := (th.reg x.a.toNat).toNat
      if x.count.toNat ≤ i then .fault (plainFault Code.tableRange)
      else withTarget s t pc (tableStart pc x.off) i fun s target => .ok (s.jump t pc target)) s

/-- CALL (R139, R141). -/
def execCall (h : Hdr) (x : OffArgs) (s : State) : Host.Outcome State Fault Refusal :=
  perThread (.call h x) (fun pc s t => s.call t pc (braTarget pc x.off)) s

/-- CALLX (R139, R141). -/
def execCallx (h : Hdr) (x : PairArgs) (s : State) : Host.Outcome State Fault Refusal :=
  perThread (.callx h x) (fun pc s t =>
    match s.thread t with
    | none => .ok s
    | some th => s.call t pc (th.pair x.b.toNat).toNat) s

/-- RET (R141). -/
def execRet (h : Hdr) (s : State) : Host.Outcome State Fault Refusal :=
  perThread (.ret h) (fun _ s t => s.ret t) s

/-! ## Rejoin records (R25 to R28, R143) -/

/-- The bit of a lane. -/
def laneBit (t : Nat) : BitVec 32 := 1#32 <<< laneOf t

/-- SPLIT by one lane: it joins the top record of the same SPLIT and rejoin PC that nobody has arrived at, or
pushes one; none where it would be the ninth (R26, R143). -/
def Crew.split (c : Crew) (pc rejoin : Addr56) (b : BitVec 32) : Option Crew :=
  let pushed : Crew := { c with records := { split := pc, rejoin := rejoin, mask := b, arrived := 0#32 } :: c.records }
  match c.records with
  | [] => some pushed
  | r :: rest =>
    if r.split = pc ∧ r.rejoin = rejoin ∧ r.arrived = 0#32 then
      some { c with records := { r with mask := r.mask ||| b } :: rest }
    else if 8 ≤ c.records.length then none
    else some pushed

/-- The threads held at a record go on after their JOIN with the release mark (R27). -/
def State.releaseRecord (s : State) (crew : Nat) (r : Rejoin) : State :=
  (List.range 32).foldl
    (fun (s : State) lane =>
      let t := 32 * crew + lane
      match s.thread t with
      | none => s
      | some th =>
        if bitOf r.arrived lane ∧ th.hold = .wait .join then
          (s.setThread t { th with hold := .none, pc := nextPc th.pc, marks := { th.marks with release := true } }).dropWaits t
        else s) s

/-- Complete records release, and records without lanes go (R27, R28). -/
def State.settleRecords (s : State) (crew : Nat) : State :=
  let c := s.crew crew
  let full (r : Rejoin) : Bool := r.arrived == r.mask
  let s := (c.records.filter full).foldl (fun (s : State) r => s.releaseRecord crew r) s
  s.setCrew crew { s.crew crew with records := c.records.filter fun r => !full r }

/-- JOIN by one lane (R27). -/
def State.join (s : State) (t : Nat) (pc : Addr56) : State :=
  let k := crewOf t
  match (s.crew k).records with
  | [] => s
  | r :: rest =>
    if r.rejoin = pc ∧ bitOf r.mask (laneOf t) then
      let s := s.modThread t fun th => { th with hold := .wait .join, pc := pc }
      let s := s.setCrew k { s.crew k with records := { r with arrived := r.arrived ||| laneBit t } :: rest }
      s.settleRecords k
    else s

/-- A lane leaves every record of its crew (R28). -/
def Crew.leave (c : Crew) (t : Nat) : Crew :=
  { c with records := c.records.map fun (r : Rejoin) =>
      { r with mask := r.mask &&& ~~~laneBit t, arrived := r.arrived &&& ~~~laneBit t } }

/-- A gang whose threads have all exited goes on to retire (Table 2-9). -/
def State.gangOver (s : State) (g : Nat) : State :=
  if s.threads.all fun (p : Nat × Thread) => p.2.gang != g || p.2.hold == .exited then
    s.modGang g fun x => { x with phase := .retiring }
  else s

/-- EXIT (R28, R144). -/
def State.exit (s : State) (t : Nat) : State :=
  match s.thread t with
  | none => s
  | some th0 =>
    let k := crewOf t
    let s := s.setCrew k (((s.crew k).leave t).withdrawAll (laneOf t))
    let s := s.settleRecords k
    let s := (s.releaseLink t).endRun t
    let s := s.modThread t fun th =>
      { th with hold := .exited, tokens := [], watch := none, asyncs := [],
                choice := { th.choice with elide := none, cancel := false }
                faults := { th.faults with inh := false } }
    ((s.dropWaits t).retestCrew k).gangOver th0.gang

/-- A member of the issue group that takes part meets a crew whose ninth record the SPLIT would push (R26, R143). -/
def State.splitFull (s : State) (h : Hdr) (x : OffArgs) : Bool :=
  match s.sched.issue with
  | none => false
  | some iss =>
    iss.members.any fun t =>
      ((s.thread t).map fun th => th.guard h).getD false
        && ((s.crew (crewOf t)).split iss.pc (BitVec.ofNat 56 (braTarget iss.pc x.off)) (laneBit t)).isNone

/-- SPLIT (R26, R143): where a crew's ninth record raises CALL_STACK, no thread of the group is pushed. -/
def execSplit (h : Hdr) (x : OffArgs) (s : State) : Host.Outcome State Fault Refusal :=
  let full := s.splitFull h x
  perThread (.split h x) (fun pc s t =>
    let target := braTarget pc x.off
    if !s.isCode t target then .fault (badTarget target)
    else
      match (s.crew (crewOf t)).split pc (BitVec.ofNat 56 target) (laneBit t) with
      | none => .fault (infoFault Code.callStack 2)
      | some c => .ok (if full then s else s.setCrew (crewOf t) c)) s

/-- JOIN (R27, R143). -/
def execJoin (h : Hdr) (s : State) : Host.Outcome State Fault Refusal :=
  perThread (.join h) (fun pc s t => .ok (s.join t pc)) s

/-- EXIT (R28, R144). -/
def execExit (h : Hdr) (s : State) : Host.Outcome State Fault Refusal :=
  perThread (.exit h) (fun _ s t => .ok (s.exit t)) s

/-! ## Pacing (R145) -/

/-- NOP (R145). -/
def execNop (h : Hdr) (s : State) : Host.Outcome State Fault Refusal :=
  perThread (.nop h) (threadOnly id) s

/-- YIELD (R145): left out for max(1, n) issue cycles after this one, whose end counts one. -/
def execYield (h : Hdr) (x : CountArgs) (s : State) : Host.Outcome State Fault Refusal :=
  perThread (.yield h x) (threadOnly fun th => { th with hold := .yield (Nat.max 1 x.n.toNat + 1) }) s

/-- SLEEP (R145). -/
def execSleep (h : Hdr) (x : OneArgs) (s : State) : Host.Outcome State Fault Refusal :=
  perThread (.sleep h x) (fun _ s t =>
    match s.thread t with
    | none => .ok s
    | some th =>
      let n := (th.b32 x.b).toNat
      if n = 0 then .ok s else .ok (s.setThread t { th with hold := .sleep (s.clock t + n) })) s

/-! ## Traps and the return (R146, R148, R365) -/

/-- TRAP (R146). -/
def execTrap (h : Hdr) (x : OffArgs) (s : State) : Host.Outcome State Fault Refusal :=
  perThread (.trap h x) (fun _ _ _ => .fault (plainFault Code.software)) s

/-- BKPT (R146, R321): the fault, or the stop of the whole gang for the debugger, with the BKPT behind the thread:
DESIGN CHOICE (log 11). -/
def execBkpt (h : Hdr) (x : OffArgs) (s : State) : Host.Outcome State Fault Refusal :=
  perThread (.bkpt h x) (fun _ s t =>
    match s.thread t, s.gangOf t with
    | some th, some g =>
      if g.debug then .ok (s.setGang th.gang { g with stopped := true }) else .fault (plainFault Code.breakpoint)
    | _, _ => .fault (plainFault Code.breakpoint)) s

/-- The address that IRET returns to (R148): FPC + 12 n, or the pair. DEDUCED: log 28. -/
def iretTarget (th : Thread) (b : SrcB) : Nat :=
  match b with
  | .imm v => (th.faults.fpc + BitVec.ofInt 64 (12 * sval v)).toNat
  | .reg r => (th.pair r.toNat).toNat

/-- A thread that faulted at a collective and returns past it has arrived and contributes nothing (R375). -/
def State.passMissed (s : State) (t : Nat) (i : Instr) (target : Addr56) : State :=
  match (s.thread t).bind (·.missed) with
  | none => s
  | some p =>
    let s := s.modThread t fun th => { th with missed := none }
    if target.toNat ≤ p.toNat then s else s.arrive t (emptyArrival t p i)

/-- IRET (R148, R365); a pending cancel is taken in place of the return (R250). -/
def execIret (h : Hdr) (x : IretArgs) (s : State) : Host.Outcome State Fault Refusal :=
  perThread (.iret h x) (fun pc s t =>
    match s.thread t with
    | none => .ok s
    | some th =>
      if !th.faults.inh then .fault (plainFault Code.privileged)
      else if th.choice.cancel && th.linked then
        .ok (s.takeCancel t (nextPc pc))
      else
        let target := iretTarget th x.b
        if !s.isCode t target then .fault (badTarget target)
        else
          let s := s.passMissed t (.iret h x) (BitVec.ofNat 56 target)
          .ok ((s.modThread t fun th => th.leaveHandler (BitVec.ofNat 56 target)).goTo t (BitVec.ofNat 56 target))) s

end Sys2Proof.Machine
end

