-- ==== Sys2Proof/Machine/Drain.lean ====
section
/-! DEFINITION. Draining: a PSQ entry performed at its point of coherence (R89, R90), entries refused (R390, R292),
the write-through queue, privatised lines merged (R285), Mirror updates applied (R61 to R63, R395), and what an
inspection or a request forces (R97, R106, R107). -/

namespace Sys2Proof.Machine

/-! ## Refused entries -/

/-- The interrupt of a refused entry that drains at or after its thread's EXIT (R390). -/
def State.postRefusal (s : State) (t : Nat) : State :=
  match s.jobOf t with
  | none => s
  | some j => s.postStream j.part j.vdev j.stream 0xFE (interruptRecord 0 t 0x61 0x02 j.part 0xFE)

/-- A fault of no instruction (ASYNC = 1): its PC is the boundary at which it is delivered (R360, R364). -/
def asyncFault (e : FaultInfo) : FaultRec :=
  { code := e.code, async := true, info := e.info, addr := e.addr, pc := 0#56, word := 0#96, decoded := false,
    opa := 0#64, opb := 0#64 }

/-- A fault put before a thread's boundary (R364, R390). -/
def State.addAsync (s : State) (t : Nat) (f : FaultRec) : State :=
  (s.modThread t fun th => { th with asyncs := th.asyncs ++ [f] }).sooner [.event (.asyncFaultDeliver t)]

/-- A refused entry: discarded, logged by the front end that serves its home, and reported to its thread, or to the runtime
after its EXIT (R390). -/
def State.refuseEntry (s : State) (t : Nat) (addr info : Nat) (pte : Option DWord) : State :=
  let part := s.partOf t
  let p := s.part part
  let home := p.homeOf (pte.getD 0#64) ((primaryForm p (s.asidOf t) addr).2 / 64) p.primaryDie
  let s := s.log 0x04 (.frontEnd (isleOf home)) (some part) addr 0
  match s.thread t with
  | none => s
  | some th =>
    if th.hold = .exited then s.postRefusal t
    else s.addAsync t (asyncFault (addrFault Code.access (BitVec.ofNat 64 addr) info))

/-! ## Performing an entry (R90) -/

/-- A core's L1 copy of a line updated (R90, R104). -/
def Core.patchL1 (c : Core) (asid line : Nat) (data : BitVec 512) (mask : Nat) (poison : Bool) : Core :=
  { c with l1 := c.l1.map fun (l : L1Line) =>
      if l.asid = asid ∧ l.line = line then
        { l with data := mergeBytes l.data data mask, poison := l.poison || poison }
      else l }

/-- A write frame of an entry on a fabric window (R291, R293). DEDUCED: log 35. -/
def State.sendEntry (s : State) (t part va : Nat) (pte : DWord) (e : PsqEntry) : State :=
  let pa := physOf pte va
  s.sendFrame part (s.vdevOf t) (pa / 2 ^ 36) (pa % 2 ^ 36) 1 0 0
    (bytesOf (mergeBytes 0#128 e.data e.mask.toNat).toNat 16) (.entry t (BitVec.ofNat 64 va))

/-- FINFO of a drained entry that is refused: 2, or the reason of an absent home or a failed connection (R390,
R394, R292). DEDUCED: log 16. -/
def drainInfo (info : Nat) : Nat := if info = 5 ∨ info = 8 then info else 2

/-- A line performed at its home with the poison it carries (R384). -/
def State.performLine (s : State) (part asid va : Nat) (pte : DWord) (data : BitVec 512) (mask : Nat)
    (core : Option Nat) (writer : Nat) (poison : Bool) : State :=
  let s := if poison then s.poisonLine (dramKey pte va) else s
  s.performGlb part asid va pte data mask core writer

/-- A core's L1 copy of a line takes bytes that its own core has drained and that its grant does not cover: those of the
grant stand for what has been performed (R90, R284). -/
def Core.noteDrained (c : Core) (asid line : Nat) (data : BitVec 512) (mask : Nat) (poison : Bool) : Core :=
  c.modLine asid line fun (l : L1Line) =>
    { l with data := mergeBytes l.data data (mask - (mask &&& l.grant.toNat)), poison := l.poison || poison }

/-- A `.glb` entry performed, queued or refused (R56, R90, R284); `direct` performs an ordinary one at its home, as
the commit of a section does (R206). -/
def State.drainGlb (s : State) (t : Nat) (e : PsqEntry) (direct : Bool) : State :=
  let core := coreOf t
  let part := s.partOf t
  let p := s.part part
  let asid := s.asidOf t
  let va := 16 * e.block
  match s.drainAttrs core p asid va with
  | none => s.refuseEntry t va 2 none
  | some pte =>
    match s.permit part core .store asid va pte, classify p asid va pte with
    | some info, _ => s.refuseEntry t va (drainInfo info) (some pte)
    | none, .leaf _ =>
      let (a, v) := primaryForm p asid va
      let (d, m) := blockInLine (v / 16) e.data e.mask
      if pteTier pte = 2 then s.sendEntry t part va pte e
      else if uncached pte then s.performLine part asid va pte d m (some core) t e.poison
      else if isMirror p pte then
        (s.performLine part asid va pte d m (some core) t e.poison).modCore core fun c =>
          c.patchL1 a (v / 64) d m e.poison
      else if direct then
        (s.performLine part asid va pte d m (some core) t e.poison).modCore core fun c => c.patchL1 a (v / 64) d m e.poison
      else if s.entryGranted t e && !s.entryBehind t e then
        (s.modCore core fun c => c.patchL1 a (v / 64) d m e.poison).loseMarksOf a (v / 64) 1 fun u =>
          coreOf u == core && u != t
      else
        s.modCore core fun c =>
          let c := c.noteDrained a (v / 64) d m e.poison
          { c with wtq := c.wtq ++
            [{ asid := a, block := v / 16, pte := pte, data := e.data, mask := e.mask, thread := t,
               vdev := s.vdevOf t, poison := e.poison, second := (remapOf p asid va).isSome }] }
    | none, _ => s.refuseEntry t va 2 (some pte)

/-- An older entry whose bytes overlap stands before it (R89 condition 1). -/
def Thread.olderOverlap (th : Thread) (e : PsqEntry) : Bool :=
  th.psq.any fun o => decide (o.seq < e.seq) && o.space == e.space && o.region == e.region && o.block == e.block
    && o.mask &&& e.mask != 0#16

/-- The home of a Mirror entry has room for it; what goes elsewhere needs none there (R280). -/
def State.entryRoom (s : State) (t : Nat) (e : PsqEntry) : Bool :=
  let p := s.part (s.partOf t)
  let asid := s.asidOf t
  match if e.space = .glb then s.drainAttrs (coreOf t) p asid (16 * e.block) else none with
  | none => true
  | some pte => !isMirror p pte || s.sliceRoom p asid (16 * e.block) pte (2 ^ 64 - 1) p.primaryDie none

/-- An entry may drain on its own now: conditions 1 and 2 of R89, its budget (R268) and its home (R280). -/
def State.drainMay (s : State) (t : Nat) (th : Thread) (e : PsqEntry) : Bool :=
  s.mayDrain t th e && !th.olderOverlap e && s.affordsFor t (s.drainCost t e false) && s.entryRoom t e

/-- An entry taken out of its thread's PSQ and performed (R89, R90). -/
def State.drainEntry (s : State) (t : Nat) (e : PsqEntry) (direct : Bool := false) : State :=
  let s := (s.payFor t (s.drainCost t e direct)).modThread t fun th =>
    { th with psq := th.psq.filter fun x => x.seq != e.seq }
  if e.space = .glb then s.drainGlb t e direct
  else
    let acc : Access := { space := e.space, region := e.region, addr := 16 * e.block, size := 16, issued := 0#64 }
    let b := s.bankOf (coreOf t) (s.partOf t) acc
    s.performBank b.1 b.2 e.data e.mask e.poison

/-- The entries of a thread that `which` selects, drained in creation order (R89 condition 1). -/
def State.drainWhere (s : State) (t : Nat) (which : PsqEntry → Bool) : State :=
  match s.thread t with
  | none => s
  | some th => (th.psq.filter which).foldl (fun (s : State) e => s.drainEntry t e) s

/-- A thread's non-tentative entries drained. -/
def State.drainAll (s : State) (t : Nat) : State := s.drainWhere t fun e => !e.tent

/-! ## The write-through queue (R90) -/

/-- The head of a core's write-through queue performed at its home (R90), and the core's copy with it. The home slice fills
the line first, but for a secondary access, which leaves no tag (R47, R58). -/
def State.performHead (s : State) (core : Nat) : State :=
  match (s.core core).wtq with
  | [] => s
  | e :: rest =>
    let part := s.partOf e.thread
    let s := (s.pay (isleOf core) part e.vdev (s.wtCost core e)).modCore core fun c => { c with wtq := rest }
    let va := 16 * e.block
    let line := e.block / 4
    let (d, m) := blockInLine e.block e.data e.mask
    let s :=
      if !e.second then s.tagL2 part e.asid line e.vdev e.pte 0
      else if s.l2Holds (s.part part) e.asid line 0 then s
      else s.moved part e.pte 1
    (s.performLine part e.asid va e.pte d m (some core) e.thread e.poison).modCore core fun c =>
      c.patchL1 e.asid line d m e.poison

/-- The head of a core's write-through queue may leave: it has its budget, and its home has room (R268, R280). -/
def State.headMay (s : State) (core : Nat) : Bool :=
  match (s.core core).wtq with
  | [] => false
  | e :: _ =>
    s.queueAffords core e
      && s.sliceRoom (s.part (s.partOf e.thread)) e.asid (16 * e.block) e.pte (blockInLine e.block e.data e.mask).2 0 (some core)

/-- A core's write-through queue emptied. -/
def State.emptyWtq (s : State) (core : Nat) : State :=
  (List.range (s.core core).wtq.length).foldl (fun (s : State) _ => s.performHead core) s

/-- A core's write-through queue performed as far as it may be. -/
def State.drainQueue (s : State) (core : Nat) : State :=
  (List.range (s.core core).wtq.length).foldl (fun (s : State) _ => if s.headMay core then s.performHead core else s) s

/-! ## Privatised lines (R285) -/

/-- The privatised lines of a core that `which` selects, merged at their homes. -/
def State.mergeWhere (s : State) (part core : Nat) (which : L1Line → Bool) : State :=
  ((s.core core).l1.filter fun l => l.grant != 0#64 && which l).foldl
    (fun (s : State) (l : L1Line) => s.mergeLine part core l.asid l.line) s

/-- The write-back reserve of a line's home has an entry for a merge, or holds none (R280). -/
def State.reserveRoom (s : State) (part line : Nat) : Bool :=
  decide ((s.mem.reserve.filter fun e => e.slice == (s.part part).home line).length < reserveEntries)

/-- The privatised lines of a core that `which` selects, merged as far as the reserves of their homes let them. -/
def State.mergeMay (s : State) (part core : Nat) (which : L1Line → Bool) : State :=
  ((s.core core).l1.filter fun l => l.grant != 0#64 && which l).foldl
    (fun (s : State) (l : L1Line) => if s.reserveRoom part l.line then s.mergeLine part core l.asid l.line else s) s

/-- Every privatised line of a core merged. -/
def State.mergeCore (s : State) (part core : Nat) : State := s.mergeWhere part core fun _ => true

/-! ## Forcing (R95, R97, R106) -/

/-- What stands beyond a core's drained entries made visible at a scope to an observer's die: the write-through
queue and privatised lines at their homes, and Mirror updates at the observer's die, or at every die (Table 5-2). -/
def State.settleCore (s : State) (part core scope die : Nat) : State :=
  if scope ≤ 1 then s
  else
    let s := (s.emptyWtq core).mergeCore part core
    if scope ≤ 3 then s.spreadMirror part fun d => d == die else s.spreadMirror part fun _ => true

/-- A thread's non-tentative entries forced out to a scope, at once (R97). -/
def State.forceOut (s : State) (t scope : Nat) : State :=
  (s.drainAll t).settleCore (s.partOf t) (coreOf t) scope (dieOf (coreOf t))

/-- The implicit inspection of a request (R106, R107, R212): the issuer, with its gang or band, is forced, and
the write-through queues of their cores are emptied whatever the scope. DEDUCED: log 29. -/
def State.inspectFor (s : State) (t : Nat) (target : InspTarget) (scope : Nat) : State :=
  let ts := s.inspected t target
  let s := ts.foldl (fun (s : State) u => s.drainAll u) s
  (dedup (ts.map coreOf)).foldl
    (fun (s : State) c => s.settleCore (s.partOf t) c (Nat.max 2 scope) (dieOf (coreOf t))) s

end Sys2Proof.Machine
end

