-- ==== Sys2Proof/Machine/Memory.lean ====
section
/-! DEFINITION. Loads, stores, formatted accesses, prefetch and cache invalidation, OP 60 to 65 (R184 to R190). A
load is outstanding until it binds (LOAD_BIND); a store enters the PSQ, at once where its attributes stand in the
L1, else when STORE_CHECK_PASS comes. -/

namespace Sys2Proof.Machine

/-! ## Loads -/

/-- A load issues: the poison it would meet now is a precise fault (R385), unless the line is locked (R63), and a section may
fail; else it takes the thread's own bytes (R88) and is outstanding (R128, R185). DEDUCED: log 31. -/
def State.issueLoad (s : State) (t : Nat) (pc : Addr56) (acc : Access) (pte : Option DWord) (hint : BitVec 2)
    (width : Width) (d : Reg) (after : Bool) (form : LoadForm) : LaneRes :=
  if s.sectionLoadFails t acc pte hint then .ok (s.elideFail t 2)
  else
    let alloc := hint != 2#2
    match if s.loadStalled t acc then none else (s.loadNow t acc pte alloc).poison with
    | some n => .fault (addrFault Code.poison acc.issued n)
    | none =>
      let begun (th : Thread) : Thread :=
        th.begin pc s.issueWord (.load acc width d after alloc form (th.ownBytes acc))
      .ok ((s.markLoad t acc).modThread t begun)

/-- LD and LD.after (R184, R185). -/
def State.ld (s : State) (t : Nat) (pc : Addr56) (x : MemArgs) (after : Bool) : LaneRes :=
  match s.thread t with
  | none => .ok s
  | some th =>
    withAccess s t pc .load x.space (effAddr x.space (th.base x.space x.a) x.off) x.width.bytes fun acc pte =>
      s.issueLoad t pc acc pte x.hint x.width x.d after .raw

/-! ## Stores (R86, R186, R242) -/

/-- The bytes of a value placed in its 16-byte block, with their mask. -/
def blockData (addr size : Nat) (v : BitVec 128) : BitVec 128 × BitVec 16 :=
  let o := addr % 16
  (BitVec.ofNat 128 (v.toNat % 2 ^ (8 * size) * 2 ^ (8 * o)), BitVec.ofNat 16 ((2 ^ size - 1) * 2 ^ o))

/-- A store placed in the thread's PSQ: merged into its newest entry, where it may be, or in a new one (R86, R242). -/
def Thread.enqueue (th : Thread) (now : Nat) (acc : Access) (v : BitVec 128) (may : Bool) : Thread :=
  let (d, m) := blockData acc.addr acc.size v
  match th.mergeInto acc may with
  | some e =>
    { th with psq := th.psq.dropLast ++
        [{ e with data := mergeBytes e.data d m.toNat, mask := e.mask ||| m, order := th.order }] }
  | none =>
    { th with nextSeq := th.nextSeq + 1, psq := th.psq ++
        [{ seq := th.nextSeq, space := acc.space, region := acc.region, block := acc.addr / 16, data := d, mask := m,
           born := now, tent := th.choice.cpd != 0#32, frame := th.newestSerial, order := th.order, forced := false,
           poison := false }] }

/-- The store needs a new entry (R86). -/
def Thread.needsEntry (th : Thread) (acc : Access) (may : Bool) : Bool := (th.mergeInto acc may).isNone

/-- A store to a shared space after its checks: a 33rd tentative entry fails the section or raises
TENTATIVE_FULL, a full pool stalls, and the attributes of an L1 miss hold the thread (R87, R186, R242, R380). -/
def State.storeShared (s : State) (t : Nat) (acc : Access) (v : BitVec 128) : LaneRes :=
  match s.thread t with
  | none => .ok s
  | some th =>
    let may := s.mayMerge t th
    let fresh := th.needsEntry acc may
    if fresh && th.choice.cpd != 0#32 && decide (32 ≤ th.tentative.length) then
      if th.inSection then .ok (s.elideFail t 3) else .fault (plainFault Code.tentativeFull)
    else if fresh && !s.psqRoom t th then .stall
    else if acc.space = .glb ∧ !s.l1Hit (coreOf t) (s.asidOf t) acc.addr then
      .ok (s.setThread t { th with hold := .storeCheck { acc := acc, data := v } })
    else .ok (s.setThread t (th.enqueue (s.clock t) acc v may))

/-- ST (R186). -/
def State.st (s : State) (t : Nat) (pc : Addr56) (x : MemArgs) : LaneRes :=
  match s.thread t with
  | none => .ok s
  | some th =>
    let v := th.data x.width x.d
    withAccess s t pc .store x.space (effAddr x.space (th.base x.space x.a) x.off) x.width.bytes fun acc _ =>
      if x.space = .priv then s.storePriv t acc.addr acc.size v.toNat else s.storeShared t acc v

/-! ## Formatted lines (R59, R60, R187, R188) -/

/-- BFP2 elements of width W fit the geometry (R60). -/
def fitsGeometry (geom w : Nat) : Bool :=
  if geom = 0 then decide (w ≤ 15) else if geom = 1 then decide (w ≤ 7) else if geom = 2 then decide (w ≤ 3) else false

/-- Elements of a line (Table 3-5). -/
def elementCount (e : Entry) (geom : Nat) : Nat := if e.blk = 1 then 32 * 2 ^ geom else 512 / e.width

/-- The bit of a line at which a BFP2 block starts (Table 3-5). -/
def blockStart (e : Entry) (n : Nat) : Nat := n / 32 * (16 + 32 * e.width)

/-- The lowest bit of an element (Table 3-5). -/
def elementBit (e : Entry) (n : Nat) : Nat :=
  if e.blk = 1 then blockStart e n + 16 + e.width * (n % 32) else e.width * n

/-- The checks of LDF and STF on the entry, the geometry and the element number (R187). A page whose FMT is 3 serves them as
a 64-bit scalar one: R70 has entry 3 used only where FP64 instructions and FCVT name it, and gives such a page no fault.
DESIGN CHOICE: log 52. -/
def elementFault (e : Entry) (geom n : Nat) (addr : DWord) : Option FaultInfo :=
  if !e.v then some (plainFault Code.formatEntry)
  else if e.blk = 1 ∧ (geom = 3 ∨ !fitsGeometry geom e.width) then some (plainFault Code.formatGeometry)
  else if e.blk = 0 ∧ geom ≠ 0 then some (plainFault Code.formatGeometry)
  else if elementCount e geom ≤ n then some (addrFault Code.bounds addr)
  else none

/-- The value of an element of a line (R187). -/
def elementValue (e : Entry) (n : Nat) (line : Nat) : Val :=
  let bits := natBits line (elementBit e n) e.width
  if e.blk = 1 then e.decodeBfp (natBits line (blockStart e n) 16) bits else e.decode bits

/-- LDF's result from the bytes of a line (R187): FP32 or FP64, rounded to nearest even. -/
def elementLoad (e : Entry) (n : Nat) (wide : Bool) (line : Nat) : Flagged Nat :=
  (if wide then fp64 else fp32).convert (elementValue e n line) .rn

/-- The bits of a line that the blocks of a geometry occupy (Table 3-5); the elements of a scalar page leave a line's last
bits as they stand. -/
def Entry.lineBits (e : Entry) (geom : Nat) : Nat := if e.blk = 1 then 2 ^ geom * (16 + 32 * e.width) else 512

/-- STF's line: the element replaced, the bits that no block occupies zero, and every other bit as it stands (R60, R79,
R188). -/
def elementStore (e : Entry) (geom n : Nat) (frm : Word) (v : Val) (line : Nat) : Flagged Nat :=
  let line := line % 2 ^ e.lineBits geom
  let mode := modeOfCode e.rnd frm
  let r := if e.blk = 1 then e.encodeBfp (natBits line (blockStart e n) 16) v mode else e.convert v mode
  let b := elementBit e n
  { val := line - natBits line b e.width * 2 ^ b + r.val % 2 ^ e.width * 2 ^ b, flags := r.flags }

/-- The checks of a formatted access, then `f` with the access, the attributes and the latched image (R187). -/
def withElement (s : State) (t : Nat) (pc : Addr56) (k : AccessKind) (x : ElemArgs)
    (f : Access → DWord → DWord → LaneRes) : LaneRes :=
  match s.thread t with
  | none => .ok s
  | some th =>
    withAccess s t pc k .glb (th.pair x.a.toNat) 64 fun acc pte =>
      match pte with
      | none => .ok s
      | some pte =>
        let image := ((s.jobOf t).map fun j => j.image (coreOf t) (pteFmt pte)).getD (fixedImage (pteFmt pte))
        match elementFault (entryOf image) (pteGeom pte).toNat x.e.toNat acc.issued with
        | some e => .fault e
        | none => f acc pte image

/-- LDF (R187). -/
def State.ldf (s : State) (t : Nat) (pc : Addr56) (x : ElemArgs) : LaneRes :=
  withElement s t pc .load x fun acc pte image =>
    s.issueLoad t pc acc (some pte) 0#2 x.width x.d false (.element image (pteGeom pte) x.e.toNat)

/-- STF issues: the thread is STALLED until the line has been updated (R188); a poisoned line is a fault (R385). -/
def State.stf (s : State) (t : Nat) (pc : Addr56) (x : ElemArgs) : LaneRes :=
  withElement s t pc .store x fun acc pte image =>
    match s.thread t with
    | none => .ok s
    | some th =>
      let wide := x.width == .w64
      let v : DWord := if wide then th.pair x.d.toNat else (th.reg x.d.toNat).setWidth 64
      if pteTier pte != 2 && s.linePoisoned (dramKey pte acc.addr) then .fault (addrFault Code.poison acc.issued)
      else .ok (s.setThread t { th with hold := .finishing (.stf acc image (pteGeom pte) x.e.toNat v wide) })

/-! ## PREF and CINV (R189, R190) -/

/-- PREF (R189): an address that would fault drops the request. A miss that a walk resolves is served; hint 2 asks
the home slice only. A request that waits at a locked line, for room at the home or for its budget holds the thread. -/
def State.pref (s : State) (t : Nat) (pc : Addr56) (x : PrefArgs) : LaneRes :=
  match s.thread t with
  | none => .ok s
  | some th =>
    match s.checkAddr t .glb (effAddr .glb (th.base .glb x.a) x.off) 1 with
    | .fault _ => .ok s
    | .ok acc =>
      let part := s.partOf t
      let p := s.part part
      let asid := s.asidOf t
      match s.drainAttrs (coreOf t) p asid acc.addr with
      | none => .ok s
      | some pte =>
        match s.permit part (coreOf t) .load asid acc.addr pte, classify p asid acc.addr pte with
        | none, .leaf _ =>
          if !cacheable p asid acc.addr pte then .ok s
          else if s.loadStalled t acc || !s.loadRoom t acc (some pte) then s.waitLane t pc
          else
            s.ifAffords t pc (s.accessCost t acc (some pte) true) fun s =>
              if x.hint = 2#2 then .ok (s.tagL2 part asid (acc.addr / 64) (s.vdevOf t) pte (dieOf (coreOf t)))
              else .ok (s.fillL1 (coreOf t) part asid acc.addr (s.vdevOf t) pte (2 ^ 64 - 1))
        | _, _ => .ok s

/-- CINV (R190): the check on VA[63:56]; an empty range has no effect; else the thread is held until the drop. -/
def State.cinv (s : State) (t : Nat) (target : Nat) (x : CinvArgs) : LaneRes :=
  match s.thread t with
  | none => .ok s
  | some th =>
    let ea := th.pair x.a.toNat
    let len := (th.b32 x.len).toNat
    if 2 ^ 56 ≤ ea.toNat then .fault (addrFault Code.bounds ea)
    else if len = 0 then .ok s
    else .ok (s.setThread t { th with hold := .finishing (.cinv target ea.toNat len) })

/-! ## The instructions -/

/-- LD (R185). -/
def execLd (h : Hdr) (x : MemArgs) (s : State) : Host.Outcome State Fault Refusal :=
  perThread (.ld h x) (fun pc s t => s.ld t pc x false) s

/-- LD.after (R185, R93). -/
def execLdAfter (h : Hdr) (x : MemArgs) (s : State) : Host.Outcome State Fault Refusal :=
  perThread (.ldAfter h x) (fun pc s t => s.ld t pc x true) s

/-- ST (R186). -/
def execSt (h : Hdr) (x : MemArgs) (s : State) : Host.Outcome State Fault Refusal :=
  perThread (.st h x) (fun pc s t => s.st t pc x) s

/-- LDF (R187). -/
def execLdf (h : Hdr) (x : ElemArgs) (s : State) : Host.Outcome State Fault Refusal :=
  perThread (.ldf h x) (fun pc s t => s.ldf t pc x) s

/-- STF (R188); in a section it fails with reason 5 (R380). -/
def execStf (h : Hdr) (x : ElemArgs) (s : State) : Host.Outcome State Fault Refusal :=
  perThread (.stf h x) (unlessSection 5 fun pc s t => s.stf t pc x) s

/-- PREF (R189). -/
def execPref (h : Hdr) (x : PrefArgs) (s : State) : Host.Outcome State Fault Refusal :=
  perThread (.pref h x) (fun pc s t => s.pref t pc x) s

/-- CINV.d (R190). -/
def execCinvD (h : Hdr) (x : CinvArgs) (s : State) : Host.Outcome State Fault Refusal :=
  perThread (.cinvD h x) (unlessSection 5 fun _ s t => s.cinv t 0 x) s

/-- CINV.i (R190). -/
def execCinvI (h : Hdr) (x : CinvArgs) (s : State) : Host.Outcome State Fault Refusal :=
  perThread (.cinvI h x) (unlessSection 5 fun _ s t => s.cinv t 1 x) s

/-- CINV.if (R190). -/
def execCinvIf (h : Hdr) (x : CinvArgs) (s : State) : Host.Outcome State Fault Refusal :=
  perThread (.cinvIf h x) (unlessSection 5 fun _ s t => s.cinv t 2 x) s

end Sys2Proof.Machine
end

