-- ==== Sys2Proof/Machine/Atomic.lean ====
section
/-! DEFINITION. Atomics, OP 70 to 73 (R104, R191 to R195): an atomic is outstanding until it is performed
(LONG_LATENCY_COMPLETE), as one read and write at its point of coherence. -/

namespace Sys2Proof.Machine

/-! ## The operations -/

/-- A value of `n` bytes read as two's complement. -/
def signedOf (n v : Nat) : Int := if v < 2 ^ (8 * n - 1) then v else (v : Int) - 2 ^ (8 * n)

/-- ATOM and RED (R192), on words of `n` bytes. -/
def atomOp (o : AtomOp) (n old b : Nat) : Flagged Nat :=
  let plain (v : Nat) : Flagged Nat := { val := v, flags := 0 }
  let fp (x : Flagged Word) : Flagged Nat := { val := x.val.toNat, flags := x.flags }
  let wa := BitVec.ofNat 32 old
  let wb := BitVec.ofNat 32 b
  match o with
  | .add => plain ((old + b) % 2 ^ (8 * n))
  | .minS => plain (if signedOf n old ≤ signedOf n b then old else b)
  | .minN => plain (if old ≤ b then old else b)
  | .maxS => plain (if signedOf n b ≤ signedOf n old then old else b)
  | .maxN => plain (if b ≤ old then old else b)
  | .and => plain (Nat.land old b)
  | .or => plain (Nat.lor old b)
  | .xor => plain (Nat.xor old b)
  | .exch => plain b
  | .fadd => fp (faddWord wa wb)
  | .fmin => fp (fminmaxWord false wa wb)
  | .fmax => fp (fminmaxWord true wa wb)

/-- What an atomic writes to the word it finds; none where it writes nothing (R192, R193, R195). -/
def AtomFn.apply (f : AtomFn) (n old b : Nat) : Option (Flagged Nat) :=
  match f with
  | .op o => some (atomOp o n old b)
  | .cas expected => if old = expected.toNat then some { val := b, flags := 0 } else none
  | .inc => some { val := if b ≤ old then 0 else old + 1, flags := 0 }
  | .dec => some { val := if old = 0 ∨ b < old then b else old - 1, flags := 0 }

/-! ## One read and write at the point of coherence -/

/-- A word found at its point of coherence, and the state after the update. -/
structure Rmw where
  old   : Nat
  flags : Nat
  after : State
  deriving DecidableEq, Repr

/-- Owned and privatised copies come home before an atomic or an engine access; `keep` is a core that may go on
owning the line (R104, R105, R285). -/
def State.gatherLine (s : State) (part asid va : Nat) (pte : DWord) (keep : Option Nat) : State :=
  let (a, v) := primaryForm (s.part part) asid va
  if uncached pte || isMirror (s.part part) pte then s
  else (s.recallOwned a (v / 64) keep).mergeOthers part a (v / 64) (2 ^ 64 - 1) none

/-- A word of a `.glb` page read and updated at its point of coherence (R104, R214); `f` gives the new value, none
where nothing is written. -/
def State.rmwGlb (s : State) (part asid va n : Nat) (pte : DWord) (keep : Option Nat) (writer : Nat)
    (f : Nat → Option (Flagged Nat)) : Rmw :=
  let p := s.part part
  let (a, v) := primaryForm p asid va
  let key := dramKey pte va
  let s := (s.gatherLine part asid va pte keep).startClear key
  let s := if uncached pte then s.moved part pte 1 else s
  let o := va % 64
  let old := natBits (s.lineFor pte key).toNat (8 * o) (8 * n)
  match f old with
  | none => { old := old, flags := 0, after := s }
  | some r =>
    let s1 := (s.dirtyL2 p a (v / 64) pte p.primaryDie).writeFor pte key
      (BitVec.ofNat 512 (r.val % 2 ^ (8 * n) * 2 ^ (8 * o))) (lineMask o n)
    let s2 := if isMirror p pte then s1.propagate s part a (v / 64) key pte writer else s1
    { old := old, flags := r.flags,
      after := s2.written p asid va pte writer fun t =>
        !isMirror p pte || dieOf (coreOf t) == p.primaryDie }

/-- A word of an on-chip bank read and updated (R104). -/
def State.rmwBank (s : State) (b : Bank) (off n : Nat) (f : Nat → Option (Flagged Nat)) : Rmw :=
  let old := s.readBank b off n
  match f old with
  | none => { old := old, flags := 0, after := s }
  | some r => { old := old, flags := r.flags, after := s.writeBank b off n (r.val % 2 ^ (8 * n)) }

/-- The issuing core keeps the line owned in its L1 after a GANG-scope atomic on an ordinary page, with the bytes that the
home has of it: of the two that R104 allows, DESIGN CHOICE (log 12). -/
def State.ownLine (s : State) (core part asid va vdev : Nat) (pte : DWord) : State :=
  let s := s.fillL1 core part asid va vdev pte (2 ^ 64 - 1)
  match (s.core core).line? asid (va / 64), s.dir? asid (va / 64) with
  | some _, some e =>
    let line := s.lineFor pte (dramKey pte va)
    let s := s.modCore core fun c => c.modLine asid (va / 64) fun (l : L1Line) => { l with owned := true, data := line }
    s.setDir { e with state := .owned }
  | _, _ => s

/-- An atomic performed at the point of coherence of its word; the core's own L1 copy takes the new bytes (R104). -/
def State.atomicNow (s : State) (t : Nat) (acc : Access) (pte : Option DWord) (fn : AtomFn) (operand : DWord)
    (scope : BitVec 3) : Rmw :=
  let f (old : Nat) := fn.apply acc.size old (operand.toNat % 2 ^ (8 * acc.size))
  match pte with
  | none =>
    let b := s.bankOf (coreOf t) (s.partOf t) acc
    s.rmwBank b.1 b.2 acc.size f
  | some e =>
    let core := coreOf t
    let part := s.partOf t
    let p := s.part part
    let asid := s.asidOf t
    let (a, v) := primaryForm p asid acc.addr
    let held := cacheable p asid acc.addr e
    let own := scope == 1#3 && held && !isMirror p e
    let s := if held then s.tagL2 part asid (acc.addr / 64) (s.vdevOf t) e p.primaryDie else s
    let r := s.rmwGlb part asid acc.addr acc.size e (if own then some core else none) t f
    let line := r.after.lineFor e (dramKey e acc.addr)
    let s := if uncached e then r.after
      else r.after.modCore core fun c => c.patchL1 a (v / 64) line (lineMask (acc.addr % 64) acc.size) false
    { r with after := if own then s.ownLine core part asid acc.addr (s.vdevOf t) e else s }

/-- An atomic would meet poison (R385): its FINFO. -/
def State.atomicPoison (s : State) (t : Nat) (acc : Access) (pte : Option DWord) : Option Nat :=
  match pte with
  | some e => if pteTier e != 2 && s.linePoisoned (dramKey e acc.addr) then some 0 else none
  | none =>
    let b := s.bankOf (coreOf t) (s.partOf t) acc
    if s.bankPoisoned b.1 b.2 acc.size then some 3 else none

/-! ## Issue -/

/-- An atomic issues (R104, R191): its checks, then it is outstanding. -/
def State.atomic (s : State) (t : Nat) (pc : Addr56) (space : Space) (width : Width) (scope : BitVec 3)
    (a : SrcA) (b : Reg) (off : Word) (fn : Thread → AtomFn) (d : Option Reg) : LaneRes :=
  match s.thread t with
  | none => .ok s
  | some th =>
    let operand : DWord := (th.data width b).setWidth 64
    withAccess s t pc .atomic space (effAddr space (th.base space a) off) width.bytes fun acc pte =>
      match s.atomicPoison t acc pte with
      | some n => .fault (addrFault Code.poison acc.issued n)
      | none => .ok (s.modThread t fun th => th.begin pc s.issueWord (.atomic acc (fn th) operand scope d))

/-- ATOM of one operation. -/
def atomLane (o : AtomOp) (x : AtomArgs) : Addr56 → State → Nat → LaneRes :=
  unlessSection 5 fun pc s t => s.atomic t pc x.space x.width x.scope x.a x.b x.off (fun _ => .op o) (some x.d)

/-! ## The instructions -/

/-- ATOM.add (R192). -/
def execAtomAdd (h : Hdr) (x : AtomArgs) (s : State) : Host.Outcome State Fault Refusal :=
  perThread (.atomAdd h x) (atomLane .add x) s

/-- ATOM.min.s (R192). -/
def execAtomMinS (h : Hdr) (x : AtomArgs) (s : State) : Host.Outcome State Fault Refusal :=
  perThread (.atomMinS h x) (atomLane .minS x) s

/-- ATOM.min.n (R192). -/
def execAtomMinN (h : Hdr) (x : AtomArgs) (s : State) : Host.Outcome State Fault Refusal :=
  perThread (.atomMinN h x) (atomLane .minN x) s

/-- ATOM.max.s (R192). -/
def execAtomMaxS (h : Hdr) (x : AtomArgs) (s : State) : Host.Outcome State Fault Refusal :=
  perThread (.atomMaxS h x) (atomLane .maxS x) s

/-- ATOM.max.n (R192). -/
def execAtomMaxN (h : Hdr) (x : AtomArgs) (s : State) : Host.Outcome State Fault Refusal :=
  perThread (.atomMaxN h x) (atomLane .maxN x) s

/-- ATOM.and (R192). -/
def execAtomAnd (h : Hdr) (x : AtomArgs) (s : State) : Host.Outcome State Fault Refusal :=
  perThread (.atomAnd h x) (atomLane .and x) s

/-- ATOM.or (R192). -/
def execAtomOr (h : Hdr) (x : AtomArgs) (s : State) : Host.Outcome State Fault Refusal :=
  perThread (.atomOr h x) (atomLane .or x) s

/-- ATOM.xor (R192). -/
def execAtomXor (h : Hdr) (x : AtomArgs) (s : State) : Host.Outcome State Fault Refusal :=
  perThread (.atomXor h x) (atomLane .xor x) s

/-- ATOM.exch (R192). -/
def execAtomExch (h : Hdr) (x : AtomArgs) (s : State) : Host.Outcome State Fault Refusal :=
  perThread (.atomExch h x) (atomLane .exch x) s

/-- ATOM.fadd (R192). -/
def execAtomFadd (h : Hdr) (x : AtomArgs) (s : State) : Host.Outcome State Fault Refusal :=
  perThread (.atomFadd h x) (atomLane .fadd x) s

/-- ATOM.fmin (R192). -/
def execAtomFmin (h : Hdr) (x : AtomArgs) (s : State) : Host.Outcome State Fault Refusal :=
  perThread (.atomFmin h x) (atomLane .fmin x) s

/-- ATOM.fmax (R192). -/
def execAtomFmax (h : Hdr) (x : AtomArgs) (s : State) : Host.Outcome State Fault Refusal :=
  perThread (.atomFmax h x) (atomLane .fmax x) s

/-- ATOMCAS (R193): the expected value is gD's at issue. -/
def execAtomcas (h : Hdr) (x : AtomArgs) (s : State) : Host.Outcome State Fault Refusal :=
  perThread (.atomcas h x) (unlessSection 5 fun pc s t =>
    s.atomic t pc x.space x.width x.scope x.a x.b x.off
      (fun th => .cas ((th.data x.width x.d).setWidth 64)) (some x.d)) s

/-- RED (R194). -/
def execRed (h : Hdr) (x : RedArgs) (s : State) : Host.Outcome State Fault Refusal :=
  perThread (.red h x) (unlessSection 5 fun pc s t =>
    s.atomic t pc x.space x.width x.scope x.a x.b x.off (fun _ => .op x.op) none) s

/-- ATOMB.inc (R195). -/
def execAtombInc (h : Hdr) (x : AtombArgs) (s : State) : Host.Outcome State Fault Refusal :=
  perThread (.atombInc h x) (unlessSection 5 fun pc s t =>
    s.atomic t pc x.space .w32 x.scope x.a x.b x.off (fun _ => .inc) (some x.d)) s

/-- ATOMB.dec (R195). -/
def execAtombDec (h : Hdr) (x : AtombArgs) (s : State) : Host.Outcome State Fault Refusal :=
  perThread (.atombDec h x) (unlessSection 5 fun pc s t =>
    s.atomic t pc x.space .w32 x.scope x.a x.b x.off (fun _ => .dec) (some x.d)) s

end Sys2Proof.Machine
end

