-- ==== Sys2Proof/Machine/Inspect.lean ====
section
/-! DEFINITION. Inspections, OP 80 (R94 to R103, R196 to R198): an INSP forces its observer's entries, asks its
targets for a cut point each (INSP_TARGET_CUT), and completes when everything forced is visible at its scope
(INSP_COMPLETE). -/

namespace Sys2Proof.Machine

/-! ## Scopes (R95, R96) -/

/-- The narrowest scope that holds an observer's core and another core, in different gangs. -/
def coreScope (a b : Nat) : Nat :=
  if clusterOf a = clusterOf b then 2 else if dieOf a = dieOf b then 3 else 4

/-- The narrowest scope that holds an observer and a gang (Table 5-1). -/
def State.gangScope (s : State) (t g : Nat) : Nat :=
  if ((s.thread t).map fun th => th.gang == g).getD false then 1 else coreScope (coreOf t) (coreOf g)

/-- The narrowest scope that holds an observer and every core of an isle (R96). -/
def isleScope (t isle : Nat) : Nat := if dieOf (coreOf t) = dieOfIsle isle then 3 else 4

/-- A thread lies within a scope of an observer (Table 5-2). -/
def State.within (s : State) (t scope u : Nat) : Bool :=
  s.partOf u == s.partOf t
    && (if scope = 1 then (s.thread u).map (·.gang) == (s.thread t).map (·.gang)
        else if scope = 2 then clusterOf (coreOf u) == clusterOf (coreOf t)
        else if scope = 3 then dieOf (coreOf u) == dieOf (coreOf t)
        else true)

/-! ## Ranges (R198) -/

/-- The range of an INSP.a: space, region, base and length. -/
abbrev InspRange := Space × Nat × Nat × Nat

/-- An entry holds a byte of a range. -/
def PsqEntry.meets (e : PsqEntry) (r : InspRange) : Bool :=
  let (sp, region, base, len) := r
  e.space == sp && e.region == region
    && (List.range 16).any fun i => bitOf e.mask i && decide (base ≤ 16 * e.block + i ∧ 16 * e.block + i < base + len)

/-- The entries of a thread that an inspection concerns; for a `.glb` range those of the observer's context. A `.clu` or
`.lag` range names addresses: at a scope wider than CLUSTER it takes in the entries of other clusters' threads at those
addresses, other bytes though they are. DESIGN CHOICE: log 53. -/
def State.concerned (s : State) (q : Insp) (t : Nat) (e : PsqEntry) : Bool :=
  match q.range with
  | none => true
  | some r => e.meets r && (r.1 != .glb || s.asidOf t == s.asidOf q.observer)

/-- A line of a context that an inspection names; a range of length 0 names none (R198). -/
def State.inspNames (s : State) (q : Insp) (asid line : Nat) : Bool :=
  match q.range with
  | none => true
  | some (sp, _, base, len) =>
    sp == .glb && asid == s.asidOf q.observer && decide (0 < len ∧ 64 * line < base + len ∧ base < 64 * line + 64)

/-- An L1 line that an inspection names. -/
def State.inspLine (s : State) (q : Insp) (l : L1Line) : Bool := s.inspNames q l.asid l.line

/-! ## The course of an inspection -/

/-- A target's cut point taken now (R98, R99): its entries are forced and counted. A place without a thread counts
as reached; under a range only a target that holds an entry of it at its cut does (R94, R347). -/
def State.takeCut (s : State) (id u : Nat) : State :=
  match Tab.get? s.insps id with
  | none => s
  | some q =>
    match s.thread u with
    | none =>
      let q' : Insp := { q with todo := without q.todo u, reached := q.reached + bit q.range.isNone }
      { s with insps := Tab.set s.insps id q' }
    | some th =>
      let mine := th.psq.filter fun e => s.concerned q u e
      let es := mine.filter fun e => !e.tent
      let seqs := es.map (·.seq)
      let q' : Insp :=
        { q with todo := without q.todo u, reached := q.reached + bit (q.range.isNone || !mine.isEmpty),
                 forced := q.forced + (es.filter fun e => !e.forced).length,
                 tent := q.tent || mine.any (·.tent),
                 entries := q.entries ++ seqs.map fun n => (u, n),
                 cores := addOnce q.cores (coreOf u) }
      let s := { s with insps := Tab.set s.insps id q' }
      let mark (e : PsqEntry) : PsqEntry := if seqs.contains e.seq then { e with forced := true } else e
      s.modThread u fun th => { th with psq := th.psq.map mark }

/-- An inspection begins (R97): the observer's own entries are to be forced, and an observer among its own targets
takes its cut point at once. -/
def State.startInsp (s : State) (t scope : Nat) (range : Option InspRange) (targets : List Nat) (silent : Bool)
    (engine : Bool := false) : Nat × State :=
  let id := Tab.fresh s.insps
  let own := match s.thread t with
    | none => []
    | some th => (th.psq.filter fun e => !e.tent).map fun e => (t, e.seq)
  let q : Insp := { observer := t, part := s.partOf t, scope := scope, range := range, todo := targets, entries := own,
                    cores := [], forced := 0, reached := 0, tent := false, silent := silent, engine := engine }
  let s := { s with insps := Tab.set s.insps id q }
  (id, if targets.contains t then s.takeCut id t else s)

/-- The entries of an inspection that still stand in a PSQ. -/
def State.standing (s : State) (q : Insp) : List (Nat × Nat) :=
  q.entries.filter fun x => ((s.thread x.1).map fun th => th.psq.any fun e => e.seq == x.2).getD false

/-- The entries of an inspection drained, where they may (R89). -/
def State.drainForced (s : State) (q : Insp) : State :=
  q.entries.foldl
    (fun (s : State) x =>
      match s.thread x.1 with
      | none => s
      | some th =>
        match th.psq.find? fun e => e.seq == x.2 with
        | none => s
        | some e => if s.drainMay x.1 th e then s.drainEntry x.1 e else s) s

/-- A core lies within a scope of an observer's core (Table 5-2). -/
def coreWithin (scope home core : Nat) : Bool :=
  if scope = 2 then clusterOf core == clusterOf home else if scope = 3 then dieOf core == dieOf home else decide (4 ≤ scope)

/-- The cores whose write-through queues and privatised lines an inspection settles: those that it reached, and, for a
range, every core of its scope, since what a thread of one has drained stands there (R97, R112, R118). -/
def State.inspCores (s : State) (q : Insp) : List Nat :=
  if q.range.isNone then q.cores
  else (s.cores.map (·.1)).filter fun c =>
    (s.part q.part).holdsIsle (isleOf c) && coreWithin q.scope (coreOf q.observer) c

/-- An inspection waits for what a writer has written: the observer, or a thread of a core that it settles (R97, R102).
DEDUCED: log 30. -/
def State.waitsFor (s : State) (q : Insp) (writer : Nat) : Bool :=
  writer == q.observer || (decide (writer < noThread) && (s.inspCores q).contains (coreOf writer))

/-- The VAs under which the observer may name a line given in its primary form (R58). -/
def State.namesOf (s : State) (q : Insp) (u : MirrorUpdate) : List Nat :=
  64 * u.line :: (s.part q.part).pm.remap.filterMap fun r =>
    if r.asid = s.asidOf q.observer ∧ r.pasid = u.asid ∧ r.ppage ≤ 64 * u.line ∧ 64 * u.line < r.ppage + r.size then
      some (r.page + (64 * u.line - r.ppage))
    else none

/-- An update of a Mirror line that an inspection waits for; a range narrows what it asks of its targets (R97). -/
def State.waitsUpdate (s : State) (q : Insp) (u : MirrorUpdate) : Bool :=
  s.waitsFor q u.writer
    && (u.writer == q.observer || (match q.range with
          | none => true
          | some (sp, _, base, len) =>
            sp == .glb && (s.namesOf q u).any fun va => decide (va < base + len ∧ base < va + 64)))

/-- What an inspection forced is visible at its scope beyond the cores it reached: no Mirror update owed, and at
SYSTEM no write frame unacknowledged (Table 5-2, R291). -/
def State.visibleAt (s : State) (q : Insp) : Bool :=
  let die := dieOf (coreOf q.observer)
  decide (q.scope ≤ 1)
    || ((s.mem.updates.all fun u => !s.waitsUpdate q u.2
          || (if q.scope ≤ 3 then !(u.2.todo.contains die) else u.2.todo.isEmpty))
        && (q.scope != 5 || s.net.conns.all fun c => c.2.part != q.part || c.2.sent.all fun f =>
              match f.use with | .entry t _ => !s.waitsFor q t | _ => true))

/-- The write-through queue of a core holds what an inspection drains from it: anything, or, for a range, an entry of a line
that the range names (R97). -/
def State.queueNamed (s : State) (q : Insp) (core : Nat) : Bool := (s.core core).wtq.any fun e => s.inspNames q e.asid (e.block / 4)

/-- One core settled as far as budgets and home slices let it be: its queue, which is first in, first out, and at a scope
beyond GANG its privatised lines (R97, R107, R268, R280). -/
def State.settlePlace (s : State) (q : Insp) (core : Nat) : State :=
  let s := if s.queueNamed q core then s.drainQueue core else s
  if q.scope ≤ 1 then s else s.mergeMay q.part core (s.inspLine q)

/-- The observer's own core settled: what it has drained is visible at the scope whatever the range (R92, R97). -/
def State.settleOwn (s : State) (q : Insp) : State :=
  let home := coreOf q.observer
  let s := s.drainQueue home
  if q.scope ≤ 1 then s else s.mergeMay q.part home fun _ => true

/-- What an inspection settles: beyond GANG, and for an engine's whatever the scope (R97, R107, R228). -/
def State.settleInsp (s : State) (q : Insp) : State :=
  if q.scope ≤ 1 ∧ !q.engine then s
  else
    let s := ((s.inspCores q).foldl (fun (s : State) c => s.settlePlace q c) s).settleOwn q
    let die := dieOf (coreOf q.observer)
    if q.scope ≤ 1 then s
    else if q.scope ≤ 3 then s.spreadMirror q.part fun d => d == die else s.spreadMirror q.part fun _ => true

/-- Nothing is left of what an inspection settles. -/
def State.settled (s : State) (q : Insp) : Bool :=
  let home := coreOf q.observer
  (decide (q.scope ≤ 1) && !q.engine)
    || ((s.inspCores q).all (fun c => !s.queueNamed q c
            && (decide (q.scope ≤ 1) || (s.core c).l1.all fun l => l.grant == 0#64 || !s.inspLine q l))
        && (s.core home).wtq.isEmpty && (decide (q.scope ≤ 1) || (s.core home).l1.all fun l => l.grant == 0#64))

/-- The status word (Table 5-3). -/
def Insp.status (q : Insp) : Word :=
  BitVec.ofNat 32 (bit q.tent * 2 ^ 31 + min q.reached 255 * 256 + min q.forced 255)

/-- The effect of a complete inspection on its observer (R97): lines dropped and the status written; a flit to each
core that it reached is charged (Table 13-3). -/
def State.endInsp (s : State) (id : Nat) (q : Insp) : State :=
  let home := coreOf q.observer
  let s := s.payFor q.observer (q.cores.foldl (fun c n => c.add (flitCost 1 (dieOf home) (dieOf n))) Budget.none)
  let s := { s with insps := Tab.erase s.insps id }
  let s := s.dropL1 (coreOf q.observer) fun l => s.inspLine q l
  let s := s.modThread q.observer fun th =>
    let th := th.longs.foldl
      (fun (th : Thread) (o : Outstanding) => match o.kind with
        | .insp n d =>
          if n = id then
            { th.setReg d.toNat q.status with longs := th.longs.filter fun x => x.order != o.order }
          else th
        | _ => th) th
    if th.hold = .finishing (.inspecting id) then { th with hold := .none } else th
  s.settleFault q.observer

/-- INSP_COMPLETE (R97): once every target has its cut point and everything forced is visible. -/
def State.completeInsp (s : State) (id : Nat) : State :=
  match Tab.get? s.insps id with
  | none => s
  | some q =>
    if !q.todo.isEmpty then s
    else
      let s1 := s.drainForced q
      if !(s1.standing q).isEmpty then s1
      else
        let s2 := s1.settleInsp q
        if s2.settled q && s2.visibleAt q then s2.endInsp id q else s2

/-! ## The instructions -/

/-- INSP becomes outstanding (R128). -/
def State.insp (s : State) (t : Nat) (pc : Addr56) (d : Reg) (scope : Nat) (range : Option InspRange)
    (targets : List Nat) : State :=
  let (id, s) := s.startInsp t scope range targets false
  s.modThread t fun th => th.begin pc s.issueWord (.insp id d)

/-- A handle that names no thread place of the partition (R197). -/
def State.badHandle (s : State) (t : Nat) (h : Word) : Bool :=
  natBits h.toNat 22 10 != 0 || decide (192 ≤ slotOf h.toNat) || !((s.part (s.partOf t)).holdsIsle (isleOf (coreOf h.toNat)))

/-- A gang handle that names no gang place of the partition (R197). -/
def State.badGang (s : State) (t : Nat) (h : Word) : Bool := s.badHandle t h || natBits h.toNat 0 5 != 0

/-- An agent of an absent isle answers with an error reply (R394). -/
def probeFault (s : State) (isle : Nat) (r : LaneRes) : LaneRes :=
  if s.isleAbsent isle then .fault (plainFault Code.partitionProbe) else r

/-- The threads of a gang. -/
def State.gangThreads (s : State) (g : Nat) : List Nat :=
  (s.threads.filter fun (p : Nat × Thread) => p.2.gang == g).map (·.1)

/-- INSP.t (R96, R97, R197). -/
def execInspT (h : Hdr) (x : InspArgs) (s : State) : Host.Outcome State Fault Refusal :=
  perThread (.inspT h x) (fun pc s t =>
    match s.thread t with
    | none => .ok s
    | some th =>
      let u := th.reg x.a.toNat
      if s.badHandle t u then .fault (plainFault Code.handleInvalid)
      else
        let n := u.toNat
        let narrow := match s.thread n with
          | none => coreScope (coreOf t) (coreOf n)
          | some target => s.gangScope t target.gang
        probeFault s (isleOf (coreOf n)) (.ok (s.insp t pc x.d (Nat.max x.scope.toNat narrow) none [n]))) s

/-- INSP.g (R96, R97, R197). -/
def execInspG (h : Hdr) (x : InspArgs) (s : State) : Host.Outcome State Fault Refusal :=
  perThread (.inspG h x) (fun pc s t =>
    match s.thread t with
    | none => .ok s
    | some th =>
      let u := th.reg x.a.toNat
      if s.badGang t u then .fault (plainFault Code.handleInvalid)
      else
        let n := u.toNat
        let narrow := if (s.gang n).isSome then s.gangScope t n else coreScope (coreOf t) (coreOf n)
        probeFault s (isleOf (coreOf n))
          (.ok (s.insp t pc x.d (Nat.max x.scope.toNat narrow) none (s.gangThreads n)))) s

/-- The band that a BAND value names: its number and isle (Table 2-2). -/
def bandKey (v : Word) : Nat := natBits v.toNat 0 17

/-- INSP.b (R96, R97, R197). -/
def execInspB (h : Hdr) (x : InspArgs) (s : State) : Host.Outcome State Fault Refusal :=
  perThread (.inspB h x) (fun pc s t =>
    match s.thread t with
    | none => .ok s
    | some th =>
      let u := th.reg x.a.toNat
      let isle := natBits u.toNat 13 4
      if !((s.part (s.partOf t)).holdsIsle isle) then .fault (plainFault Code.handleInvalid)
      else
        let gangs := ((s.band (bandKey u)).map (·.gangs)).getD []
        let narrow := if gangs.isEmpty then isleScope t isle
          else gangs.foldl (fun n g => Nat.max n (s.gangScope t g)) 1
        probeFault s isle
          (.ok (s.insp t pc x.d (Nat.max x.scope.toNat narrow) none (gangs.flatMap s.gangThreads)))) s

/-- The range of INSP.a (R198); none where its base names no region. -/
def State.inspRange (s : State) (t : Nat) (space : Space) (base : DWord) (len : Nat) : Option InspRange :=
  if space = .scr then
    if natBits base.toNat 28 4 ≠ 0 then none
    else (s.scrGang t base.toNat).map fun g => (.scr, g, natBits base.toNat 0 19, len)
  else some (space, 0, base.toNat, len)

/-- INSP.a (R94, R97, R198). -/
def execInspA (h : Hdr) (x : InspRangeArgs) (s : State) : Host.Outcome State Fault Refusal :=
  perThread (.inspA h x) (fun pc s t =>
    match s.thread t with
    | none => .ok s
    | some th =>
      let scope := if x.scope = 0#3 then 4 else x.scope.toNat
      let len := (th.b32 x.len).toNat
      let range := (s.inspRange t x.space (th.base x.space (.reg x.a)) len).getD (x.space, 2 ^ 64, 0, 0)
      let ctx (u : Nat) : Bool := x.space != .glb || s.asidOf u == s.asidOf t
      let targets := (s.threads.filter fun (p : Nat × Thread) =>
        s.within t scope p.1 && ctx p.1 && p.2.psq.any fun e => e.meets range).map (·.1)
      .ok (s.insp t pc x.d scope (some range) targets)) s

/-- INSP.s (R97): nothing is forced and no target is reached. -/
def execInspS (h : Hdr) (x : DstArgs) (s : State) : Host.Outcome State Fault Refusal :=
  perThread (.inspS h x) (fun pc s t =>
    let id := Tab.fresh s.insps
    let q : Insp := { observer := t, part := s.partOf t, scope := 0, range := none, todo := [], entries := [],
                      cores := [], forced := 0, reached := 0, tent := false, silent := false, engine := false }
    .ok (({ s with insps := Tab.set s.insps id q }).modThread t fun th => th.begin pc s.issueWord (.insp id x.d))) s

end Sys2Proof.Machine
end

