-- ==== Sys2Proof/Machine/Barrier.lean ====
section
/-! DEFINITION. Where on-chip addresses and sinks lie (R42 to R45, R213), watches and arrival objects, OP 81 to 85 (R199
to R204, R208): MONITOR, MWAIT, BARINIT, BARA and BARW. -/

namespace Sys2Proof.Machine

/-! ## On-chip addresses of a gang (R42 to R45) -/

/-- The gang whose region a `.scr` address of a gang reaches (R43). -/
def State.regionOf (s : State) (gang ea : Nat) : Option Nat :=
  if natBits ea 28 4 ≠ 0 then none
  else if natBits ea 27 1 = 0 then some gang
  else
    let g := handleOf (coreOf gang) (natBits ea 19 8) 0
    match s.gang g, s.gang gang with
    | some x, some y => if x.job = y.job then some g else none
    | _, _ => none

/-- Scratchpad bytes of each gang of a gang's job (Table 2-6). -/
def State.gangScratch (s : State) (gang : Nat) : Nat :=
  (((s.gang gang).bind fun g => s.job g.job).map Job.scratchBytes).getD 0

/-- The bank and offset of an on-chip range of a gang on a core, where it lies inside its space (Table 3-1). -/
def State.spot (s : State) (core gang part : Nat) (space : Space) (ea size : Nat) : Option (Bank × Nat) :=
  match space with
  | .scr =>
    match s.regionOf gang ea with
    | none => none
    | some g => if natBits ea 0 19 + size ≤ s.gangScratch gang then some (.scr g, natBits ea 0 19) else none
  | .clu =>
    if ea + size ≤ 8 * (s.part part).lend then
      some (.clu (8 * clusterOf core + ea / 4096 % 8), ea / 32768 * 4096 + ea % 4096)
    else none
  | .lag =>
    if ea + size ≤ (s.part part).size * 2 ^ 27 then some (.lag ((s.part part).first + ea / 2 ^ 27), ea % 2 ^ 27)
    else none
  | _ => none

/-- The isle of the agents that serve a bank. -/
def Bank.isle : Bank → Nat
  | .scr g => isleOf (coreOf g)
  | .clu c => isleOf c
  | .lag i => i

/-! ## Sinks (Table 11-2) -/

/-- The space of an on-chip space code. -/
def chipSpace (c : Nat) : Option Space :=
  match c with
  | 1 => some .scr
  | 2 => some .clu
  | 3 => some .lag
  | _ => none

/-- The designator's space and address (Table 11-2, kind 1). -/
def SinkRef.object (k : SinkRef) : Option (Space × Nat) :=
  if natBits k.desig.toNat 35 29 ≠ 0 then none
  else (chipSpace (natBits k.desig.toNat 32 3)).map fun sp => (sp, natBits k.desig.toNat 0 32)

/-- The designator's counter (Table 11-2, kind 2). -/
def SinkRef.counter (k : SinkRef) : Option Nat :=
  if natBits k.desig.toNat 56 8 ≠ 0 ∨ natBits k.desig.toNat 1 2 ≠ 0 then none else some (k.desig.toNat / 8 * 8)

/-! ## MONITOR and MWAIT (R199, R200) -/

/-- The lines that the threads of a core watch, one thread apart (R199). -/
def State.watchedLines (s : State) (core but : Nat) : List (Space × Nat) :=
  dedup (s.threads.filterMap fun (p : Nat × Thread) =>
    if coreOf p.1 = core ∧ p.1 ≠ but then
      match p.2.watch with
      | some w => if w.overflow then none else some (w.space, w.line)
      | none => none
    else none)

/-- A watch armed: it replaces the thread's earlier one, and is an overflow watch where the core's table is full. -/
def State.arm (s : State) (t : Nat) (space : Space) (line : Nat) (events : List Nat) : State :=
  let lines := s.watchedLines (coreOf t) t
  let full := !lines.contains (space, line) && decide (1024 ≤ lines.length)
  s.modThread t fun th => { th with watch := some { space := space, line := line, overflow := full, events := events } }

/-- A `.glb` line reads as poisoned to an agent of a core: as its copy of a Mirror line on the core's die does; what a
Causeway peer holds is not known here (R61, R384). -/
def State.poisonedAt (s : State) (core part asid va : Nat) (pte : DWord) : Bool :=
  let p := s.part part
  let (a, v) := primaryForm p asid va
  if pteTier pte = 2 then false
  else if isMirror p pte then (s.replicaLine p a (v / 64) (dieOf core) pte (dramKey pte va)).2
  else s.linePoisoned (dramKey pte va)

/-- What MONITOR's registration costs: the request that brings the line, or, where no line is brought, its flit (Table
13-3). -/
def State.monitorCost (s : State) (t : Nat) (acc : Access) (pte : Option DWord) : Budget :=
  let c := s.accessCost t acc pte true
  match pte with
  | some e => if uncached e then { Budget.none with strb := c.strb } else c
  | none => c

/-- MONITOR (R199): a `.glb` line is brought into the L1; a poisoned line gives the watch reason 1 (R385). It waits at a
locked line (R63), for room at the home (R280) and for its budget (R268), as a load does. -/
def State.monitor (s : State) (t : Nat) (pc : Addr56) (acc : Access) (pte : Option DWord) : LaneRes :=
  match pte with
  | some e =>
    if s.loadStalled t acc then (s.stallHolds t acc).waitLane t pc
    else if !s.loadRoom t acc pte then s.waitLane t pc
    else
      s.ifAffords t pc (s.monitorCost t acc pte) fun s =>
        let part := s.partOf t
        let asid := s.asidOf t
        let s := s.fillL1 (coreOf t) part asid acc.addr (s.vdevOf t) e (2 ^ 64 - 1)
        .ok (s.arm t .glb (watchLine (s.part part) asid acc.addr e)
          (if s.poisonedAt (coreOf t) part asid acc.addr e then [1] else []))
  | none =>
    s.ifAffords t pc (s.monitorCost t acc none) fun s =>
      let b := s.bankOf (coreOf t) (s.partOf t) acc
      .ok (s.arm t acc.space (bankLine b.1 b.2) (if s.bankPoisoned b.1 (b.2 / 64 * 64) 64 then [1] else []))

/-- MWAIT (R200): it returns at once without a watch, on an overflow watch, or where an event has occurred. -/
def State.mwait (s : State) (t : Nat) (pc : Addr56) (d : Reg) (limit : Nat) : State :=
  let now := s.clock t
  let word := s.issueWord
  s.modThread t fun th =>
    let finish (reason : Nat) : Thread := { th.setReg d.toNat (BitVec.ofNat 32 reason) with watch := none }
    match th.watch with
    | none => finish 3
    | some w =>
      if w.overflow then finish 3
      else
        match w.events with
        | [] => th.begin pc word (.mwait d (if limit = 0 then none else some (now + limit)))
        | e :: es => finish (es.foldl min e)

/-- The events that have ended an MWAIT, with its timeout, give the lowest reason among them (R200). -/
def Thread.lowestEvent (th : Thread) (last : Nat) : Nat :=
  match th.watch with
  | none => last
  | some w => w.events.foldl min last

/-- The records of a thread's wait for a monitored line removed (R270). -/
def State.dropMonitor (s : State) (t : Nat) : State :=
  s.modIsle (isleOf (coreOf t)) fun x => { x with waits := x.waits.filter fun w => !(w.waiter == t && w.kind == 3) }

/-- An MWAIT is outstanding. -/
def Thread.inMwait (th : Thread) : Bool := th.longs.any fun o => match o.kind with | .mwait _ _ => true | _ => false

/-- An MWAIT whose watch has events has returned by the end of their cycle, with the lowest reason among them (R200). -/
def State.settleWatches (s : State) : State :=
  s.threads.foldl
    (fun (s : State) (p : Nat × Thread) =>
      if p.2.inMwait && (p.2.watch.map fun w => !w.events.isEmpty).getD false then
        (s.setThread p.1 (p.2.endMwait (p.2.lowestEvent 4))).dropMonitor p.1
      else s) s

/-- MONITOR (R199). -/
def execMonitor (h : Hdr) (x : MonitorArgs) (s : State) : Host.Outcome State Fault Refusal :=
  perThread (.monitor h x) (fun pc s t =>
    match s.thread t with
    | none => .ok s
    | some th =>
      withAccess s t pc .load x.space (effAddr x.space (th.base x.space x.a) x.off) 1 fun acc pte =>
        s.monitor t pc acc pte) s

/-- MWAIT (R200). -/
def execMwait (h : Hdr) (x : MovArgs) (s : State) : Host.Outcome State Fault Refusal :=
  perThread (.mwait h x) (fun pc s t =>
    match s.thread t with
    | none => .ok s
    | some th => .ok (s.mwait t pc x.d (th.b32 x.b).toNat)) s

/-! ## Arrival objects (Table 10-2) -/

/-- An arrival object. -/
structure ArrObj where
  count  : Nat
  remain : Nat
  phase  : Nat
  status : Nat
  deriving DecidableEq, Repr

def ArrObj.ofNat (n : Nat) : ArrObj :=
  { count := natBits n 0 32, remain := natBits n 32 32, phase := natBits n 64 24, status := natBits n 88 8 }

/-- Bits [95:64]: the phase word (R203). -/
def ArrObj.phaseWord (o : ArrObj) : Word := BitVec.ofNat 32 (o.phase + 2 ^ 24 * o.status)

/-- The object at a bank address. -/
def State.arrObj (s : State) (b : Bank × Nat) : ArrObj := ArrObj.ofNat (s.readBank b.1 b.2 16)

/-- REMAIN, PHASE and STATUS written back (bytes 4 to 11). -/
def State.putArrObj (s : State) (b : Bank × Nat) (o : ArrObj) : State :=
  s.performBank b.1 b.2 (BitVec.ofNat 128 (o.remain * 2 ^ 32 + o.phase * 2 ^ 64 + o.status * 2 ^ 88)) 0x0FF0#16 false

/-- An arrival of n units (R203). -/
def ArrObj.arrive (o : ArrObj) (n : Nat) : ArrObj :=
  if o.remain ≤ n then { o with phase := (o.phase + 1) % 2 ^ 24, remain := o.count }
  else { o with remain := o.remain - n }

/-- BARINIT's write (R202). -/
def State.barinitNow (s : State) (b : Bank × Nat) (n : Word) : State :=
  s.performBank b.1 b.2 (BitVec.ofNat 128 (n.toNat + n.toNat * 2 ^ 32)) 0xFFFF#16 false

/-- The number under which an object's expected signaller stands. -/
def objectKey (b : Bank × Nat) : Nat := bankLine b.1 b.2 * 16 + b.2 / 16 % 4 * 4 + b.1.space.code.toNat

/-- The BAND value of a gang (Table 2-2). -/
def Gang.bandValue (g : Gang) : Nat := g.band % 2 ^ 17 + 2 ^ 27 * g.index

/-- The signaller that BARINIT records: the gang, or for `.clu` and `.lag` its band (R202). -/
def State.signallerOf (s : State) (t : Nat) (space : Space) : Nat × Nat :=
  match s.thread t, s.gangOf t with
  | some th, some g => if space = .scr then (1, th.gang) else (2, g.bandValue)
  | _, _ => (0, 0)

/-- BARINIT completes (R202). -/
def State.barinitDone (s : State) (t : Nat) (acc : Access) (n : Word) : State :=
  let b := s.bankOf (coreOf t) (s.partOf t) acc
  let s := s.barinitNow b n
  s.setMem { s.mem with objects := Tab.set s.mem.objects (objectKey b) (s.signallerOf t acc.space) }

/-- The sinks of a request, those of a KICK's items among them. -/
def Request.sinks (r : Request) : List SinkRef :=
  r.sink :: (match r.body with
    | .kick _ _ items => items.filterMap (·.sink)
    | _ => [])

/-- The sink of a request names the arrival object at a place (R213). -/
def State.sinkNames (s : State) (r : Request) (b : Bank × Nat) (k : SinkRef) : Bool :=
  k.kind == .arrival && (k.object.bind fun o => s.spot r.core r.gang r.part o.1 o.2 16) == some b

/-- Repeats of a signaller left out. -/
def onceEach (l : List (Nat × Nat)) : List (Nat × Nat) :=
  l.foldl (fun seen x => if seen.contains x then seen else seen ++ [x]) []

/-- The wait records of a BARW (R208): the recorded signaller, and the issuers of requests whose sink names the
object. -/
def State.barwSigs (s : State) (b : Bank × Nat) : List (Nat × Nat) :=
  onceEach ((match Tab.get? s.mem.objects (objectKey b) with | none => [] | some x => [x])
    ++ (s.reqs.filter fun r => r.2.sinks.any (s.sinkNames r.2 b)).map fun r => (1, r.2.gang))

/-! ## BARW (R204) -/

/-- The targets of a BARW's inspection and its effective scope (R96, R204). -/
def State.barwTargets (s : State) (t : Nat) (target : InspTarget) (scope : BitVec 3) : Option (Nat × List Nat) :=
  match target, s.thread t with
  | .gang, some th => some (Nat.max 1 scope.toNat, s.gangThreads th.gang)
  | .band, some th =>
    let gs := s.bandGangs th.gang
    some (gs.foldl (fun n g => Nat.max n (s.gangScope t g)) (Nat.max 1 scope.toNat), gs.flatMap s.gangThreads)
  | _, _ => none

/-- BARW completes (R204, R108): the phase word, the effect of INSP.s, and the inspection of its target. -/
def State.endBarw (s : State) (t : Nat) (pc : Addr56) (d : Reg) (w : Word) (target : InspTarget) (scope : BitVec 3) :
    State :=
  let s := s.modThread t fun th => { th.setReg d.toNat w with hold := .none, pc := nextPc pc }
  let s := (s.dropWaits t).inspSelf t
  match s.barwTargets t target scope with
  | none => s
  | some (sc, ts) =>
    let (id, s) := s.startInsp t sc none ts true
    s.modThread t fun th => { th with hold := .finishing (.inspecting id) }

/-- BARW tests its object, and waits where the phase has not changed and no status stands (R204). -/
def State.barw (s : State) (t : Nat) (pc : Addr56) (acc : Access) (phase : BitVec 24) (d : Reg) (target : InspTarget)
    (scope : BitVec 3) : State :=
  let b := s.bankOf (coreOf t) (s.partOf t) acc
  let o := s.arrObj b
  if o.phase ≠ phase.toNat ∨ o.status ≠ 0 then s.endBarw t pc d o.phaseWord target scope
  else
    let s := s.modThread t fun th => { th with hold := .wait (.barw acc phase d target scope), pc := pc }
    (s.dropWaits t).addWaits t 0 acc.space.code.toNat (acc.issued.toNat % 2 ^ 32) (s.barwSigs b)

/-- A waiting BARW is tested again (R204). -/
def State.retestBarw (s : State) (t : Nat) : State :=
  match s.thread t with
  | none => s
  | some th =>
    match th.hold with
    | .wait (.barw acc phase d target scope) =>
      let o := s.arrObj (s.bankOf (coreOf t) (s.partOf t) acc)
      if o.phase ≠ phase.toNat ∨ o.status ≠ 0 then s.endBarw t th.pc d o.phaseWord target scope else s
    | _ => s

/-- The address checks of an arrival object (R184, R201). -/
def withObject (s : State) (t : Nat) (pc : Addr56) (space : Space) (a : Reg) (f : Access → LaneRes) : LaneRes :=
  match s.thread t with
  | none => .ok s
  | some th => withAccess s t pc .store space (th.base space (.reg a)) 16 fun acc _ => f acc

/-- BARINIT (R202): the thread is held until the object is written. -/
def execBarinit (h : Hdr) (x : BarinitArgs) (s : State) : Host.Outcome State Fault Refusal :=
  perThread (.barinit h x) (fun pc s t =>
    withObject s t pc x.space x.a fun acc =>
      match s.thread t with
      | none => .ok s
      | some th =>
        let n := th.b32 x.n
        if n = 0#32 then .fault (addrFault Code.bounds acc.issued)
        else .ok (s.setThread t { th with hold := .finishing (.barinit acc n) })) s

/-- BARA (R203). -/
def execBara (h : Hdr) (x : BaraArgs) (s : State) : Host.Outcome State Fault Refusal :=
  perThread (.bara h x) (fun pc s t =>
    withObject s t pc x.space x.a fun acc =>
      match s.thread t with
      | none => .ok s
      | some th =>
        let n := (th.b32 x.n).toNat
        if n = 0 then .fault (addrFault Code.bounds acc.issued)
        else
          let b := s.bankOf (coreOf t) (s.partOf t) acc
          s.ifAffords t pc (s.accessCost t acc none false) fun s =>
            let o := s.arrObj b
            .ok ((s.putArrObj b (o.arrive n)).modThread t fun th => th.setReg x.d.toNat o.phaseWord)) s

/-- BARW (R204). -/
def execBarw (h : Hdr) (x : BarwArgs) (s : State) : Host.Outcome State Fault Refusal :=
  perThread (.barw h x) (fun pc s t =>
    withObject s t pc x.space x.a fun acc =>
      match s.thread t with
      | none => .ok s
      | some th => .ok (s.barw t pc acc (slice (th.reg x.b.toNat) 0 24) x.d x.target x.scope)) s

end Sys2Proof.Machine
end

