-- ==== Sys2Proof/Machine/Elide.lean ====
section
/-! DEFINITION. Lock elision, OP 86 and 87 (R205 to R207, R380). -/

namespace Sys2Proof.Machine

/-- The elide frame pushed at depth CPD + 1 (R205, R240). PREV is zero: DESIGN CHOICE (log 13). -/
def Thread.pushElide (th : Thread) (fallback : Addr56) (line : Nat) : Thread :=
  let ser := th.choice.fser + 1#32
  let f : Frame :=
    { ser := ser.toNat, stolen := 0, kind := 1, steal := false, mark := th.tentative.length, wstart := 0, wlen := 0,
      cnt := 0, next := 0, trp0 := th.trp, pv := decide (0 < th.cpd), prev := 0, table := 0, aux := fallback.toNat }
  let th := th.setFrame (th.cpd + 1) f
  let th := th.setCpd (th.cpd + 1)
  { th with choice := { th.choice with fser := ser, elide := some { lock := line, marked := [line] } } }

/-- ELIDE at CPD = 0 (R205): the lock word is loaded and its line marked; a line that cannot be held in the L1
fails the section with reason 2 (Table 10-3). -/
def State.openSection (s : State) (t : Nat) (pc : Addr56) (d : Reg) (fallback : Addr56) (acc : Access) (pte : DWord) : LaneRes :=
  match s.thread t with
  | none => .ok s
  | some th =>
    if !th.trailFits 2 then .fault (plainFault Code.trailFull)
    else if !cacheable (s.part (s.partOf t)) (s.asidOf t) acc.addr pte then
      .ok ((s.modThread t fun th => th.pushElide fallback (markOf (s.asidOf t) acc.addr)).elideFail t 2)
    else
      s.bindAtIssue t pc acc (some pte) fun v s =>
        .ok (s.modThread t fun th =>
          (th.pushElide fallback (markOf (s.asidOf t) acc.addr)).setReg d.toNat (BitVec.ofNat 32 v))

/-- ELIDE (R205, R380). -/
def execElide (h : Hdr) (x : ElideArgs) (s : State) : Host.Outcome State Fault Refusal :=
  perThread (.elide h x) (fun pc s t =>
    match s.thread t with
    | none => .ok s
    | some th =>
      let fallback : Addr56 := BitVec.ofNat 56 (braTarget pc x.off)
      if th.inSection then .ok (s.elideFail t 7)
      else if th.cpd ≠ 0 then
        .ok (s.setThread t { th with pc := fallback, faults := { th.faults with finfo := 7#32 } })
      else
        withAccess s t pc .load .glb (th.pair x.a.toNat) 4 fun acc pte =>
          match pte with
          | none => .ok s
          | some e => s.openSection t pc x.d fallback acc e) s

/-- ELEND (R206): the thread is held until the commit has ended. -/
def execElend (h : Hdr) (s : State) : Host.Outcome State Fault Refusal :=
  perThread (.elend h) (fun _ s t =>
    match s.thread t with
    | none => .ok s
    | some th =>
      match th.elideDepth 0 with
      | none => .fault (infoFault Code.choiceEmpty 0)
      | some _ => .ok (s.setThread t { th with hold := .finishing .elend })) s

/-! ## The commit (R206) -/

/-- The tentative `.glb` entries of a thread, with the attributes of their lines. -/
def State.commitEntries (s : State) (t : Nat) (th : Thread) : List (PsqEntry × DWord) :=
  (th.tentative.filter fun e => e.space == .glb).filterMap fun e =>
    (s.drainAttrs (coreOf t) (s.part (s.partOf t)) (s.asidOf t) (16 * e.block)).map fun pte => (e, pte)

/-- An agent that the tentative entries of a thread need is absent (R394). -/
def State.commitAbsent (s : State) (t : Nat) (th : Thread) : Bool :=
  let p := s.part (s.partOf t)
  (s.commitEntries t th).any fun x => s.lineAbsent p (s.asidOf t) (16 * x.1.block) x.2 p.primaryDie

/-- An older ordinary entry of the thread overlaps a tentative one (R89 condition 1). -/
def Thread.beforeCommit (th : Thread) (o : PsqEntry) : Bool :=
  !o.tent && th.tentative.any fun e => decide (o.seq < e.seq) && o.space == e.space && o.region == e.region
    && o.block == e.block && o.mask &&& e.mask != 0#16

/-- What the thread wrote to the lines of a section before it leaves the PSQ (R89). -/
def State.drainBefore (s : State) (t : Nat) (th : Thread) : State :=
  (th.psq.filter th.beforeCommit).foldl (fun (s : State) e => if s.drainMay t th e then s.drainEntry t e else s) s

/-- A line that a section writes has an entry in the core's write-through queue, which goes before it. -/
def State.queueBefore (s : State) (t : Nat) (th : Thread) : Bool :=
  th.tentative.any fun e => e.space == .glb &&
    (s.core (coreOf t)).wtq.any fun w => let (a, v) := s.nameOf t (16 * e.block); w.asid == a && w.block / 4 == v / 64

/-- Ownership of every line that a section writes: copies elsewhere come home (R206 step 1). -/
def State.ownLines (s : State) (t : Nat) (xs : List (PsqEntry × DWord)) : State :=
  xs.foldl (fun (s : State) x => s.gatherLine (s.partOf t) (s.asidOf t) (16 * x.1.block) x.2 none) s

/-- The homes have room for the lines of a section, and their recalls and merges (R280). -/
def State.commitRoom (s : State) (t : Nat) (xs : List (PsqEntry × DWord)) : Bool :=
  let p := s.part (s.partOf t)
  xs.all fun x => s.sliceRoom p (s.asidOf t) (16 * x.1.block) x.2 (2 ^ 64 - 1) p.primaryDie none

/-- A mark of the section is lost: its failure is the turn that comes next (R206 step 2, R207). -/
def State.markLost (s : State) (t : Nat) : Bool :=
  s.sched.agenda.any fun x => match x with | .event (.elideSectionFail u _) => u == t | _ => false

/-- The commit of a section (R206 step 3): its entries are performed at their homes together, the frames end, and the
marks are cleared; the thread goes on when what they wrote stands at DEVICE. -/
def State.commit (s : State) (t : Nat) : State :=
  match s.thread t with
  | none => s
  | some th =>
    let s := th.tentative.foldl (fun (s : State) e => s.drainEntry t e true) s
    s.modThread t fun th =>
      let th := (th.setTrp th.trb).setCpd 0
      { th with choice := { th.choice with elide := none } }

/-- A thread whose commit stands at DEVICE goes on (R206). -/
def State.endCommit (s : State) (t : Nat) : State :=
  if s.mirrorClear (fun u => u.writer == t) 4 (dieOf (coreOf t)) then s.modThread t fun th => { th with hold := .none } else s

/-- ELEND, or a CUT over an elide frame, completes (R206): it waits for earlier loads and overlapping stores (R89), for the
homes (R280) and for its budget (R268); a mark lost before it holds every line fails the section, and an absent home is
PARTITION_PROBE (R394). -/
def State.finishElend (s : State) (t : Nat) : State :=
  match s.thread t with
  | none => s
  | some th =>
    if (th.elideDepth 0).isNone then s.endCommit t
    else if th.longs.any Outstanding.holdsStores || th.tentative.any fun e =>
        s.entryLocked t e || !s.entryMapped t e then s
    else if s.commitAbsent t th then
      let pc := th.pc - 12#56
      (s.setThread t { th with hold := .none }).deliverFault t
        (th.lastFault pc (plainFault Code.partitionProbe))
    else
      let s1 := s.drainBefore t th
      let s2 := if s1.queueBefore t th then s1.drainQueue (coreOf t) else s1
      let xs := s2.commitEntries t th
      if s2.markLost t || s2.queueBefore t th || !s2.commitRoom t xs
          || ((s2.thread t).map fun th => th.psq.any th.beforeCommit).getD false then s2
      else
        let s3 := s2.ownLines t xs
        if s3.markLost t then s3
        else if th.tentative.any fun e => !s3.affordsFor t (s3.drainCost t e true) then
          s3.awaitBudget (.stallingInstructionComplete t)
        else (s3.commit t).endCommit t

end Sys2Proof.Machine
end

