-- ==== Sys2Proof/Machine/Choice.lean ====
section
/-! DEFINITION. Choice instructions, OP C0 to C5 (R238 to R252, R426): TRY, FAIL, CUT, MARK, STEAL and TRAILW. -/

namespace Sys2Proof.Machine

/-! ## Windows -/

/-- Trail entries for a range of registers, in ascending order (R243, R244). -/
def Thread.trailRegs (th : Thread) (first n : Nat) : Thread :=
  (List.range n).foldl
    (fun (th : Thread) j => th.trail 2 ((first + j) % 512) (th.reg (first + j)).toNat) th

/-- The values of a window, from the snapshot entries that begin at an address (Table 12-3). -/
def Thread.snapshot (th : Thread) (start n : Nat) : List Word :=
  (List.range n).map fun j => BitVec.ofNat 32 (natBits (Memory.readNat th.priv (start + 16 * j) 16) 64 32)

/-- A window written; a register at or beyond the register count is passed over. -/
def Thread.putWindow (th : Thread) (rc first : Nat) (vs : List Word) : Thread :=
  (vs.zipIdx).foldl
    (fun (th : Thread) (v : Word × Nat) => if first + v.2 < rc then th.setReg (first + v.2) v.1 else th) th

/-- Room for a window's snapshot of `n` entries and a new frame (R243, R248). -/
def Thread.frameFits (th : Thread) (n : Nat) : Bool := decide (th.trp + 16 * n + 32 * (th.cpd + 1) ≤ th.trl)

/-! ## TRY (R243) -/

/-- The frame and the snapshot that TRY pushes. -/
def Thread.pushTry (th : Thread) (x : TryArgs) (tb : Nat) : Thread :=
  let ser := th.choice.fser + 1#32
  let held := th.tentative.length
  let f : Frame :=
    { ser := ser.toNat, stolen := 0, kind := 0, steal := x.steal && decide (held = 0), mark := held,
      wstart := x.d.toNat, wlen := x.wlen.toNat, cnt := x.cnt.toNat, next := 1, trp0 := th.trp,
      pv := decide (0 < th.cpd), prev := th.trl - 32 * th.cpd, table := tb / 4, aux := 0 }
  let th := { th with choice := { th.choice with fser := ser } }
  let th := th.trailRegs x.d.toNat (x.wlen.toNat + 1)
  (th.setFrame (th.cpd + 1) f).setCpd (th.cpd + 1)

/-- TRY (R243): K alternatives, a window of L registers. -/
def execTryAlt (h : Hdr) (x : TryArgs) (s : State) : Host.Outcome State Fault Refusal :=
  perThread (.tryAlt h x) (fun pc s t =>
    match s.thread t with
    | none => .ok s
    | some th =>
      let tb := tableStart pc x.off
      if !th.frameFits (x.wlen.toNat + 1) || th.choice.fser == 0xFFFFFFFF#32 then .fault (plainFault Code.trailFull)
      else
        withTarget s t pc tb 0 fun s target =>
          .ok ((s.modThread t fun th => th.pushTry x tb).goTo t target)) s

/-! ## FAIL (R245) -/

/-- A fault of a FAIL whose pops, undos and restores stand: the operands are those it issued with (R245, R259). -/
def State.failFault (s : State) (t : Nat) (pc : Addr56) (e : FaultInfo) : State :=
  match s.thread t with
  | none => s
  | some th => ((s.setThread t { th with pc := pc }).logFault t e).deliverFault t (th.lastFault pc e)

/-- FAIL at a link frame: the thief is at its base, and out of its handler (R245, R365, R426). -/
def State.failLink (s : State) (t : Nat) (pc : Addr56) (f : Frame) : State :=
  s.modThread t fun th =>
    let th := ((th.undoTo (s.regCount t) (s.privBytes t) f.trp0).keepTentative 0).spend th.cpd
    ({ th with faults := { th.faults with inh := false } }.setCpd 0).leaveLink 1 (nextPc pc)

/-- FAIL's undo and restore at a try frame (R245). -/
def Thread.restoreTry (th : Thread) (rc pbytes : Nat) (f : Frame) : Thread :=
  let th := (th.undoTo rc pbytes (f.trp0 + 16 * (f.wlen + 1))).keepTentative f.mark
  th.putWindow rc f.wstart (th.snapshot f.trp0 (f.wlen + 1))

/-- A frame popped by FAIL. -/
def Thread.popTry (th : Thread) (f : Frame) : Thread := (th.setTrp f.trp0).setCpd (th.cpd - 1)

/-- The alternative that FAIL takes (R245); a handler's state ends (R365). -/
def Thread.takeNext (th : Thread) (f : Frame) : Thread :=
  let th := { th.patchFrame th.cpd 176 5 (f.next + 1) with faults := { th.faults with inh := false } }
  if f.next = f.cnt then th.popTry f else th

/-- FAIL's loop over frames (R245). -/
def State.failLoop (s : State) (t : Nat) (pc : Addr56) (popped : Bool) : Nat → LaneRes
  | 0 => .ok s
  | fuel + 1 =>
    match s.thread t with
    | none => .ok s
    | some th =>
      if th.cpd = 0 then
        if popped then .ok (s.failFault t pc (infoFault Code.choiceEmpty 1))
        else .fault (infoFault Code.choiceEmpty 0)
      else
        let f := th.frame th.cpd
        if f.kind = 1 then .ok (s.elideFail t 4)
        else if f.kind = 2 then .ok (s.failLink t pc f)
        else
          let s1 := s.setThread t (th.restoreTry (s.regCount t) (s.privBytes t) f)
          if f.cnt < f.next then (s1.modThread t fun th => th.popTry f).failLoop t pc true fuel
          else
            match withTarget s1 t pc (4 * f.table) f.next fun s target =>
                .ok ((s.modThread t fun th => th.takeNext f).goTo t target) with
            | .fault e => .ok (s1.failFault t pc e)
            | r => r

/-- FAIL (R245). -/
def execFail (h : Hdr) (s : State) : Host.Outcome State Fault Refusal :=
  perThread (.fail h) (fun pc s t =>
    match s.thread t with
    | none => .ok s
    | some th => s.failLoop t pc false (th.cpd + 1)) s

/-! ## CUT and MARK (R246) -/

/-- Tentative entries after a CUT to depth a: ordinary ones from now on at depth 0, else those of a discarded frame
join the frame at depth a (R246). -/
def Thread.cutEntries (th : Thread) (a ser now : Nat) : Thread :=
  if a = 0 then
    { th with psq := th.psq.map fun (e : PsqEntry) => if e.tent then { e with tent := false, born := now } else e }
  else
    let keep := (th.frame a).ser
    { th with psq := th.psq.map fun (e : PsqEntry) => if e.tent ∧ ser ≤ e.frame then { e with frame := keep } else e }

/-- CUT a (R246): over an elide frame it commits as ELEND, and holds its thread until the commit has ended. -/
def State.cutTo (s : State) (t a : Nat) : State :=
  match s.thread t with
  | none => s
  | some th =>
    if th.cpd ≤ a then s
    else if (th.elideDepth a).isSome then s.setThread t { th with hold := .finishing .elend }
    else
      let f := th.frame (a + 1)
      let s := s.modThread t fun th =>
        (th.linkDepths.filter fun d => decide (a < d)).foldl (fun (th : Thread) d => th.spend d) th
      let s := s.cancelFrom t f.ser
      let now := s.clock t
      s.modThread t fun th => ((th.setTrp f.trp0).setCpd a).cutEntries a f.ser now

/-- CUT (R246). -/
def execCut (h : Hdr) (x : OneArgs) (s : State) : Host.Outcome State Fault Refusal :=
  perThread (.cut h x) (fun _ s t =>
    match s.thread t with
    | none => .ok s
    | some th => .ok (s.cutTo t (th.b32 x.b).toNat)) s

/-- MARK (R246). -/
def execMark (h : Hdr) (x : DstArgs) (s : State) : Host.Outcome State Fault Refusal :=
  perThread (.mark h x) (threadOnly fun th => th.setReg x.d.toNat th.choice.cpd) s

/-! ## STEAL (R248) -/

/-- A frame that a thief may take: a try frame that TRY marked, with an alternative left (R240, R248). -/
def Frame.stealable (f : Frame) : Bool := (f.kind == 0 || f.kind == 3) && f.steal && decide (f.next ≤ f.cnt)

/-- The victim and the depth of its oldest stealable frame, lanes taken cyclically after the thief's (R248). -/
def State.stealFrom (s : State) (t : Nat) : Option (Nat × Nat) :=
  (List.range 31).findSome? fun k =>
    let v := 32 * crewOf t + (laneOf t + 1 + k) % 32
    match s.thread v with
    | none => none
    | some th =>
      if th.hold = .exited then none
      else (th.depths.reverse.find? fun d => (th.frame d).stealable).map fun d => (v, d)

/-- The thief's link frame, with its snapshot entries, and the victim's window values (R248). The fields that R248 does not
name (STOLEN, STEAL, CNT, NEXT, PREV and TABLE) are written as 0: DESIGN CHOICE (log 13). -/
def Thread.pushLink (th : Thread) (rc : Nat) (f : Frame) (vlane : Nat) (vs : List Word) : Thread :=
  let ser := th.choice.fser + 1#32
  let link : Frame :=
    { ser := ser.toNat, stolen := 0, kind := 2, steal := false, mark := 0, wstart := f.wstart, wlen := f.wlen,
      cnt := 0, next := 0, trp0 := th.trb, pv := false, prev := 0, table := 0,
      aux := 2 ^ 9 * f.ser + 2 ^ 5 * f.next + vlane }
  let th := { th with choice := { th.choice with fser := ser } }
  let th := th.trailRegs f.wstart (f.wlen + 1)
  ((th.setFrame 1 link).setCpd 1).putWindow rc f.wstart vs

/-- A STEAL that takes alternative NEXT of a victim's frame (R248, R426): the thread is held until its inspection of
the victim has ended. -/
def State.takeAlt (s : State) (t : Nat) (pc : Addr56) (d : Reg) (v depth : Nat) (f : Frame) (target : Addr56) : State :=
  let s := s.releaseLink t
  let s := s.modThread v fun th =>
    (th.patchFrame depth 176 5 (f.next + 1)).patchFrame depth (208 + f.next % 16) 1 1
  let vs := ((s.thread v).map fun th => th.snapshot f.trp0 (f.wlen + 1)).getD []
  let (id, s) := s.startInsp t 1 none [v] true
  let s := s.modThread t fun th =>
    let th := (th.pushLink (s.regCount t) f (laneOf v) vs).setReg d.toNat (BitVec.ofNat 32 f.next)
    { th with choice := { th.choice with
                link := some { pc := pc, reg := d, lane := laneOf v, serial := f.ser, alt := f.next % 16 } } }
  let s := s.goTo t target
  s.modThread t fun th => { th with hold := .finishing (.inspecting id) }

/-- STEAL (R248). -/
def execSteal (h : Hdr) (x : DstArgs) (s : State) : Host.Outcome State Fault Refusal :=
  perThread (.steal h x) (fun pc s t =>
    match s.thread t with
    | none => .ok s
    | some th =>
      if th.cpd ≠ 0 then .fault (plainFault Code.stealLink)
      else
        match s.stealFrom t with
        | none => .ok ((s.releaseLink t).modThread t fun th => th.setReg x.d.toNat 0#32)
        | some (v, depth) =>
          let f := ((s.thread v).map fun th => th.frame depth).getD (Frame.ofNat 0)
          if !th.frameFits (f.wlen + 1) then .fault (plainFault Code.trailFull)
          else withTarget s t pc (4 * f.table) f.next fun s target => .ok (s.takeAlt t pc x.d v depth f target)) s

/-! ## TRAILW (R244) -/

/-- TRAILW (R244). -/
def execTrailw (h : Hdr) (x : TrailwArgs) (s : State) : Host.Outcome State Fault Refusal :=
  perThread (.trailw h x) (fun _ s t =>
    match s.thread t with
    | none => .ok s
    | some th =>
      if th.cpd = 0 then .ok s
      else if !th.trailFits x.n.toNat then .fault (plainFault Code.trailFull)
      else .ok (s.setThread t (th.trailRegs x.a.toNat x.n.toNat))) s

end Sys2Proof.Machine
end

