-- ==== Sys2Proof/Machine/Engine.lean ====
section
/-! DEFINITION. What engine requests share: sinks and their designators (R213, R214, R389), acceptance (R211, R212,
R216), the engines' reads and writes at the points of coherence (R107, R217, R387), budgets (R267, R268), tiles
and cooperation sets (R221 to R223), and the completion of a request. -/

namespace Sys2Proof.Machine

/-! ## Sinks (R213) -/

/-- The sink that an instruction names; scope 0 reads as DEVICE (R132). -/
def Thread.sinkRef (th : Thread) (kind : SinkKind) (d : Reg) (sc : BitVec 3) : SinkRef :=
  { kind := kind, reg := d, desig := if kind = .token then 0#64 else th.pair d.toNat,
    scope := if sc = 0#3 then 4#3 else sc }

/-- The scope at which a request's writes and its sink update stand: an interrupt's record is written only after they
are visible at SYSTEM scope (R107, R309). -/
def SinkRef.reach (k : SinkRef) : Nat := if k.kind = .interrupt then 5 else k.scope.toNat

/-- The checks of a sink at acceptance (R213): a designator that breaks Table 11-2, an object out of range or
misaligned, a thread outside the runtime. -/
def State.sinkFault (s : State) (core gang part : Nat) (k : SinkRef) : Option FaultInfo :=
  match k.kind with
  | .token => none
  | .arrival =>
    match k.object with
    | none => some (plainFault Code.bounds)
    | some (sp, a) =>
      if (s.spot core gang part sp a 1).isNone then some (addrFault Code.bounds (BitVec.ofNat 64 a))
      else if a % 16 ≠ 0 then some (addrFault Code.misaligned (BitVec.ofNat 64 a))
      else if (s.spot core gang part sp a 16).isNone then some (addrFault Code.bounds (BitVec.ofNat 64 a))
      else none
  | .counter => if k.counter.isNone then some (plainFault Code.bounds) else none
  | .interrupt =>
    if natBits k.desig.toNat 24 40 ≠ 0 then some (plainFault Code.bounds)
    else if (s.part part).runtimes.contains (natBits k.desig.toNat 0 16) then none
    else some (plainFault Code.handleInvalid)

/-- The sink's checks, then `f`. -/
def withSink (s : State) (t : Nat) (kind : SinkKind) (d : Reg) (sc : BitVec 3) (f : Thread → SinkRef → LaneRes) :
    LaneRes :=
  match s.thread t with
  | none => .ok s
  | some th =>
    let k := th.sinkRef kind d sc
    match s.sinkFault (coreOf t) th.gang (s.partOf t) k with
    | some e => .fault e
    | none => f th k

/-! ## Acceptance (R211, R216) -/

/-- A request takes its queue entry: a shared one where one is free, else its gang's reserved one; a token register
becomes pending (R213). -/
def State.accept (s : State) (t : Nat) (pc : Addr56) (op : Nat) (k : SinkRef) (body : ReqBody) : State :=
  match s.thread t, s.jobOf t with
  | some th, some j =>
    let id := Tab.fresh s.reqs
    let r : Request :=
      { core := coreOf t, gang := th.gang, thread := t, pc := pc, job := ((s.gangOf t).map (·.job)).getD 0,
        part := j.part, vdev := j.vdev, asid := s.asidOf t, op := op, shared := s.sharedFree (coreOf t), sink := k,
        body := body, done := [], started := [], lines := [], handed := [], declined := [], failed := [], abort := none,
        saved := false }
    let s := { s with reqs := Tab.set s.reqs id r }
    if k.kind = .token then
      s.modThread t fun th => { th with tokens := Tab.set th.tokens k.reg.toNat (.pending id) }
    else s
  | _, _ => s

/-- An engine request after its checks: a full queue, or an inspection that cannot be performed at once, stalls the thread;
then the implicit inspection is performed, and the entry is taken (R106, R211, R216). -/
def State.engage (s : State) (t : Nat) (pc : Addr56) (op : Nat) (k : SinkRef) (target : InspTarget) (body : ReqBody) :
    LaneRes :=
  match s.thread t with
  | none => .ok s
  | some th =>
    let room := if op = 0xA0 ∨ op = 0xA1 then s.matrixRoom (coreOf t) else s.engineRoom (coreOf t) th.gang
    if !room || !s.inspectable t target k.scope.toNat then .stall
    else .ok ((s.inspectFor t target k.scope.toNat).accept t pc op k body)

/-! ## Budgets (R267, R268) -/

/-- Work charged to CPYB may start (R268). -/
def State.copyBudget (s : State) (r : Request) : Bool :=
  s.affords (isleOf r.core) r.part r.vdev { Budget.none with cpyb := 1 }

/-- A cost charged to a request's isle and virtual device. -/
def State.charge (s : State) (r : Request) (cost : Budget) : State := s.pay (isleOf r.core) r.part r.vdev cost

/-- The copy engines that a partition owns, on dies that answer (R299): 24 x stack + engine. -/
def State.engines (s : State) (part : Nat) : List Nat :=
  (List.range 96).filter fun k => natBits (s.part part).desc.toNat (96 + k) 1 == 1
    && !s.fw.reset.contains (k / 24) && !s.fw.dead.contains (k / 24)

/-- The stack of the agent that works on a request: the core's for the matrix engine, else that of the partition's
first copy engine. Which engine works is the model's choice (log 33). -/
def State.stackOf (s : State) (r : Request) : Nat :=
  match r.body with
  | .copy _ => (s.engines r.part).headD 0 / 24
  | .kick _ _ _ => (s.engines r.part).headD 0 / 24
  | .tilef _ _ _ _ _ => (s.engines r.part).headD 0 / 24
  | .fabx _ _ _ _ => (s.engines r.part).headD 0 / 24
  | .mloadb _ _ _ _ _ _ _ _ => dieOf r.core
  | .mma _ => dieOf r.core
  | .fmtset _ _ _ => dieOf r.core

/-- The agent whose replay windows carry a request's REQ flits: its first copy engine, or its core's matrix engine (R279). -/
def State.senderOf (s : State) (r : Request) : Nat :=
  match r.body with
  | .copy _ => 784 + (s.engines r.part).headD 0
  | .kick _ _ _ => 784 + (s.engines r.part).headD 0
  | .tilef _ _ _ _ _ => 784 + (s.engines r.part).headD 0
  | .fabx _ _ _ _ => 784 + (s.engines r.part).headD 0
  | .mloadb _ _ _ _ _ _ _ _ => r.core
  | .mma _ => r.core
  | .fmtset _ _ _ => r.core

/-- Work of a cost may go on: its counts let it, or a pre-emption waits for it (R268, R302). -/
def State.mayPay (s : State) (r : Request) (cost : Budget) : Bool :=
  s.affords (isleOf r.core) r.part r.vdev cost || (s.part r.part).halting.isSome

/-! ## Reading and writing at the points of coherence (R107, R217) -/

/-- The attributes that an engine finds for an address: at the home slice, in the front end's TLB, or by a walk; of a
Mirror line, those of the primary, where stores are performed (R49, R50, R90, R107). -/
def State.engineAttrs (s : State) (part asid va : Nat) : Trans :=
  let p := s.part part
  let l2 := if (remapOf p asid va).isSome then none else s.l2Tag? p asid (va / 64) p.primaryDie
  match l2 with
  | some e => classify p asid va e.pte
  | none =>
    match s.tlbAttrs p asid va p.primaryDie with
    | some e => classify p asid va e
    | none => s.walkNow p asid va

/-- What the front end answers an engine: it lets the access pass, refuses the line, or the line waits (R63, R366, R390). -/
inductive EngineAns where
  | pass (pte : DWord)
  | refused (s : State)
  | waits (s : State)
  deriving DecidableEq, Repr

/-- A refused engine line, with the log entry of a refused key (Table 25-2). -/
def State.logRefusal (s : State) (part asid va info : Nat) : State :=
  let fe : Agent := .frontEnd ((s.part part).frontEnd asid va)
  if info = 4 then s.log 0x07 fe (some part) va 0 else s

/-- A page without a leaf is handed over to the control cores: the line waits until the runtime installs an entry or
declines (R366). -/
def State.handOver (s : State) (id va : Nat) : State := s.modReq id fun r => { r with handed := addOnce r.handed (va / 65536) }

/-- The front end's answer for a `.glb` address of a request (R50, R63, R366, R390). -/
def State.engineAsk (s : State) (id : Nat) (r : Request) (k : AccessKind) (va : Nat) : EngineAns :=
  if 2 ^ 56 ≤ va then .refused s
  else
    let p := s.part r.part
    match s.engineAttrs r.part r.asid va with
    | .missing => if r.declined.contains (va / 65536) then .refused s else .waits (s.handOver id va)
    | .synonym _ => .refused (s.log 0x06 (.frontEnd (p.frontEnd r.asid va)) (some r.part) va 0)
    | .leaf pte =>
      let (a, v) := primaryForm p r.asid va
      match s.permit r.part (96 * p.primaryDie) k r.asid va pte with
      | some info => .refused (s.logRefusal r.part r.asid va info)
      | none => if k != .load && s.mirrorLocked a (v / 64) then .waits s else .pass pte

/-- The REQ flit of a request for a line reaches its home: every copy of the line comes home for it (R107, R279, R280). -/
def State.engineReach (s : State) (id : Nat) (r : Request) (va : Nat) (pte : DWord) : Bool × State :=
  let p := s.part r.part
  s.reachHome (s.senderOf r) (.request id) p r.asid va pte (2 ^ 64 - 1) p.primaryDie none

/-- The home holds the tag of a line that an engine has reached. -/
def State.engineTag (s : State) (r : Request) (va : Nat) (pte : DWord) : State :=
  let p := s.part r.part
  if cacheable p r.asid va pte then s.tagL2 r.part r.asid (va / 64) r.vdev pte p.primaryDie else s

/-- What an engine reads: the bytes, their poison and the state after; a refused line; or one that waits. -/
structure EngineRead where
  ok     : Bool
  wait   : Bool
  data   : Nat
  poison : Bool
  after  : State
  deriving DecidableEq, Repr

def EngineRead.refused (s : State) : EngineRead := { ok := false, wait := false, data := 0, poison := false, after := s }

def EngineRead.waits (s : State) : EngineRead := { ok := false, wait := true, data := 0, poison := false, after := s }

/-- What a request is charged for reading or writing inside one line (Table 13-3). -/
def State.endCost (s : State) (r : Request) (space : Space) (addr : Nat) : Budget :=
  if space = .glb then
    match s.engineAttrs r.part r.asid addr with
    | .leaf pte => s.homeCost r.part r.asid addr pte (s.stackOf r) false
    | _ => Budget.none
  else
    match s.spot r.core r.gang r.part space addr 1 with
    | none => Budget.none
    | some b => bankCost b.1 (s.stackOf r)

/-- An engine reads `n` bytes inside one line (R107): every copy of the line comes home first. -/
def State.engineRead (s : State) (id : Nat) (r : Request) (space : Space) (addr n : Nat) : EngineRead :=
  if space = .glb then
    match s.engineAsk id r .load addr with
    | .refused s => .refused s
    | .waits s => .waits s
    | .pass pte =>
      let x := s.engineReach id r addr pte
      if !x.1 then .waits x.2
      else
        let o := addr % 64
        let s := x.2.charge r (s.homeCost r.part r.asid addr pte (s.stackOf r) false)
        let h := s.homeLine r.part r.asid addr pte (2 ^ 64 - 1) (s.part r.part).primaryDie none
        { ok := true, wait := false, data := natBits h.data.toNat (8 * o) (8 * n), poison := h.poison,
          after := h.after.engineTag r addr pte }
  else
    match s.spot r.core r.gang r.part space addr n with
    | none => .refused s
    | some (b, off) =>
      if s.isleAbsent b.isle then .refused s
      else
        { ok := true, wait := false, data := s.readBank b off n, poison := s.bankPoisoned b off n,
          after := s.charge r (bankCost b (s.stackOf r)) }

/-- A source range of at most a line's length, which may straddle two source lines (R217). -/
def State.gather (s : State) (id : Nat) (r : Request) (space : Space) (addr n : Nat) : EngineRead :=
  let m := Nat.min n (64 - addr % 64)
  let a := s.engineRead id r space addr m
  if m = n || !a.ok then a
  else
    let b := a.after.engineRead id r space (addr + m) (n - m)
    { ok := b.ok, wait := b.wait, data := a.data + b.data * 2 ^ (8 * m), poison := a.poison || b.poison, after := b.after }

/-- What reading such a range is charged. -/
def State.gatherCost (s : State) (r : Request) (space : Space) (addr n : Nat) : Budget :=
  let m := Nat.min n (64 - addr % 64)
  (s.endCost r space addr).add (if m = n then Budget.none else s.endCost r space (addr + m))

/-- What becomes of a write of an engine. -/
inductive EngineWrite where
  | done (s : State)
  | refused (s : State)
  | waits (s : State)
  deriving DecidableEq, Repr

/-- The 16-byte words of a range of a bank poisoned (R387). -/
def State.poisonBank (s : State) (b : Bank) (off n : Nat) : State :=
  s.setBankPoison b ((List.range ((off + n + 15) / 16 - off / 16)).foldl (fun (l : List Nat) k => addOnce l (off / 16 + k))
    (s.bankPoison b))

/-- An engine writes `n` bytes inside one line (R217, R386, R387). -/
def State.engineWrite (s : State) (id line : Nat) (r : Request) (space : Space) (addr n v : Nat) (poison : Bool) :
    EngineWrite :=
  if space = .glb then
    match s.engineAsk id r .store addr with
    | .refused s => .refused s
    | .waits s => .waits s
    | .pass pte =>
      let o := addr % 64
      let cost := s.homeCost r.part r.asid addr pte (s.stackOf r) false
      if pteTier pte = 2 ∧ poison then .done s
      else if pteTier pte = 2 then
        let pa := physOf pte addr
        .done ((s.charge r cost).sendFrame r.part r.vdev (pa / 2 ^ 36) (pa % 2 ^ 36) 1 0 0 (bytesOf v n) (.request id line))
      else
        let x := s.engineReach id r addr pte
        if !x.1 then .waits x.2
        else
          let key := dramKey pte addr
          let s := (x.2.charge r cost).engineTag r addr pte
          let s := if poison then s.poisonLine key else if n = 64 then s.cleanLine key else s
          .done (s.performGlb r.part r.asid addr pte (BitVec.ofNat 512 (v % 2 ^ (8 * n) * 2 ^ (8 * o))) (lineMask o n)
            none (reqWriter id))
  else
    match s.spot r.core r.gang r.part space addr n with
    | none => .refused s
    | some (b, off) =>
      if s.isleAbsent b.isle then .refused s
      else
        let s := (s.charge r (bankCost b (s.stackOf r))).writeBank b off n v
        .done (if poison then s.poisonBank b off n else s)

/-- The state before a piece of work that waits, with the pages that it handed over, the flits that it sent and what they
brought on: the work is done over when it goes on. -/
def State.undone (s after : State) : State :=
  { s with reqs := after.reqs, net := after.net, sched := after.sched }

/-! ## Completion (R214) -/

/-- An error with a counter sink (R389): event 0x05 with the status word, and vector 0xFE to the stream's runtime. -/
def State.counterError (s : State) (job thread op va : Nat) (part : Nat) (core : Nat) (status : Word) : State :=
  let s := s.log 0x05 (.control (dieOf core) 0) (some part) va status.toNat
  match s.job job with
  | none => s
  | some j => s.postStream part j.vdev j.stream 0xFE (interruptRecord 0 thread op (natBits status.toNat 0 8) part 0xFE)

/-- A 64-bit counter added to at its home (R214); none where the front end refuses the access, or where the counter
lies on a fabric window. -/
def State.addCounter (s : State) (part vdev asid va n : Nat) : Option State :=
  match s.engineAttrs part asid va with
  | .leaf pte =>
    let p := s.part part
    if (s.permit part (96 * p.primaryDie) .atomic asid va pte).isSome || pteTier pte == 2 then none
    else
      let s := if cacheable p asid va pte then s.tagL2 part asid (va / 64) vdev pte p.primaryDie else s
      some (s.rmwGlb part asid va 8 pte none noThread fun old => some { val := old + n, flags := 0 }).after
  | _ => none

/-- A counter may be added to now: its page has a leaf, or the runtime has declined one, an update of its Mirror line has
ended (R63), and its home has room (R280). -/
def State.counterMay (s : State) (part asid va : Nat) (declined : List Nat) : Bool :=
  let p := s.part part
  match s.engineAttrs part asid va with
  | .missing => declined.contains (va / 65536)
  | .synonym _ => true
  | .leaf pte =>
    let (a, v) := primaryForm p asid va
    !s.mirrorLocked a (v / 64) && s.sliceRoom p asid va pte (2 ^ 64 - 1) p.primaryDie none

/-- The cost of adding to a request's counter (Table 13-3). -/
def State.counterCost (s : State) (r : Request) (va : Nat) : Budget :=
  match s.engineAttrs r.part r.asid va with
  | .leaf pte => s.homeCost r.part r.asid va pte (s.stackOf r) false
  | _ => Budget.none

/-- The cost of a sink's update. -/
def State.sinkCost (s : State) (r : Request) (k : SinkRef) : Budget :=
  match k.kind with
  | .arrival =>
    match k.object.bind fun o => s.spot r.core r.gang r.part o.1 o.2 16 with
    | none => Budget.none
    | some b => bankCost b.1 (s.stackOf r)
  | .counter => s.counterCost r (k.counter.getD 0)
  | _ => Budget.none

/-- The sink of a request may be updated now; a counter without a leaf is handed over (R214, R268, R366). -/
def State.sinkMay (s : State) (r : Request) (k : SinkRef) (status : Word) : Bool :=
  s.mayPay r (s.sinkCost r k)
    && (k.kind != .counter || status != 0#32 || s.counterMay r.part r.asid (k.counter.getD 0) r.declined)

/-- The sink of a request updated (R214): `units` on success, `good` units of it where the status is an error. -/
def State.updateSink (s : State) (id : Nat) (r : Request) (k : SinkRef) (units good : Nat) (status : Word) : State :=
  match k.kind with
  | .token =>
    s.modThread r.thread fun th =>
      if Tab.get? th.tokens k.reg.toNat = some (.pending id) then
        { th.setReg k.reg.toNat status with tokens := Tab.set th.tokens k.reg.toNat .done }
      else th
  | .arrival =>
    match k.object.bind fun o => s.spot r.core r.gang r.part o.1 o.2 16 with
    | none => s
    | some b =>
      let s := s.charge r (bankCost b.1 (s.stackOf r))
      let o := s.arrObj b
      if status = 0#32 then s.putArrObj b (o.arrive units)
      else
        let o := if good = 0 then o else o.arrive good
        s.putArrObj b { o with status := if o.status = 0 then natBits status.toNat 0 8 else o.status }
  | .counter =>
    let va := k.counter.getD 0
    if status ≠ 0#32 then s.counterError r.job r.thread r.op va r.part r.core status
    else
      match s.addCounter r.part r.vdev r.asid va (if natBits k.desig.toNat 0 1 = 1 then units else 1) with
      | some s1 => s1.charge r (s.counterCost r va)
      | none => s.counterError r.job r.thread r.op va r.part r.core 2#32
  | .interrupt =>
    let vec := natBits k.desig.toNat 16 8
    s.post (natBits k.desig.toNat 0 16) vec
      (interruptRecord 0 r.thread r.op (natBits status.toNat 0 8) r.part vec)

/-- A request leaves its queue. -/
def State.endRequest (s : State) (id : Nat) : State := { s with reqs := Tab.erase s.reqs id }

/-- The page of a counter that an update waits for is handed over (R366). -/
def State.handCounter (s : State) (id : Nat) (r : Request) (k : SinkRef) : State :=
  match if k.kind = .counter then s.engineAttrs r.part r.asid (k.counter.getD 0) else .synonym 0#64 with
  | .missing => s.handOver id (k.counter.getD 0)
  | _ => s

/-- A request completes (R107, R214): its writes are carried to the sink scope, its sink is updated there, and its
entry frees. While a Mirror update is held it waits. -/
def State.finishRequest (s : State) (id : Nat) (r : Request) (units good : Nat) (status : Word) : State :=
  let die := dieOf r.core
  let scope := r.sink.reach
  let s := s.spreadScope r.part scope die
  if !s.mirrorClear (fun u => u.writer == reqWriter id) scope die then s
  else if !s.sinkMay r r.sink status then s.handCounter id r r.sink
  else ((s.updateSink id r r.sink units good status).spreadScope r.part scope die).endRequest id

/-- Frames of a request that the peer has not acknowledged (R220, R291). -/
def State.unacked (s : State) (id : Nat) : Bool :=
  s.net.conns.any fun c => c.2.sent.any fun f => match f.use with | .request q _ => q == id | _ => false

/-! ## Tiles and cooperation sets (R221 to R223) -/

/-- A tile descriptor (Table 11-5). -/
structure Tile where
  base   : Nat
  rows   : Nat
  cols   : Nat
  stride : Nat
  space  : Nat
  fmtsrc : Bool
  fmt    : Nat
  geom   : Nat
  fill   : Bool
  prows  : Nat
  pcols  : Nat
  deriving DecidableEq, Repr

def Tile.of (d : BitVec 512) : Tile :=
  let n := d.toNat
  { base := natBits n 0 64, rows := natBits n 64 16, cols := natBits n 80 16, stride := natBits n 96 32,
    space := natBits n 128 3, fmtsrc := bitOf d 131, fmt := natBits n 132 5, geom := natBits n 137 2,
    fill := bitOf d 139, prows := natBits n 160 16, pcols := natBits n 176 16 }

/-- MATRIX_SHAPE with FINFO (R361). -/
def shapeFault (info : Nat) : FaultInfo := infoFault Code.matrixShape info

/-- The field of lowest bit number that breaks Table 11-5 (R221). -/
def tileOffence (d : BitVec 512) : Option Nat :=
  let x := Tile.of d
  let n := d.toNat
  let far := if x.space = 4 then 2 ^ 56 else if x.space = 0 ∨ 4 < x.space then 2 ^ 64 else 2 ^ 32
  ([(0, decide (x.base % 64 ≠ 0 ∨ far ≤ x.base)), (64, x.rows == 0), (80, x.cols == 0), (96, x.stride % 64 != 0),
    (128, x.space == 0 || decide (4 < x.space)), (131, !x.fmtsrc && x.space != 4),
    (139, !x.fill && (x.prows != x.rows || x.pcols != x.cols)), (140, natBits n 140 20 != 0),
    (160, decide (x.prows < x.rows)), (176, decide (x.pcols < x.cols)), (192, natBits n 192 320 != 0)].find?
      fun (p : Nat × Bool) => p.2).map (·.1)

/-- The space of a tile. -/
def Tile.place (x : Tile) : Space := if x.space = 4 then .glb else (chipSpace x.space).getD .scr

/-- A slot of a core that a job may use (R221). -/
def State.tileOf (s : State) (core job slot : Nat) : Option (BitVec 512) :=
  match Tab.get? (s.core core).tiles slot with
  | none => none
  | some x => if x.job = job then some x.desc else none

/-- What a tile's entry is latched from (R222): the image and the geometry, a fault, or a walk to wait for. -/
inductive TileFmt where
  | ok (image : DWord) (geom : Nat)
  | fault (f : FaultInfo)
  | walk (va : Nat)
  deriving DecidableEq, Repr

/-- The image of a format entry on a thread's core. -/
def State.imageOf (s : State) (t n : Nat) : DWord :=
  ((s.jobOf t).map fun j => j.image (coreOf t) n).getD (if n < 8 then fixedImage n else 0#64)

/-- The entry that a tile latches (R222): under FMTSRC = 0 from the attributes of BASE's line, read as a store reads
them. -/
def State.tileFmt (s : State) (t : Nat) (x : Tile) : TileFmt :=
  if x.fmtsrc then .ok (s.imageOf t x.fmt) x.geom
  else
    let acc : Access := { space := .glb, region := 0, addr := x.base, size := 64, issued := BitVec.ofNat 64 x.base }
    match s.checkGlb t .store acc with
    | .walk => .walk x.base
    | .fault e => .fault e
    | .ok pte => .ok (s.imageOf t (pteFmt pte)) (pteGeom pte).toNat

/-- A walk that an instruction waits for, else `f` with the tile's image and geometry. -/
def withTile (s : State) (t : Nat) (pc : Addr56) (x : Tile) (f : DWord → Nat → LaneRes) : LaneRes :=
  match s.tileFmt t x with
  | .walk va => s.replayLater t pc va
  | .fault e => .fault e
  | .ok image geom => f image geom

/-- EPL of R222. -/
def perLine (image : DWord) (geom : Nat) : Nat :=
  let e := entryOf image
  if e.width = 0 then 0 else elementCount e geom

/-- The STRIDE check of R222; an entry of no width passes it, and is refused as an entry. -/
def Tile.strideOk (x : Tile) (image : DWord) (geom : Nat) : Bool :=
  let k := perLine image geom
  k == 0 || decide ((x.cols + k - 1) / k * 64 ≤ x.stride)

/-- The gangs of a cooperation set, each with its member number (R223); none where the set leaves the band or the
code is 6 or 7 (R210). Members that have retired are missing. -/
def State.coopSet (s : State) (t code : Nat) : Option (List (Nat × Nat)) :=
  match s.thread t with
  | none => none
  | some th =>
    match s.gang th.gang with
    | none => none
    | some g =>
      let n := 2 ^ code
      let g0 := g.index - g.index % n
      let width := ((s.job g.job).map Job.bandWidth).getD 1
      if 5 < code ∨ Nat.max 1 width < g0 + n then none
      else some ((List.range n).filterMap fun j =>
        ((s.bandGangs th.gang).find? fun h => ((s.gang h).map (·.index)).getD 0 == g0 + j).map fun h => (j, h))

end Sys2Proof.Machine
end

