-- ==== Sys2Proof/Machine/EvAccess.lean ====
section
/-! DEFINITION. The steps that end what an access began (R89 to R93, R104, R128, R186, R188): results written, loads
bound, atomics performed, stores checked, entries and write-through queues drained, merges demanded and received,
Mirror updates carried, walks ended and stalling instructions completed. -/

namespace Sys2Proof.Machine

/-! ## Outstanding instructions (R128) -/

/-- The outstanding instruction of a program order. -/
def Thread.outstanding (th : Thread) (order : Nat) : Option Outstanding := th.longs.find? fun o => o.order == order

/-- An outstanding instruction that has completed leaves the list (R128). -/
def Thread.endLong (th : Thread) (order : Nat) : Thread := { th with longs := th.longs.filter fun o => o.order != order }

/-- An outstanding access that meets an error after later instructions have issued ends without effect, and the registers that
it should have written are poisoned, so that nothing takes a value of them: a fault of it would not be precise any more
(R129, R357, R385). DESIGN CHOICE: log 31. -/
def Thread.endBroken (th : Thread) (o : Outstanding) : Thread :=
  { th.endLong o.order with poison := o.regs.foldl addOnce th.poison }

/-- An error that an outstanding instruction meets at its end is a fault at its own boundary, with its own PC, word and
operands, where no later instruction has issued (R129, R360, R385, R394). -/
def State.faultLong (s : State) (t : Nat) (o : Outstanding) (e : FaultInfo) : State :=
  match s.thread t with
  | none => s
  | some th =>
    if th.order = o.order then
      ((s.setThread t (th.endLong o.order)).logFault t e).deliverFault t (lateFault o.pc o.word o.opa o.opb e)
    else (s.setThread t (th.endBroken o)).settleFault t

/-- Two accesses touch one 16-byte block, or one line where either is a formatted line. -/
def Access.meets (a b : Access) : Bool :=
  let g := if a.size = 64 ∨ b.size = 64 then 64 else 16
  a.space == b.space && a.region == b.region && a.addr / g == b.addr / g

/-- Loads and inspections that an access waits for: every earlier INSP, earlier loads and atomics of the same block,
and, with `after`, every earlier one (R91, R93). -/
def Thread.mayPerform (th : Thread) (o : Outstanding) (acc : Access) (after : Bool) : Bool :=
  th.longs.all fun x =>
    decide (o.order ≤ x.order)
      || (match x.kind with
          | .insp _ _ => false
          | .load a _ _ _ _ _ _ => !after && !a.meets acc
          | .atomic a _ _ _ _ => !after && !a.meets acc
          | _ => true)

/-- The attributes under which an outstanding access is performed: those at hand, else those of a walk. -/
def State.accessAttrs (s : State) (t : Nat) (acc : Access) : Option (Option DWord) :=
  if acc.space = .glb then
    (s.drainAttrs (coreOf t) (s.part (s.partOf t)) (s.asidOf t) acc.addr).map some
  else some none

/-- What an access must reach is absent: the isle of an on-chip bank, or the home of a `.glb` line and what holds its page
(R394). -/
def State.accessAbsent (s : State) (t : Nat) (acc : Access) (pte : Option DWord) (load : Bool) : Bool :=
  let part := s.partOf t
  let p := s.part part
  match pte with
  | some e => s.lineAbsent p (s.asidOf t) acc.addr e (if load then dieOf (coreOf t) else p.primaryDie)
  | none => acc.space != .priv && s.isleAbsent (s.bankOf (coreOf t) part acc).1.isle

/-! ## LOAD_BIND (R93, R185, R187) -/

/-- The registers and flags of a bound load. -/
def bindWrites (width : Width) (d : Reg) (form : LoadForm) (value : Nat) : List (Nat × Word) × Nat :=
  match form with
  | .raw => (dataWrites width d (BitVec.ofNat 128 value), 0)
  | .element image _ n =>
    let r := elementLoad (entryOf image) n (width == .w64) value
    (dataWrites width d (BitVec.ofNat 128 r.val), r.flags)

/-- The REQ flit of a load reaches its home, where the L1 or the thread's own stores do not serve it (R88, R279, R280). -/
def State.loadReach (s : State) (t order : Nat) (acc : Access) (pte : Option DWord) (mask : Nat) : Bool × State :=
  match pte with
  | none => (true, s)
  | some e =>
    let p := s.part (s.partOf t)
    let asid := s.asidOf t
    let need := lineMask (acc.addr % 64) acc.size
    if !s.reqSent (.load t order)
        && (need &&& mask == need || (cacheable p asid acc.addr e && s.l1Hit (coreOf t) asid acc.addr)) then (true, s)
    else s.reachHome (coreOf t) (.load t order) p asid acc.addr e need (dieOf (coreOf t)) (some (coreOf t))

/-- A load that may bind now binds: its value returns from memory and is written; `own` is what it has of its thread's own
stores, with their mask. -/
def State.bindNow (s : State) (t : Nat) (o : Outstanding) (acc : Access) (pte : Option DWord) (width : Width) (d : Reg)
    (alloc : Bool) (form : LoadForm) (own : BitVec 512 × Nat) : State :=
  let r := (s.payFor t (s.loadCost t acc pte own.2)).loadWith t acc pte alloc own.1 own.2
  match r.poison with
  | some n => s.faultLong t o (addrFault Code.poison acc.issued n)
  | none =>
    let w := bindWrites width d form r.value
    (r.after.modThread t fun th => ((th.setRegs w.1).raise w.2).endLong o.order).settleFault t

/-- A load binds, once what stands before it has: it waits at a locked line (R63), for its budget (R268), and for room at its
home (R280). -/
def State.bindLoad (s : State) (t : Nat) (order : Nat) : State :=
  match s.thread t with
  | none => s
  | some th =>
    match th.outstanding order with
    | none => s
    | some o =>
      match o.kind with
      | .load acc width d after alloc form stores =>
        match s.accessAttrs t acc with
        | none => s
        | some pte =>
          let own := th.ownStanding stores
          if !th.mayPerform o acc after then s
          else if s.loadStalled t acc then s.stallHolds t acc
          else if s.accessAbsent t acc pte true then s.faultLong t o (addrFault Code.access acc.issued 5)
          else if !s.affordsFor t (s.loadCost t acc pte own.2) then s.awaitBudget (.loadBind t order)
          else
            let x := s.loadReach t order acc pte own.2
            if x.1 then x.2.bindNow t o acc pte width d alloc form own else x.2
      | _ => s

/-- LOAD_BIND (R93). -/
def execLoadBind (thread order : Nat) (s : State) : Host.Outcome State Fault Refusal := .next (s.bindLoad thread order)

/-! ## LONG_LATENCY_COMPLETE (R104, R128, R191) -/

/-- The entries of a thread that an atomic or STF drains first: those of its 16-byte blocks that are not tentative
(R104, R188). -/
def Thread.blockEntries (th : Thread) (acc : Access) (blocks : List Nat) : List PsqEntry :=
  th.psq.filter fun e => !e.tent && e.space == acc.space && e.region == acc.region && blocks.contains e.block

/-- The entries of those blocks drained, where they may (R89). -/
def State.drainEach (s : State) (t : Nat) (es : List PsqEntry) : State :=
  es.foldl
    (fun (s : State) e =>
      match s.thread t with
      | none => s
      | some th => if s.drainMay t th e then s.drainEntry t e else s) s

/-- The write-through queue of a thread's core holds an entry of the line of an access. -/
def State.queueHas (s : State) (t : Nat) (acc : Access) : Bool :=
  acc.space == .glb && (s.core (coreOf t)).wtq.any fun w => let (a, v) := s.nameOf t acc.addr; w.asid == a && w.block / 4 == v / 64

/-- What a thread wrote to some blocks of a line leaves its PSQ, and the line its core's write-through queue, as far as
they may, so that the line at its point of coherence holds it (R89, R90, R104). -/
def State.drainBlocks (s : State) (t : Nat) (th : Thread) (acc : Access) (blocks : List Nat) : State :=
  let s := s.drainEach t (th.blockEntries acc blocks)
  if s.queueHas t acc then s.drainQueue (coreOf t) else s

/-- Nothing of those blocks is left in the core. -/
def State.blocksClear (s : State) (t : Nat) (acc : Access) (blocks : List Nat) : Bool :=
  ((s.thread t).map fun th => (th.blockEntries acc blocks).isEmpty).getD true && !s.queueHas t acc

/-- The value of an atomic written to its register (R191, R194). -/
def atomicWrites (acc : Access) (d : Option Reg) (old : Nat) : List (Nat × Word) :=
  match d with
  | none => []
  | some r => dataWrites (if acc.size = 8 then .w64 else .w32) r (BitVec.ofNat 128 old)

/-- The code of an atomic in the payload of a Causeway frame (log 20). -/
def AtomFn.code : AtomFn → Nat
  | .op o => o.code.toNat
  | .cas _ => 16
  | .inc => 17
  | .dec => 18

/-- The payload of an atomic frame: operand, expected value, code and width (log 20). -/
def atomicPayload (acc : Access) (fn : AtomFn) (operand : DWord) : List Byte :=
  let expected := match fn with | .cas e => e.toNat | _ => 0
  bytesOf (operand.toNat + 2 ^ 64 * expected + 2 ^ 128 * fn.code + 2 ^ 136 * acc.size) 32

/-- A frame of this atomic has been sent (R291). -/
def State.atomicSent (s : State) (t order : Nat) : Bool :=
  s.net.conns.any fun c => c.2.sent.any fun f => f.use == .atomic t order

/-- An atomic sent to the peer of a fabric window, which performs it (R291). -/
def State.sendAtomic (s : State) (t : Nat) (o : Outstanding) (acc : Access) (pte : DWord) (fn : AtomFn)
    (operand : DWord) : State :=
  let part := s.partOf t
  let pa := physOf pte acc.addr
  if s.atomicSent t o.order then s
  else if s.windowFailed part pte acc.addr then s.faultLong t o (addrFault Code.access acc.issued 8)
  else
    (s.payFor t (s.accessCost t acc (some pte) false)).sendFrame part (s.vdevOf t) (pa / 2 ^ 36) (pa % 2 ^ 36) 2 0 0
      (atomicPayload acc fn operand) (.atomic t o.order)

/-- The place of an atomic has poison, or does not answer (R385, R394). -/
def State.atomicRefused (s : State) (t : Nat) (acc : Access) (pte : Option DWord) : Option FaultInfo :=
  if s.accessAbsent t acc pte false then some (plainFault Code.partitionProbe)
  else (s.atomicPoison t acc pte).map fun n => addrFault Code.poison acc.issued n

/-- The core of a thread holds the line of a `.glb` access owned (R104). -/
def State.ownsLine (s : State) (t : Nat) (acc : Access) : Bool :=
  (((s.core (coreOf t)).line? (s.asidOf t) (acc.addr / 64)).map (·.owned)).getD false

/-- The cost of an atomic; none where the core holds the line owned, or its frame has been sent (Table 13-3). -/
def State.atomicCost (s : State) (t order : Nat) (acc : Access) (pte : Option DWord) : Budget :=
  if pte.isSome && s.ownsLine t acc || s.atomicSent t order then Budget.none else s.accessCost t acc pte false

/-- The REQ flit of an atomic reaches its home (R104, R279, R280). -/
def State.atomicReach (s : State) (t order : Nat) (acc : Access) (pte : Option DWord) : Bool × State :=
  match pte with
  | none => (true, s)
  | some e =>
    if s.ownsLine t acc && !s.reqSent (.atomic t order) then (true, s)
    else
      let p := s.part (s.partOf t)
      s.reachHome (coreOf t) (.atomic t order) p (s.asidOf t) acc.addr e (2 ^ 64 - 1) p.primaryDie none

/-- An atomic whose entries have drained performed at its point of coherence, or sent to the peer that performs it. -/
def State.atomicPlaced (s : State) (t : Nat) (o : Outstanding) (acc : Access) (pte : Option DWord) (fn : AtomFn)
    (operand : DWord) (scope : BitVec 3) (d : Option Reg) : State :=
  match pte.filter fun e => pteTier e == 2 with
  | some e => s.sendAtomic t o acc e fn operand
  | none =>
    match s.atomicRefused t acc pte with
    | some e => s.faultLong t o e
    | none =>
      let x := s.atomicReach t o.order acc pte
      if !x.1 then x.2
      else
        let r := (x.2.payFor t (x.2.atomicCost t o.order acc pte)).atomicNow t acc pte fn operand scope
        (r.after.modThread t fun th =>
          ((th.setRegs (atomicWrites acc d r.old)).raise r.flags).endLong o.order).settleFault t

/-- An atomic performed, once the entries and accesses before it allow (R89, R104). -/
def State.performAtomic (s : State) (t : Nat) (th : Thread) (o : Outstanding) (acc : Access) (fn : AtomFn)
    (operand : DWord) (scope : BitVec 3) (d : Option Reg) : State :=
  match s.accessAttrs t acc with
  | none => s
  | some pte =>
    if !th.mayPerform o acc false || s.accessLocked t acc then s
    else
      let s := s.drainBlocks t th acc [acc.addr / 16]
      if !s.blocksClear t acc [acc.addr / 16] then s
      else if !s.affordsFor t (s.atomicCost t o.order acc pte) then s.awaitBudget (.longLatencyComplete t o.order)
      else s.atomicPlaced t o acc pte fn operand scope d

/-- An outstanding instruction other than a load completes: a result computed at issue is written, or an atomic is
performed. -/
def State.completeLong (s : State) (t : Nat) (order : Nat) : State :=
  match s.thread t with
  | none => s
  | some th =>
    match th.outstanding order with
    | none => s
    | some o =>
      match o.kind with
      | .result ws flags =>
        (s.modThread t fun th => ((th.setRegs ws).raise flags).endLong order).settleFault t
      | .atomic acc fn operand scope d => s.performAtomic t th o acc fn operand scope d
      | _ => s

/-- LONG_LATENCY_COMPLETE (R128). -/
def execLongLatencyComplete (thread order : Nat) (s : State) : Host.Outcome State Fault Refusal :=
  .next (s.completeLong thread order)

/-! ## STORE_CHECK_PASS (R186) -/

/-- A fault of the instruction that holds a thread, whose PC stands behind it. -/
def State.faultHeld (s : State) (t : Nat) (th : Thread) (e : FaultInfo) : State :=
  ((s.setThread t { th with hold := .none, pc := th.pc - 12#56 }).logFault t e).deliverFault t (th.lastFault (th.pc - 12#56) e)

/-- The check of a store on an L1 miss passes, and it enters the PSQ; a refusal is a precise fault (R50, R186). -/
def State.storeChecked (s : State) (t : Nat) : State :=
  match s.thread t with
  | none => s
  | some th =>
    match th.hold with
    | .storeCheck st =>
      let part := s.partOf t
      let p := s.part part
      let asid := s.asidOf t
      match s.drainAttrs (coreOf t) p asid st.acc.addr with
      | none => s
      | some pte =>
        match s.permit part (coreOf t) .store asid st.acc.addr pte with
        | some info => s.faultHeld t th (addrFault Code.access st.acc.issued info)
        | none =>
          let may := s.mayMerge t th
          if th.needsEntry st.acc may && !s.psqRoom t th then s
          else s.setThread t { th.enqueue (s.clock t) st.acc st.data may with hold := .none }
    | _ => s

/-- STORE_CHECK_PASS (R186). -/
def execStoreCheckPass (thread : Nat) (s : State) : Host.Outcome State Fault Refusal := .next (s.storeChecked thread)

/-! ## Draining (R89, R90) -/

/-- An entry of a thread. -/
def Thread.entry? (th : Thread) (seq : Nat) : Option PsqEntry := th.psq.find? fun e => e.seq == seq

/-- An entry drains on its own where the conditions of R89 let it. -/
def State.drainOne (s : State) (t seq : Nat) : State :=
  match s.thread t with
  | none => s
  | some th =>
    match th.entry? seq with
    | none => s
    | some e =>
      if s.drainMay t th e then s.drainEntry t e else s

/-- PSQ_ENTRY_DRAIN (R89). -/
def execPsqEntryDrain (thread seq : Nat) (s : State) : Host.Outcome State Fault Refusal :=
  .next (s.drainOne thread seq)

/-- An entry has reached the drain age of its partition (R89 condition 3). -/
def State.drainDue (s : State) (t : Nat) (e : PsqEntry) : Bool :=
  !e.tent && decide ((s.part (s.partOf t)).drainAge ≤ s.clock t - e.born)

/-- DRAIN_AGE_EXPIRY (R89): conditions 1 and 2 bind this drain too. -/
def execDrainAgeExpiry (thread seq : Nat) (s : State) : Host.Outcome State Fault Refusal :=
  match (s.thread thread).bind fun th => th.entry? seq with
  | some e => .next (if s.drainDue thread e then s.drainOne thread seq else s)
  | none => .next s

/-- The head of a core's write-through queue leaves for its home, with its budget and room there (R90, R268, R280). -/
def State.sendHead (s : State) (core : Nat) : State :=
  match (s.core core).wtq with
  | [] => s
  | e :: _ =>
    if !s.queueAffords core e then s.awaitBudget (.writeThroughPerform core)
    else
      let x := s.reachHome core (.head core) (s.part (s.partOf e.thread)) e.asid (16 * e.block) e.pte
        (blockInLine e.block e.data e.mask).2 0 (some core)
      if x.1 then x.2.performHead core else x.2

/-- WRITE_THROUGH_PERFORM (R90). -/
def execWriteThroughPerform (core : Nat) (s : State) : Host.Outcome State Fault Refusal := .next (s.sendHead core)

/-! ## Merges (R285) -/

/-- The partition that holds an isle: the resident one. -/
def State.partOfIsle (s : State) (isle : Nat) : Nat :=
  ((s.parts.find? fun (p : Nat × Partition) => p.2.resident && p.2.holdsIsle isle).map (·.1)).getD 0

/-- MERGE_DEMAND (R285): the home demands a merge of a line that the core holds privatised. -/
def execMergeDemand (core line : Nat) (s : State) : Host.Outcome State Fault Refusal :=
  let asid := line / 2 ^ 50
  let l := line % 2 ^ 50
  match (s.core core).line? asid l with
  | none => .next s
  | some x =>
    let d : Demand := { core := core, asid := asid, line := l }
    if x.grant = 0#64 ∨ s.mem.demands.contains d then .next s
    else .next (s.setMem { s.mem with demands := s.mem.demands ++ [d] })

/-- The demand for a merge has been met. -/
def State.dropDemand (s : State) (d : Demand) : State :=
  s.setMem { s.mem with demands := s.mem.demands.filter fun x => x != d }

/-- MERGE_RECEIVE (R285): the home applies the bytes that it demanded, once its reserve has an entry (R280). Where the holder
has merged them as it dropped the line, only what waits on the line is told. -/
def execMergeReceive (core line : Nat) (s : State) : Host.Outcome State Fault Refusal :=
  let asid := line / 2 ^ 50
  let l := line % 2 ^ 50
  let part := s.partOfIsle (isleOf core)
  let d : Demand := { core := core, asid := asid, line := l }
  if !s.mem.demands.contains d then .next s
  else if s.grantOf core asid l != 0#64 then
    if s.reserveRoom part l then .next ((s.mergeLine part core asid l).dropDemand d) else .next s
  else
    .next (((s.told (s.part part) asid (64 * l) 0#64 fun _ => true).loseMarksOf asid l 1 fun t => coreOf t != core).dropDemand d)

/-! ## Mirror updates (R61 to R63) -/

/-- MIRROR_PROPAGATE (R61). -/
def execMirrorPropagate (update die : Nat) (s : State) : Host.Outcome State Fault Refusal :=
  .next (s.applyMirror update die)

/-- MIRROR_REPLICA_ACK (R63). -/
def execMirrorReplicaAck (update die : Nat) (s : State) : Host.Outcome State Fault Refusal :=
  .next (s.ackMirror update die)

/-! ## Walks (R49, R366) -/

/-- The leaf that a walk finds, whatever its physical address (R52, R65). -/
def State.walkLeaf (s : State) (w : Walk) : Option DWord :=
  ((s.part w.part).rootOf w.asid).bind fun r => walkFrom s.dramWord r w.va walkLevels

/-- A leaf enters the TLB of a front end, which holds 8,192 entries (R49). -/
def State.fillTlb (s : State) (w : Walk) (pte : DWord) (isle : Nat) : State :=
  let e : TlbEntry := { isle := isle, asid := w.asid, va := w.va, pte := pte }
  let here (x : TlbEntry) : Bool := x.isle == isle
  let mine := (s.mem.tlb.filter here).take 8191
  s.setMem { s.mem with tlb := e :: mine ++ s.mem.tlb.filter fun x => !here x }

/-- The front ends that a leaf reaches: that of the walk, or, for a Mirror page, those of the homes of its replicas
(R48, R49, R61). -/
def State.leafIsles (s : State) (w : Walk) (pte : DWord) : List Nat :=
  let p := s.part w.part
  if isMirror p pte then p.dies.map fun d => isleOf (p.replicaHome ((primaryForm p w.asid w.va).2 / 64) d) else [w.isle]

/-- A thread that waits for a walk. -/
def Thread.onWalk (th : Thread) (id : Nat) : Bool :=
  match th.hold with
  | .walking k _ _ => k == id
  | _ => false

/-- The threads that still wait for a walk. -/
def State.walkWaiters (s : State) (id : Nat) (w : Walk) : List Nat :=
  w.waiters.filter fun t => ((s.thread t).map fun th => th.onWalk id).getD false

/-- A walk of a front end lies in the page of another, whose leaf ends both (R49). -/
def Walk.samePage (w : Walk) (pte : DWord) (x : Walk) : Bool :=
  x.isle == w.isle && x.asid == w.asid && x.va / pageBytes (ptePs pte) == w.va / pageBytes (ptePs pte)

/-- TRANSLATION_WALK_END with a leaf: the accesses that wait for the page replay, each in its own turn. -/
def State.walkFound (s : State) (w : Walk) (pte : DWord) : State :=
  let ended := s.mem.walks.filter fun x => w.samePage pte x.2
  let ts := ended.flatMap fun x => s.walkWaiters x.1 x.2
  let s := (s.leafIsles w pte).foldl (fun (s : State) i => s.fillTlb w pte i) s
  let s := s.setMem { s.mem with walks := s.mem.walks.filter fun x => !w.samePage pte x.2 }
  let s := ts.foldl (fun (s : State) t => s.modThread t fun th => { th with hold := .replay }) s
  s.later (ts.map fun t => .group [t])

/-- TRANSLATION_WALK_END without a leaf: the threads are PARKED (R366). -/
def State.walkMissed (s : State) (id : Nat) (w : Walk) : State :=
  let ts := s.walkWaiters id w
  let s := s.setMem { s.mem with walks := Tab.erase s.mem.walks id }
  let park (th : Thread) : Thread :=
    match th.hold with
    | .walking _ va fetch => { th with hold := .parked va fetch }
    | _ => th
  ts.foldl (fun (s : State) t => s.modThread t park) s

/-- TRANSLATION_WALK_END (R49, R52, R366). -/
def execTranslationWalkEnd (walk : Nat) (s : State) : Host.Outcome State Fault Refusal :=
  match Tab.get? s.mem.walks walk with
  | none => .next s
  | some w =>
    match s.walkLeaf w with
    | none => .next (s.walkMissed walk w)
    | some pte =>
      if physExists s.caps pte w.va then .next (s.walkFound w pte) else .fault (.noSuchMemory (physOf pte w.va))

/-- The fault of a declined mapping: ACCESS with FINFO 6 (R366). -/
def State.declined (s : State) (t : Nat) (th : Thread) (va : Nat) (fetch : Bool) : State :=
  let s := s.setThread t { th with hold := .none }
  if fetch then s.deliverFault t (fetchFault th.pc (infoFault Code.access 6))
  else s.deliverFault t (th.lastFault th.pc (addrFault Code.access (BitVec.ofNat 64 va) 6))

/-- The first drained entry of a thread that waits for a leaf is refused, where the runtime declines (R366, R390; log 16). -/
def State.declineEntry (s : State) (t : Nat) (th : Thread) : Option State :=
  (th.psq.find? fun e => !e.tent && !s.entryMapped t e).map fun e =>
    (s.setThread t { th with psq := th.psq.filter fun x => x.seq != e.seq }).refuseEntry t (16 * e.block) 2 none

/-- The first page that a request of a thread waits for is declined: its lines complete with ACCESS_DENIED (R366). -/
def State.declinePage (s : State) (t : Nat) : State :=
  match s.reqs.find? fun r => r.2.thread == t && !r.2.handed.isEmpty with
  | none => s
  | some (id, _) => s.modReq id fun r => { r with handed := r.handed.drop 1, declined := r.declined ++ r.handed.take 1 }

/-- PARKED_ACCESS_RESOLVED (R366): the access replays from its check, or raises ACCESS. For a thread that is not parked, what
has been handed over for it, by its drained entries or its requests, is declined in order. -/
def execParkedAccessResolved (thread : Nat) (installed : Bool) (s : State) : Host.Outcome State Fault Refusal :=
  match s.thread thread with
  | none => .next (if installed then s else s.declinePage thread)
  | some th =>
    match th.hold with
    | .parked va fetch =>
      if installed then .next ((s.setThread thread { th with hold := .replay }).later [.group [thread]])
      else .next (s.declined thread th va fetch)
    | _ =>
      if installed then .next s else .next ((s.declineEntry thread th).getD (s.declinePage thread))

/-- UNSCRUBBED_CLEAR (R65): the lines that nothing has written become zero and lose their poison, and the page's bit
clears. -/
def State.clearPage (s : State) (page : Nat) : State :=
  match s.mem.unscrubbed.find? fun u => u.page == page && u.started with
  | none => s
  | some u =>
    let gone (line : Nat) : Bool := line / 1024 == page && !u.lines.contains line
    s.setMem { s.mem with
      dram := s.mem.dram.filter fun (c : Host.Cell) => !gone (c.1 / 64)
      domains := s.mem.domains.filter fun (c : Nat × BitVec 512) => !gone c.1
      poison := s.mem.poison.filter fun l => !gone l
      unscrubbed := s.mem.unscrubbed.filter fun u => u.page != page }

/-- UNSCRUBBED_CLEAR (R65). -/
def execUnscrubbedClear (page : Nat) (s : State) : Host.Outcome State Fault Refusal := .next (s.clearPage page)

/-! ## Stalling instructions (R21) -/

/-- A byte of a line lies in a range of addresses. -/
def lineIn (line base len : Nat) : Bool := decide (64 * line < base + len ∧ base < 64 * line + 64)

/-- A line of an instruction cache, which stands under its primary form, lies in a range of addresses, under its own address
or one of a registered secondary page (R47, R58). -/
def Partition.codeIn (p : Partition) (asid line base len : Nat) : Bool :=
  lineIn line base len || p.pm.remap.any fun r =>
    r.pasid == asid && decide (r.ppage ≤ 64 * line ∧ 64 * line < r.ppage + r.size)
      && lineIn ((r.page + (64 * line - r.ppage)) / 64) base len

/-- CINV.i and CINV.if drop the instruction lines of a range in every core of the partition; `.if` empties every
loop buffer (R190, R325). -/
def State.dropCode (s : State) (part base len : Nat) (loops : Bool) : State :=
  let p := s.part part
  let cores := p.cores
  let keep (c : Core) : Core :=
    { c with icache := c.icache.filter fun (l : ICLine) => !p.codeIn l.asid l.line base len,
             loop := if loops then none else c.loop }
  let s := { s with cores := s.cores.map fun (p : Nat × Core) => if cores.contains p.1 then (p.1, keep p.2) else p }
  if loops then
    let out (th : Thread) : Thread := { th with marks := { th.marks with inRun := false } }
    { s with threads := s.threads.map fun (p : Nat × Thread) => if cores.contains (coreOf p.1) then (p.1, out p.2) else p }
  else s

/-- CINV completes (R190): `.i` and `.if` first make the thread's own entries visible at DEVICE. -/
def State.finishCinv (s : State) (t target base len : Nat) : State :=
  if target = 0 then
    (s.dropL1 (coreOf t) fun l => l.asid == s.asidOf t && lineIn l.line base len).modThread t fun th =>
      { th with hold := .none }
  else if !s.inspectable t .none 4 then s
  else
    let die := dieOf (coreOf t)
    let s := s.forceOut t 4
    if !s.mirrorClear (fun u => u.writer == t) 4 die then s
    else (s.dropCode (s.partOf t) base len (target == 2)).modThread t fun th => { th with hold := .none }

/-- The value of an STF's source (R188). -/
def stfValue (source : DWord) (wide : Bool) : Val := if wide then fp64.decode source.toNat else fp32.decode (lo32 source).toNat

/-- The 16-byte blocks that an element's bits lie in. -/
def elementBlocks (e : Entry) (n addr : Nat) : List Nat :=
  dedup [addr / 16 + elementBit e n / 128, addr / 16 + (elementBit e n + e.width - 1) / 128]

/-- The payload of the frame that carries an STF to a peer, which performs it as one update of the line (R188, R291): source,
image, code 19, size, GEOM, element, width and FRM. DESIGN CHOICE: log 20. -/
def stfPayload (image : DWord) (geom : BitVec 2) (index : Nat) (source : DWord) (wide : Bool) (frm : Word) : List Byte :=
  bytesOf (source.toNat + 2 ^ 64 * image.toNat + 2 ^ 128 * 19 + 2 ^ 136 * 64 + 2 ^ 144 * geom.toNat + 2 ^ 152 * (index % 2 ^ 16)
    + 2 ^ 168 * bit wide + 2 ^ 176 * (frm.toNat % 256)) 32

/-- The frame of a thread's STF has been sent. -/
def State.stfSent (s : State) (t : Nat) : Bool := s.net.conns.any fun c => c.2.sent.any fun f => f.use == .stf t

/-- STF performed on a line at its point of coherence (R188). -/
def State.stfNow (s : State) (t : Nat) (acc : Access) (pte : DWord) (image : DWord) (geom : BitVec 2) (index : Nat)
    (v : Val) : State :=
  let part := s.partOf t
  let p := s.part part
  let asid := s.asidOf t
  let frm := ((s.thread t).map (·.frm)).getD 0#32
  let (a, l) := primaryForm p asid acc.addr
  let s := s.gatherLine part asid acc.addr pte none
  let s := if cacheable p asid acc.addr pte then s.tagL2 part asid (acc.addr / 64) (s.vdevOf t) pte p.primaryDie else s
  let r := elementStore (entryOf image) geom.toNat index frm v (s.lineFor pte (dramKey pte acc.addr)).toNat
  let s := s.performGlb part asid acc.addr pte (BitVec.ofNat 512 r.val) (2 ^ 64 - 1) none t
  let s := if uncached pte then s
    else s.modCore (coreOf t) fun c => c.patchL1 a (l / 64) (BitVec.ofNat 512 r.val) (2 ^ 64 - 1) false
  s.modThread t fun th => { th.raise r.flags with hold := .none }

/-- An STF on a fabric window is sent to the peer that performs it; the thread goes on when the reply comes (R188, R291). -/
def State.sendStf (s : State) (t : Nat) (th : Thread) (acc : Access) (pte : DWord) (image : DWord) (geom : BitVec 2)
    (index : Nat) (source : DWord) (wide : Bool) : State :=
  let part := s.partOf t
  let pa := physOf pte acc.addr
  if s.stfSent t then s
  else if s.windowFailed part pte acc.addr then s.faultHeld t th (addrFault Code.access acc.issued 8)
  else
    (s.payFor t (s.accessCost t acc (some pte) false)).sendFrame part (s.vdevOf t) (pa / 2 ^ 36) (pa % 2 ^ 36) 2 0 0
      (stfPayload image geom index source wide th.frm) (.stf t)

/-- An STF whose blocks have drained performed, or refused (R188, R385, R394). -/
def State.stfPlaced (s : State) (t : Nat) (th : Thread) (acc : Access) (pte : DWord) (image : DWord) (geom : BitVec 2)
    (index : Nat) (source : DWord) (wide : Bool) : State :=
  if pteTier pte = 2 then s.sendStf t th acc pte image geom index source wide
  else if s.accessAbsent t acc (some pte) false then s.faultHeld t th (addrFault Code.access acc.issued 5)
  else if s.linePoisoned (dramKey pte acc.addr) then s.faultHeld t th (addrFault Code.poison acc.issued)
  else
    let p := s.part (s.partOf t)
    let x := s.reachHome (coreOf t) (.stf t) p (s.asidOf t) acc.addr pte (2 ^ 64 - 1) p.primaryDie none
    if !x.1 then x.2
    else (x.2.payFor t (x.2.accessCost t acc (some pte) false)).stfNow t acc pte image geom index (stfValue source wide)

/-- STF completes, once the entries of its blocks have drained (R89, R188). -/
def State.finishStf (s : State) (t : Nat) (acc : Access) (image : DWord) (geom : BitVec 2) (index : Nat)
    (source : DWord) (wide : Bool) : State :=
  match s.thread t, s.accessAttrs t acc with
  | some th, some (some pte) =>
    let blocks := elementBlocks (entryOf image) index acc.addr
    let earlier := th.longs.any fun o => match o.kind with
      | .insp _ _ => true
      | .load a _ _ _ _ _ _ => a.meets acc
      | .atomic a _ _ _ _ => a.meets acc
      | _ => false
    if earlier || s.accessLocked t acc || s.stfSent t then s
    else
      let s := s.drainBlocks t th acc blocks
      if !s.blocksClear t acc blocks then s
      else if !s.affordsFor t (s.accessCost t acc (some pte) false) then s.awaitBudget (.stallingInstructionComplete t)
      else
        match s.thread t with
        | none => s
        | some th => s.stfPlaced t th acc pte image geom index source wide
  | _, _ => s

/-- BARINIT completes: the object is written, and the thread is READY (R202). -/
def State.finishBarinit (s : State) (t : Nat) (acc : Access) (n : Word) : State :=
  (s.barinitDone t acc n).modThread t fun th => { th with hold := .none }

/-- STALLING_INSTRUCTION_COMPLETE (R21). -/
def State.finishStalling (s : State) (t : Nat) : State :=
  match s.thread t with
  | none => s
  | some th =>
    match th.hold with
    | .finishing (.barinit acc n) => s.finishBarinit t acc n
    | .finishing (.cinv target base len) => s.finishCinv t target base len
    | .finishing .elend => s.finishElend t
    | .finishing (.inspecting id) => s.completeInsp id
    | .finishing (.stf acc image geom index source wide) => s.finishStf t acc image geom index source wide
    | _ => s

/-- STALLING_INSTRUCTION_COMPLETE (R21). -/
def execStallingInstructionComplete (thread : Nat) (s : State) : Host.Outcome State Fault Refusal :=
  .next (s.finishStalling thread)

end Sys2Proof.Machine
end

