-- ==== Sys2Proof/Machine/Async.lean ====
section
/-! DEFINITION. Copies, tiles, counters and fabric transfers, OP 90 to 95 (R210 to R224). An accepted request works
on in COPY_BLOCK and completes in REQUEST_COMPLETE. -/

namespace Sys2Proof.Machine

/-! ## Copies (R217) -/

/-- The space that a two-bit space field names: its code less one. -/
def endSpace (c : BitVec 2) : Space :=
  match c with
  | 0#2 => .scr
  | 1#2 => .clu
  | 2#2 => .lag
  | _ => .glb

/-- The address of an end: a pair for `.glb`, else the even register (R210). -/
def Thread.endAddr (th : Thread) (sp : Space) (r : Reg) : DWord :=
  if sp = .glb then th.pair r.toNat else (th.reg r.toNat).setWidth 64

/-- A length that R217 accepts. -/
def lengthOk (n : Nat) : Bool := decide (n % 16 = 0 ∧ 16 ≤ n ∧ n ≤ 2 ^ 30)

/-- The check of one end's address (R217): its space's range, then 16-byte alignment. -/
def State.endFault (s : State) (core gang part : Nat) (sp : Space) (ea : DWord) : Option FaultInfo :=
  let inside := if sp = .glb then decide (ea.toNat < 2 ^ 56) else (s.spot core gang part sp ea.toNat 1).isSome
  if !inside then some (addrFault Code.bounds ea)
  else if ea.toNat % 16 ≠ 0 then some (addrFault Code.misaligned ea)
  else none

/-- The whole range of an on-chip end lies inside its space (R217). -/
def State.rangeFault (s : State) (core gang part : Nat) (sp : Space) (ea : DWord) (len : Nat) : Option FaultInfo :=
  if sp = .glb || (s.spot core gang part sp ea.toNat len).isSome then none else some (addrFault Code.bounds ea)

/-- The checks of a copy's ends and length (R217, R220). -/
def State.copyFault (s : State) (core gang part : Nat) (ssp dsp : Space) (src dst : DWord) (len : Nat) :
    Option FaultInfo :=
  (s.endFault core gang part ssp src).orElse fun _ =>
    (s.endFault core gang part dsp dst).orElse fun _ =>
      if !lengthOk len then some (plainFault Code.bounds)
      else (s.rangeFault core gang part ssp src len).orElse fun _ => s.rangeFault core gang part dsp dst len

/-- A copy of an instruction. -/
def copyJob (ssp dsp : Space) (src dst : DWord) (len : Nat) : CopyJob :=
  { src := src, dst := dst, ssp := ssp, dsp := dsp, len := len }

/-- COPY (R217). -/
def execCopy (h : Hdr) (x : CopyArgs) (s : State) : Host.Outcome State Fault Refusal :=
  perThread (.copy h x) (fun pc s t =>
    withSink s t x.kind x.d x.sc fun th k =>
      let ssp := endSpace x.ss
      let dsp := endSpace x.ds
      let src := th.endAddr ssp x.a
      let dst := th.endAddr dsp x.b
      match s.copyFault (coreOf t) th.gang (s.partOf t) ssp dsp src dst x.len.toNat with
      | some e => .fault e
      | none => s.engage t pc 0x90 k x.target (.copy (copyJob ssp dsp src dst x.len.toNat))) s

/-- KICK (R218): the list's range and alignment, the count; the list is read after acceptance. -/
def execKick (h : Hdr) (x : KickArgs) (s : State) : Host.Outcome State Fault Refusal :=
  perThread (.kick h x) (fun pc s t =>
    withSink s t x.kind x.d x.sc fun th k =>
      let ea : DWord := (th.reg x.a.toNat).setWidth 64
      let n := (th.b32 x.n).toNat
      let at_ (size : Nat) := s.spot (coreOf t) th.gang (s.partOf t) .scr ea.toNat size
      if (at_ 1).isNone then .fault (addrFault Code.bounds ea)
      else if ea.toNat % 32 ≠ 0 then .fault (addrFault Code.misaligned ea)
      else if n = 0 ∨ 1024 < n then .fault (plainFault Code.bounds)
      else if (at_ (32 * n)).isNone then .fault (addrFault Code.bounds ea)
      else s.engage t pc 0x91 k x.target (.kick ea.toNat n [])) s

/-! ## Tiles (R221, R224) -/

/-- Some gang of a job stands on a core. -/
def State.jobOnCore (s : State) (core job : Nat) : Bool :=
  s.gangs.any fun (p : Nat × Gang) => coreOf p.1 == core && p.2.job == job

/-- TILEH (R221): the descriptor is read as a load of the thread reads it. -/
def execTileh (h : Hdr) (x : TilehArgs) (s : State) : Host.Outcome State Fault Refusal :=
  perThread (.tileh h x) (fun pc s t =>
    match s.thread t, s.gangOf t with
    | some th, some g =>
      withAccess s t pc .load .scr ((th.reg x.a.toNat).setWidth 64) 64 fun acc _ =>
        State.setTile s t acc (coreOf t) x.slot.toNat g.job
    | _, _ => .ok s) s
where
  /-- The descriptor's check, that of the slot's job, and the slot's new contents. -/
  State.setTile (s : State) (t : Nat) (acc : Access) (core slot job : Nat) : LaneRes :=
    let r := s.loadNow t acc none false
    let d := BitVec.ofNat 512 r.value
    let foreign := match Tab.get? (s.core core).tiles slot with
      | some y => y.job != job && s.jobOnCore core y.job
      | none => false
    match r.poison, tileOffence d with
    | some n, _ => .fault (addrFault Code.poison acc.issued n)
    | none, some field => .fault (shapeFault field)
    | none, none =>
      if foreign then .fault (plainFault Code.handleInvalid) else
      let y : TileSlot := { desc := d, job := job }
      .ok (r.after.modCore core fun c => { c with tiles := Tab.set c.tiles slot y })

/-- Lines of an image row (R224). -/
def imageLines (x : Tile) (per : Nat) : Nat := if per = 0 then 0 else (x.pcols + per - 1) / per

/-- TILEF (R224): the set, the slot, the entry, the stride, the source and the room in every member. -/
def execTilef (h : Hdr) (x : TilefArgs) (s : State) : Host.Outcome State Fault Refusal :=
  perThread (.tilef h x) (fun pc s t =>
    withSink s t x.kind x.d x.sc fun th k =>
      let a := (th.reg x.a.toNat).toNat
      let off := (th.reg x.b.toNat).toNat
      let job := ((s.gangOf t).map (·.job)).getD 0
      match s.coopSet t (natBits a 8 3), s.tileOf (coreOf t) job (natBits a 0 6) with
      | none, _ => .fault (shapeFault 0)
      | some _, none => .fault (plainFault Code.handleInvalid)
      | some set, some d =>
        let tile := Tile.of d
        if tile.space = 1 then .fault (addrFault Code.bounds (BitVec.ofNat 64 tile.base))
        else
          withTile s t pc tile fun image geom =>
            let per := perLine image geom
            if !tile.strideOk image geom then .fault (shapeFault 0)
            else if !(entryOf image).v || per == 0 then .fault (plainFault Code.formatEntry)
            else if s.gangScratch th.gang < off + 64 * imageLines tile per * tile.prows then
              .fault (addrFault Code.bounds (BitVec.ofNat 64 off))
            else
              s.engage t pc 0x93 k x.target
                (.tilef d image (BitVec.ofNat 2 geom) (set.map fun m => (coreOf m.2, m.2)) off)) s

/-! ## CWAIT (R219) -/

/-- The sink of a request names the counter at a primary form (R213). -/
def State.sinkCounts (s : State) (r : Request) (c : Nat × Nat) (k : SinkRef) : Bool :=
  k.kind == .counter && (k.counter.map fun v => primaryForm (s.part r.part) r.asid v) == some c

/-- The wait records of a CWAIT (R270): jobs whose sink names the counter, and the gangs of requests whose sink does. -/
def State.cwaitSigs (s : State) (part asid va : Nat) : List (Nat × Nat) :=
  let c := primaryForm (s.part part) asid va
  onceEach ((s.jobs.filter fun (p : Nat × Job) =>
      cardBits p.2.card 369 2 == 2 && p.2.part == part && p.2.phase != .retired
        && primaryForm (s.part part) (s.asidOfJob p.2) (16 * cardBits p.2.card 458 52) == c).map (fun p => (3, p.1))
    ++ (s.reqs.filter fun (p : Nat × Request) => p.2.part == part && p.2.sinks.any (s.sinkCounts p.2 c)).map fun p =>
      (1, p.2.gang))

/-- CWAIT tests its counter at the home, and waits while it is below the target (R219); its request waits for room there
(R280) and for its budget (R268). -/
def State.cwait (s : State) (t : Nat) (pc : Addr56) (d : Reg) (acc : Access) (pte : DWord) (target : DWord) : LaneRes :=
  let part := s.partOf t
  let p := s.part part
  if !s.sliceRoom p (s.asidOf t) acc.addr pte (lineMask (acc.addr % 64) 8) p.primaryDie none then s.waitLane t pc
  else
    s.ifAffords t pc (s.accessCost t acc (some pte) false) fun s =>
      let r := s.homeLine part (s.asidOf t) acc.addr pte (lineMask (acc.addr % 64) 8) p.primaryDie none
      if r.poison then .fault (addrFault Code.poison acc.issued)
      else
        let v : DWord := BitVec.ofNat 64 (natBits r.data.toNat (8 * (acc.addr % 64)) 64)
        let s := r.after.modThread t fun th => { th with pc := pc }
        if target.toNat ≤ v.toNat then .ok (s.endCwait t d v)
        else
          let s := s.modThread t fun th => { th with hold := .wait (.cwait acc.addr target d) }
          .ok ((s.dropWaits t).addWaits t 2 4 acc.addr (s.cwaitSigs part (s.asidOf t) acc.addr))

/-- CWAIT (R219). -/
def execCwait (h : Hdr) (x : Pair3Args) (s : State) : Host.Outcome State Fault Refusal :=
  perThread (.cwait h x) (fun pc s t =>
    match s.thread t with
    | none => .ok s
    | some th =>
      let target := th.pair x.b.toNat
      withAccess s t pc .load .glb (th.pair x.a.toNat) 8 fun acc pte =>
        match pte with
        | none => .ok s
        | some pte => s.cwait t pc x.d acc pte target) s

/-! ## Fabric transfers (R220) -/

/-- The checks and the acceptance of FABX (R220). -/
def State.fabx (s : State) (t : Nat) (pc : Addr56) (x : FabxArgs) (red : Bool) : LaneRes :=
  withSink s t x.kind x.d x.sc fun th k =>
    let ssp := endSpace x.ss
    let src := th.endAddr ssp x.a
    let dst := th.pair x.b.toNat
    match s.copyFault (coreOf t) th.gang (s.partOf t) ssp .glb src dst x.len.toNat with
    | some e => .fault e
    | none => s.engage t pc 0x95 k x.target (.fabx (copyJob ssp .glb src dst x.len.toNat) red none 0)

/-- FABX.wr (R220). -/
def execFabxWr (h : Hdr) (x : FabxArgs) (s : State) : Host.Outcome State Fault Refusal :=
  perThread (.fabxWr h x) (fun pc s t => s.fabx t pc x false) s

/-- FABX.red (R220). -/
def execFabxRed (h : Hdr) (x : FabxArgs) (s : State) : Host.Outcome State Fault Refusal :=
  perThread (.fabxRed h x) (fun pc s t => s.fabx t pc x true) s

end Sys2Proof.Machine
end

