-- ==== Sys2Proof/Machine/Matrix.lean ====
section
/-! DEFINITION. The matrix engine, OP A0 to A4 (R225 to R230): acceptance of MLOADB and MMA, their work by K blocks,
and the accumulator instructions. -/

namespace Sys2Proof.Machine

/-! ## Fields of the parameter block (Table 11-6) -/

def MmaJob.bits (m : MmaJob) (lo len : Nat) : Nat := natBits m.block.toNat lo len
def MmaJob.mRows (m : MmaJob) : Nat := m.bits 0 12
def MmaJob.nCols (m : MmaJob) : Nat := 32 * (m.bits 12 5 + 1)
def MmaJob.kLen (m : MmaJob) : Nat := 32 * (m.bits 17 7 + 1)
def MmaJob.setCode (m : MmaJob) : Nat := m.bits 24 3
def MmaJob.acc (m : MmaJob) : Bool := bitOf m.block 27
def MmaJob.cplx (m : MmaJob) : Bool := bitOf m.block 28
def MmaJob.sat (m : MmaJob) : Bool := bitOf m.block 29
def MmaJob.int32 (m : MmaJob) : Bool := bitOf m.block 30
def MmaJob.slot (m : MmaJob) : Nat := m.bits 37 6
def MmaJob.mb (m : MmaJob) : Nat := m.bits 43 6
def MmaJob.arow (m : MmaJob) : Nat := m.bits 64 16
def MmaJob.abase (m : MmaJob) : Nat := m.bits 80 11

/-- Macros that K rows occupy. -/
def macrosOf (k : Nat) : Nat := (k + 63) / 64

/-- The reserved ranges of the block: lowest bit and length (Table 11-6). -/
def blockReserved : List (Nat × Nat) := [(49, 15), (91, 5), (116, 12), (133, 27), (192, 320)]

/-! ## Records of macros (R225) -/

/-- What an MLOADB records for macro `i` of its range on a member. -/
structure MacroRecord where
  image  : DWord
  rows   : Nat
  desc   : BitVec 512
  k0     : Nat
  c0     : Nat
  member : Nat
  row0   : Nat
  deriving DecidableEq, Repr

/-- Rows of macro `i` of a range of K rows. -/
def rowsOfMacro (k i : Nat) : Nat := min 64 (k - 64 * i)

/-- The record that an accepted MLOADB leaves for a macro of a core, where it loads it. -/
def ReqBody.recordFor (b : ReqBody) (core m : Nat) : Option MacroRecord :=
  match b with
  | .mloadb desc image _ cores mb k0 c0 k =>
    match cores.find? fun c => c.2 == core with
    | none => none
    | some (j, _) =>
      if mb ≤ m ∧ m < mb + macrosOf k then
        some { image := image, rows := rowsOfMacro k (m - mb), desc := desc, k0 := k0, c0 := c0, member := j,
               row0 := 64 * (m - mb) }
      else none
  | _ => none

/-- The record of a macro as the requests accepted so far leave it (R225). -/
def State.macroRecord (s : State) (core m : Nat) : Option MacroRecord :=
  match s.reqs.reverse.findSome? fun p => if p.2.saved then none else p.2.body.recordFor core m with
  | some r => some r
  | none => (Tab.get? (s.core core).macros m).map fun x =>
      { image := x.image, rows := x.rows, desc := x.desc, k0 := x.k0, c0 := x.c0, member := x.member, row0 := x.row0 }

/-! ## MLOADB (R225) -/

/-- A matrix operand's entry is refused (R70, R225): V = 0, or W > 16. -/
def operandRefused (e : Entry) : Bool := !e.v || decide (16 < e.width)

/-- The bring-up limit on matrix operands (R317): BF16 alone. -/
def State.bringLimit (s : State) (t : Nat) (image : DWord) : Bool :=
  (s.part (s.partOf t)).bring && image != fixedImage 1

/-- MLOADB (R225), its checks in the order of Table 24-6 (R371). -/
def execMloadb (h : Hdr) (x : MloadbArgs) (s : State) : Host.Outcome State Fault Refusal :=
  perThread (.mloadb h x) (fun pc s t =>
    withSink s t x.kind x.d x.sc fun th sink =>
      let a := (th.reg x.a.toNat).toNat
      let b := (th.reg x.b.toNat).toNat
      let k := x.k.toNat
      let mb := natBits a 6 6
      let k0 := natBits b 0 16
      let c0 := natBits b 16 16
      let job := ((s.gangOf t).map (·.job)).getD 0
      match s.coopSet t (natBits a 12 3), s.tileOf (coreOf t) job (natBits a 0 6) with
      | none, _ => .fault (shapeFault 0)
      | some _, none => .fault (plainFault Code.handleInvalid)
      | some set, some d =>
        let tile := Tile.of d
        if natBits a 15 17 ≠ 0 ∨ k % 32 ≠ 0 ∨ k < 32 ∨ 4096 < k then .fault (shapeFault 0)
        else if 64 < mb + macrosOf k ∨ tile.prows < k0 + k ∨ tile.pcols < c0 + 32 * 2 ^ natBits a 12 3 then
          .fault (shapeFault 0)
        else
          withTile s t pc tile fun image geom =>
            let e := entryOf image
            if !tile.strideOk image geom then .fault (shapeFault 0)
            else if operandRefused e || e.blk == 1 then .fault (plainFault Code.formatEntry)
            else if s.bringLimit t image then .fault (infoFault Code.absentUnit 8)
            else
              s.engage t pc 0xA1 sink x.target
                (.mloadb d image (BitVec.ofNat 2 geom) (set.map fun m => (m.1, coreOf m.2)) mb k0 c0 k)) s

/-! ## MMA (R226, R227) -/

/-- Step 1 of R227: of the fields that break their own limits the one with the lowest bit number is named (R361). -/
def MmaJob.shape (m : MmaJob) (inBand : Bool) : Option Nat :=
  if m.mRows = 0 ∨ 2048 < m.mRows then some 0
  else
  match blockReserved.find? fun r => m.bits r.1 r.2 != 0 with
  | some r => some r.1
  | none =>
    if !inBand || decide (32 * 2 ^ m.setCode < m.nCols) || decide (2048 < m.abase + m.mRows)
      || (m.int32 && m.cplx) then some 0
    else none

/-- The A-writer's handle breaks R197. -/
def State.writerBad (s : State) (t : Nat) (kind : Nat) (h : Word) : Bool :=
  if kind = 1 then s.badGang t h
  else if kind = 2 then !((s.part (s.partOf t)).holdsIsle (natBits h.toNat 13 4))
  else if kind = 3 then s.badHandle t h
  else false

/-- The B records of a member are there, with enough rows (R227 step 4). -/
def State.recordsOk (s : State) (m : MmaJob) (core : Nat) : Bool :=
  (List.range (macrosOf m.kLen)).all fun i =>
    match s.macroRecord core (m.mb + i) with
    | none => false
    | some r => decide (rowsOfMacro m.kLen i ≤ r.rows)

/-- The B entries of a member (R228). -/
def State.recordImages (s : State) (m : MmaJob) : List DWord :=
  m.cores.flatMap fun c => (List.range (macrosOf m.kLen)).filterMap fun i =>
    (s.macroRecord c (m.mb + i)).map (·.image)

/-- Steps 4 to 8 of R227, once A's entry is latched. An FSINK that is not 4-byte aligned raises nothing: Table 11-6 says that
it is aligned, and neither R227 nor Table 24-6 names a result (DESIGN CHOICE: log 34). -/
def State.mmaFault (s : State) (t : Nat) (m : MmaJob) (tile : Tile) (members : Nat) : Option FaultInfo :=
  let e := entryOf m.image
  let bs := s.recordImages m
  if !tile.strideOk m.image m.geom.toNat || decide (64 < m.mb + macrosOf m.kLen)
      || decide (members < m.nCols / 32) || !(m.cores.all fun c => s.recordsOk m c) then some (shapeFault 0)
  else if operandRefused e || (m.int32 && !(e.isInt && bs.all fun b => (entryOf b).isInt)) then
    some (plainFault Code.formatEntry)
  else if e.blk = 1 ∧ !fitsGeometry m.geom.toNat e.width then some (plainFault Code.formatGeometry)
  else if m.cplx && !bitOf s.caps 1 then some (infoFault Code.absentUnit 1)
  else if (s.part (s.partOf t)).bring
      && (m.cplx || m.int32 || (m.image :: bs).any fun b => b != fixedImage 1) then some (infoFault Code.absentUnit 8)
  else if bitOf m.block 96 ∧ s.gangScratch (((s.thread t).map (·.gang)).getD 0) < m.bits 97 19 + 4 then
    some (addrFault Code.bounds (BitVec.ofNat 64 (m.bits 97 19)))
  else none

/-- Bit planes of an A entry (R229, R6, R73). -/
def Entry.planes (e : Entry) : Nat := if e.blk = 1 then e.fw else if e.isInt then e.width else e.fw + 1

/-- The A-writer inspection of an accepted MMA (R228), and the request's entry; rows and plane counts are noted. -/
def State.acceptMma (s : State) (t : Nat) (pc : Addr56) (k : SinkRef) (m : MmaJob) : State :=
  let h := m.bits 160 32
  let sc := m.bits 130 3
  let targets := match m.bits 128 2 with
    | 1 => s.gangThreads h
    | 2 => (((s.band (bandKey (BitVec.ofNat 32 h))).map (·.gangs)).getD []).flatMap s.gangThreads
    | 3 => [h]
    | _ => []
  let narrow := targets.foldl (fun n u =>
    Nat.max n (match s.thread u with
      | none => coreScope (coreOf t) (coreOf u)
      | some x => s.gangScope t x.gang)) 1
  let id := Tab.fresh s.reqs
  let (insp, s) := if m.bits 128 2 = 0 then (none, s)
    else
      let (q, s) := s.startInsp t (Nat.max sc narrow) none targets true (engine := true)
      (some q, s)
  let s := s.accept t pc 0xA0 k (.mma { m with insp := insp })
  let u : Unseen := { req := id, first := m.abase, rows := m.mRows, done := false, seen := [],
                      token := if k.kind = .token then some (t, k.reg.toNat) else none }
  let s := m.cores.foldl (fun (s : State) c => s.modCore c fun x => { x with unseen := u :: x.unseen }) s
  s.modPart (s.partOf t) fun (p : Partition) =>
    let n := m.mRows * (entryOf m.image).planes * m.cores.length
    { p with usage := { p.usage with planes := p.usage.planes + n } }

/-- MMA once its block is read (R227). -/
def State.mmaBlock (s : State) (t : Nat) (pc : Addr56) (k : SinkRef) (block : BitVec 512) : LaneRes :=
  let m : MmaJob := { block := block, tile := 0#512, image := 0#64, geom := 0#2, cores := [], insp := none, kb := 0, row := 0,
                      flags := 0, bad := none, free := [] }
  let job := ((s.gangOf t).map (·.job)).getD 0
  let set := s.coopSet t m.setCode
  match m.shape set.isSome with
  | some field => .fault (shapeFault field)
  | none =>
    match s.tileOf (coreOf t) job m.slot with
    | none => .fault (plainFault Code.handleInvalid)
    | some d =>
      let tile := Tile.of d
      if s.writerBad t (m.bits 128 2) (BitVec.ofNat 32 (m.bits 160 32)) then .fault (plainFault Code.handleInvalid)
      else if 6 ≤ m.bits 130 3 then .fault (plainFault Code.scopeReserved)
      else if tile.prows < m.arow + m.mRows ∨ tile.pcols < m.kLen then .fault (shapeFault 0)
      else
        withTile s t pc tile fun image geom =>
          let image := if bitOf block 31 then s.imageOf t (m.bits 32 5) else image
          let used := (set.getD []).filter fun x => decide (x.1 < m.nCols / 32)
          let m : MmaJob := { m with tile := d, image := image, geom := BitVec.ofNat 2 geom,
                                     cores := used.map fun x => coreOf x.2 }
          match s.mmaFault t m tile used.length with
          | some e => .fault e
          | none => .ok (s.acceptMma t pc k m)

/-- MMA (R226, R227): its block is read after the inspection that its MOD names. -/
def execMma (h : Hdr) (x : MmaArgs) (s : State) : Host.Outcome State Fault Refusal :=
  perThread (.mma h x) (fun pc s t =>
    withSink s t x.kind x.d x.sc fun th k =>
      withAccess s t pc .load .scr ((th.reg x.a.toNat).setWidth 64) 64 fun acc _ =>
        if !s.matrixRoom (coreOf t) || !s.inspectable t x.target k.scope.toNat then .stall
        else
          let s := s.inspectFor t x.target k.scope.toNat
          let b := s.bankOf (coreOf t) (s.partOf t) acc
          s.mmaBlock t pc k (BitVec.ofNat 512 (s.readBank b.1 b.2 64))) s

/-! ## Rows of a tile (R222) -/

/-- What an engine finds in a stretch of a tile's row: its lines, with poison and refusals; or it waits for one. -/
structure RowRead where
  lines   : List (Nat × Nat)
  poison  : Bool
  refused : Bool
  wait    : Bool
  after   : State
  deriving DecidableEq, Repr

/-- The lines of a row that hold the columns from `c0` on (R222). -/
def Tile.rowLines (x : Tile) (per row c0 n : Nat) : List Nat :=
  dedup ((List.range n).filterMap fun i => if row < x.rows ∧ c0 + i < x.cols then some ((c0 + i) / per) else none)

/-- The address of a line of a row. -/
def Tile.lineAddr (x : Tile) (row l : Nat) : Nat := x.base + row * x.stride + 64 * l

/-- What reading those lines is charged. -/
def State.rowCost (s : State) (r : Request) (x : Tile) (per row c0 n : Nat) : Budget :=
  (x.rowLines per row c0 n).foldl (fun b l => b.add (s.endCost r x.place (x.lineAddr row l))) Budget.none

/-- Those lines read; the row waits for a line that waits, and for a spent budget (R268, R366). -/
def State.tileLines (s : State) (id : Nat) (r : Request) (x : Tile) (per row c0 n : Nat) : RowRead :=
  if !s.mayPay r (s.rowCost r x per row c0 n) then
    { lines := [], poison := false, refused := false, wait := true, after := s }
  else
    (x.rowLines per row c0 n).foldl
      (fun (w : RowRead) l =>
        if w.wait then w
        else
          let e := w.after.engineRead id r x.place (x.lineAddr row l) 64
          { lines := w.lines ++ [(l, e.data)], poison := w.poison || e.poison, refused := w.refused || (!e.ok && !e.wait),
            wait := e.wait, after := e.after })
      { lines := [], poison := false, refused := false, wait := false, after := s }

/-- The line that holds a column. -/
def RowRead.line (w : RowRead) (l : Nat) : Nat := Tab.getD w.lines l 0

/-- The elements of a stretch of a row; none at the border, which computes nothing (R82, R222). -/
def RowRead.elems (w : RowRead) (x : Tile) (e : Entry) (per row c0 n : Nat) : List (Option Val) :=
  (List.range n).map fun i =>
    if row < x.rows ∧ c0 + i < x.cols then some (elementValue e ((c0 + i) % per) (w.line ((c0 + i) / per))) else none

/-! ## The order of matrix requests (R225, R229) -/

/-- Cores and macros that a matrix request uses. -/
def ReqBody.macroRange (b : ReqBody) (core : Nat) : Option (Nat × Nat) :=
  match b with
  | .mloadb _ _ _ cores mb _ _ k => if cores.any fun c => c.2 == core then some (mb, macrosOf k) else none
  | .mma m => if m.cores.contains core then some (m.mb, macrosOf m.kLen) else none
  | _ => none

/-- Accumulator rows that a matrix request uses on a core. -/
def ReqBody.rowRange (b : ReqBody) (core : Nat) : Option (Nat × Nat) :=
  match b with
  | .mma m => if m.cores.contains core then some (m.abase, m.mRows) else none
  | _ => none

/-- Two ranges meet. -/
def rangesMeet (a b : Option (Nat × Nat)) : Bool :=
  match a, b with
  | some (x, n), some (y, k) => decide (x < y + k ∧ y < x + n)
  | _, _ => false

/-- The cores of a matrix request. -/
def ReqBody.memberCores (b : ReqBody) : List Nat :=
  match b with
  | .mloadb _ _ _ cores _ _ _ _ => cores.map (·.2)
  | .mma m => m.cores
  | _ => []

/-- An earlier request must run first: their rows or their macros meet on some core (R229). -/
def State.matrixTurn (s : State) (id : Nat) (b : ReqBody) : Bool :=
  s.reqs.all fun p => decide (id ≤ p.1) || p.2.saved || b.memberCores.all fun c =>
    !(rangesMeet (p.2.body.macroRange c) (b.macroRange c)) && !(rangesMeet (p.2.body.rowRange c) (b.rowRange c))

/-! ## The work (R225, R228, R388) -/

/-- ENGINE_POISON for a row or a macro, and the refusal of a row (R215, R388). DEDUCED: log 34. -/
def enginePoison (detail : Nat) : Nat := 5 + 256 * detail
def rowRefused (row : Nat) : Nat := 2 + 256 * row

/-- The lesser of two statuses by DETAIL. -/
def firstBad (a : Option Nat) (b : Nat) : Option Nat :=
  match a with
  | none => some b
  | some x => some (if x / 256 ≤ b / 256 then x else b)

/-- One row of a member's B loaded into its macro. -/
def Macro.loadRow (m : Macro) (w : RowRead) (x : Tile) (e : Entry) (per row c0 r : Nat) : Macro :=
  let cell (i : Nat) : BitVec 16 :=
    if row < x.rows ∧ c0 + i < x.cols then
      BitVec.ofNat 16 (natBits (w.line ((c0 + i) / per)) (elementBit e ((c0 + i) % per)) e.width)
    else 0#16
  { m with cells := (List.range 32).foldl (fun (t : Sparse 16) i => Sparse.set t (32 * r + i) (cell i)) m.cells,
           poison := m.poison || w.poison || w.refused }

/-- A macro as an MLOADB begins to load it (R225). -/
def Macro.begun (r : Request) (k : MacroRecord) : Macro :=
  { cells := [], poison := false, image := k.image, rows := k.rows, desc := k.desc, k0 := k.k0, c0 := k.c0, member := k.member,
    row0 := k.row0, asid := r.asid, vdev := r.vdev, gang := r.gang }

/-- A load of macros in progress: the first bad row relative to K0, and whether a row waits. -/
structure Loaded where
  bad   : Option Nat
  wait  : Bool
  after : State
  deriving DecidableEq, Repr

/-- One row of a macro loaded; the first begins the macro anew. -/
def Loaded.row (w : Loaded) (id : Nat) (r : Request) (core m : Nat) (k : MacroRecord) (geom i : Nat) : Loaded :=
  let x := Tile.of k.desc
  let per := perLine k.image geom
  let row := k.k0 + k.row0 + i
  let l := w.after.tileLines id r x per row (k.c0 + 32 * k.member) 32
  if l.wait then { w with wait := true, after := w.after.undone l.after }
  else
    let bad := if l.refused then firstBad w.bad (rowRefused (k.row0 + i))
      else if l.poison then firstBad w.bad (enginePoison (k.row0 + i)) else w.bad
    let put (c : Core) : Core :=
      let y := if i = 0 then Macro.begun r k else (Tab.get? c.macros m).getD (Macro.begun r k)
      { c with macros := Tab.set c.macros m (y.loadRow l x (entryOf k.image) per row (k.c0 + 32 * k.member) i) }
    { bad := bad, wait := false, after := l.after.modCore core put }

/-- The rows of an MLOADB: member, macro and row, in the order in which they are loaded. -/
def macroRows (cores : List (Nat × Nat)) (k : Nat) : List ((Nat × Nat) × Nat × Nat) :=
  cores.flatMap fun c => (List.range (macrosOf k)).flatMap fun i => (List.range (rowsOfMacro k i)).map fun n => (c, i, n)

/-- The macros of every member loaded (R225), from the `from_`-th row on; the number of rows that are loaded after it. -/
def State.loadMacros (s : State) (id : Nat) (r : Request) (desc : BitVec 512) (image : DWord) (geom : BitVec 2)
    (cores : List (Nat × Nat)) (mb k0 c0 k from_ : Nat) (bad : Option Nat) : Loaded × Nat :=
  ((macroRows cores k).drop from_).foldl
    (fun (w : Loaded × Nat) x =>
      if w.1.wait then w
      else
        let y : MacroRecord := { image := image, rows := rowsOfMacro k x.2.1, desc := desc, k0 := k0, c0 := c0, member := x.1.1,
                                 row0 := 64 * x.2.1 }
        let l := w.1.row id r x.1.2 (mb + x.2.1) y geom.toNat x.2.2
        (l, if l.wait then w.2 else w.2 + 1))
    ({ bad := bad, wait := false, after := s }, from_)

/-- An element of B as a macro holds it; none at the border (R82, R222). -/
def Macro.elem (m : Macro) (row col : Nat) : Option Val :=
  let x := Tile.of m.desc
  if m.k0 + m.row0 + row < x.rows ∧ m.c0 + 32 * m.member + col < x.cols then
    some ((entryOf m.image).decode (Sparse.get m.cells (32 * row + col)).toNat)
  else none

/-- The pairs of a K block that compute something. -/
def blockPairs (a b : List (Option Val)) : List (Val × Val) :=
  (a.zip b).filterMap fun p => match p.1, p.2 with | some x, some y => some (x, y) | _, _ => none

/-- One K block of one element (R83, R84). -/
def MmaJob.block1 (m : MmaJob) (acc : Nat) (a b : List (Option Val)) : Flagged Nat :=
  if m.int32 then intBlockSum acc (blockPairs a b) m.sat
  else exactSum acc ((blockPairs a b).map fun p => { x := p.1, y := p.2, neg := false })

/-- The complex pairs of a K block (R85): real and imaginary parts of neighbours. -/
def evens {α : Type} : List α → List α
  | x :: _ :: rest => x :: evens rest
  | [x] => [x]
  | [] => []

def odds {α : Type} : List α → List α
  | _ :: y :: rest => y :: odds rest
  | _ => []

/-- The terms of the products of two lists, signed. -/
def signedTerms (a b : List (Option Val)) (neg : Bool) : List Term :=
  (blockPairs a b).map fun p => { x := p.1, y := p.2, neg := neg }

/-- Columns that one member's row computes from one K block: each column's accumulator index and value (R228). -/
def MmaJob.rowBlock (m : MmaJob) (acc : Nat → Nat) (a : List (Option Val)) (col : Nat → List (Option Val)) :
    List (Nat × Flagged Nat) :=
  if m.cplx then
    (List.range 16).flatMap fun q =>
      let b := col (2 * q)
      let re := exactSum (acc (2 * q)) (signedTerms (evens a) (evens b) false ++ signedTerms (odds a) (odds b) true)
      let im := exactSum (acc (2 * q + 1)) (signedTerms (evens a) (odds b) false ++ signedTerms (odds a) (evens b) false)
      [(2 * q, re), (2 * q + 1, im)]
  else (List.range 32).map fun n => (n, m.block1 (acc n) a (col n))

/-- Thirty-two free words in an accumulator row that poison has reached (R388, log 5). -/
def State.freeRow (s : State) (core row : Nat) : State :=
  (List.range 32).foldl
    (fun (s : State) n =>
      let (v, s) := s.freeWord
      s.modCore core fun c => { c with acc := Sparse.set c.acc (32 * row + n) v }) s

/-- The macro that holds row `i` of K block `kb` of a member. -/
def State.blockMacro (s : State) (m : MmaJob) (core i : Nat) : Option Macro :=
  Tab.get? (s.core core).macros (m.mb + (32 * m.kb + i) / 64)

/-- The macro in use is poisoned, or gone. -/
def State.macroBad (s : State) (m : MmaJob) (core : Nat) : Bool :=
  match s.blockMacro m core 0 with | none => true | some x => x.poison

/-- A row of a member accumulates onto a poisoned element (R413). -/
def State.accBad (s : State) (m : MmaJob) (core row : Nat) : Bool :=
  (m.kb != 0 || m.acc)
    && (s.core core).accPoison.any fun k => decide (32 * (m.abase + row) ≤ k ∧ k < 32 * (m.abase + row + 1))

/-- One row of one member over one K block: its values and flags. -/
def State.mmaRow (s : State) (m : MmaJob) (core row : Nat) (a : List (Option Val)) : State × Nat :=
  let c := s.core core
  let fresh := decide (m.kb = 0) && !m.acc
  let first := 32 * (m.abase + row)
  let acc (n : Nat) : Nat := if fresh then 0 else (Sparse.get c.acc (first + n)).toNat
  let col (n : Nat) : List (Option Val) := (List.range 32).map fun i =>
    (s.blockMacro m core i).bind fun x => x.elem ((32 * m.kb + i) % 64) n
  let out := m.rowBlock acc a col
  let s := s.modCore core fun c =>
    { c with acc := out.foldl (fun (t : Sparse 32) o => Sparse.set t (first + o.1) (BitVec.ofNat 32 o.2.val)) c.acc,
             accPoison := c.accPoison.filter fun k => !fresh || !decide (first ≤ k ∧ k < first + 32) }
  (s, out.foldl (fun n o => orFlags n o.2.flags) 0)

/-- One row of every member over one K block; a row that poison has reached holds free values from then on. -/
def State.mmaRows (s : State) (m : MmaJob) (row : Nat) (a : List (Option Val)) (bad : Bool) : State × MmaJob :=
  m.cores.foldl
    (fun (w : State × MmaJob) c =>
      if w.2.free.contains (c, row) then w
      else if bad || w.1.macroBad m c || w.1.accBad m c row then (w.1.freeRow c (m.abase + row), { w.2 with free := (c, row) :: w.2.free })
      else
        let (s, f) := w.1.mmaRow m c row a
        (s, { w.2 with flags := orFlags w.2.flags f })) (s, m)

/-- A K block in progress: the job, and whether a row waits. -/
structure KBlock where
  job   : MmaJob
  wait  : Bool
  after : State
  deriving DecidableEq, Repr

/-- One row of a K block, for every member. -/
def KBlock.row (w : KBlock) (id : Nat) (r : Request) (x : Tile) (e : Entry) (per row : Nat) : KBlock :=
  if w.wait then w
  else
    let m := w.job
    let l := w.after.tileLines id r x per (m.arow + row) (32 * m.kb) 32
    if l.wait then { w with wait := true, after := w.after.undone l.after }
    else
      let a := l.elems x e per (m.arow + row) (32 * m.kb) 32
      let j := if l.refused then { m with bad := firstBad m.bad (rowRefused row) }
        else if l.poison || m.cores.any fun c => l.after.accBad m c row then { m with bad := firstBad m.bad (enginePoison row) }
        else m
      let y := l.after.mmaRows j row a (l.refused || l.poison)
      { job := { y.2 with row := row + 1 }, wait := false, after := y.1 }

/-- One K block of every row and member, or the rows of it that need not wait (R228, R388). -/
def State.mmaStep (s : State) (id : Nat) (r : Request) (m : MmaJob) : State × MmaJob :=
  let x := Tile.of m.tile
  let e := entryOf m.image
  let per := perLine m.image m.geom.toNat
  let m := if m.row = 0 ∧ (m.cores.any fun c => s.macroBad m c) = true then
      { m with bad := firstBad m.bad (enginePoison (2 ^ 23 + (m.mb + 32 * m.kb / 64))) }
    else m
  let w := ((List.range m.mRows).drop m.row).foldl (fun (w : KBlock) row => w.row id r x e per row)
    { job := m, wait := false, after := s }
  (w.after, if w.wait then w.job else { w.job with kb := m.kb + 1, row := 0 })

/-! ## The accumulator instructions (R230) -/

/-- MREAD (R230): a row that an MMA writes whose sink the thread has not observed reads as a free value (log 5). -/
def State.mread (s : State) (t : Nat) (d : Reg) (i : Nat) : LaneRes :=
  let c := s.core (coreOf t)
  if 65536 ≤ i then .fault (plainFault Code.bounds)
  else if c.unseen.any fun u => !u.seen.contains t && decide (u.first ≤ i / 32 ∧ i / 32 < u.first + u.rows) then
    let (v, s) := s.freeWord
    .ok (s.modThread t fun th => th.setReg d.toNat v)
  else if c.accPoison.contains i then .fault (infoFault Code.poison 3)
  else .ok (s.modThread t fun th => th.setReg d.toNat (Sparse.get c.acc i))

/-- MREAD (R230). -/
def execMread (h : Hdr) (x : AccArgs) (s : State) : Host.Outcome State Fault Refusal :=
  perThread (.mread h x) (fun _ s t =>
    match s.thread t with
    | none => .ok s
    | some th => s.mread t x.d ((th.a32 x.a).toNat + x.off.toNat)) s

/-- Elements of the accumulator memory written; a write clears their poison (R386). -/
def Core.putAcc (c : Core) (i n : Nat) (v : Word) : Core :=
  { c with acc := (List.range n).foldl (fun (t : Sparse 32) k => Sparse.set t (i + k) v) c.acc,
           accPoison := c.accPoison.filter fun k => !decide (i ≤ k ∧ k < i + n) }

/-- MWRITE (R230). -/
def execMwrite (h : Hdr) (x : AccArgs) (s : State) : Host.Outcome State Fault Refusal :=
  perThread (.mwrite h x) (fun _ s t =>
    match s.thread t with
    | none => .ok s
    | some th =>
      let i := (th.a32 x.a).toNat + x.off.toNat
      if 65536 ≤ i then .fault (plainFault Code.bounds)
      else .ok (s.modCore (coreOf t) fun c => c.putAcc i 1 (th.reg x.d.toNat))) s

/-- MZERO (R230). -/
def execMzero (h : Hdr) (x : MzeroArgs) (s : State) : Host.Outcome State Fault Refusal :=
  perThread (.mzero h x) (fun _ s t =>
    match s.thread t with
    | none => .ok s
    | some th =>
      let row := (th.a32 x.a).toNat
      let n := x.n.toNat
      if n = 0 ∨ 2048 < n ∨ 2048 < row + n then .fault (plainFault Code.bounds)
      else .ok (s.modCore (coreOf t) fun c => c.putAcc (32 * row) (32 * n) 0#32)) s

end Sys2Proof.Machine
end

