-- ==== Sys2Proof/Machine/Message.lean ====
section
/-! DEFINITION. Messages, OP B3 to B5 (R232 to R234, R364, R403): MSEND sends, MESSAGE_ARRIVAL matches and
MSEND_ANSWER writes the status; MPOST posts a receive and MTEST reports on it. -/

namespace Sys2Proof.Machine

/-- The number by which a token register names a message: requests are numbered below. -/
def messageToken (m : Nat) : Nat := 2 ^ 40 + m

/-- The bytes of an on-chip range, lowest first. -/
def State.bankBytes (s : State) (b : Bank) (off n : Nat) : List Byte := bytesOf (s.readBank b off n) n

/-- MSEND (R232): a header flit and a data flit (R287). -/
def execMsend (h : Hdr) (x : MsendArgs) (s : State) : Host.Outcome State Fault Refusal :=
  perThread (.msend h x) (fun pc s t =>
    match s.thread t with
    | none => .ok s
    | some th =>
      let ea : DWord := (th.reg x.a.toNat).setWidth 64
      let dst := th.reg x.b.toNat
      let n := x.len.toNat
      if n = 0 ∨ 256 < n then .fault (plainFault Code.bounds)
      else
        match s.spot (coreOf t) th.gang (s.partOf t) .scr ea.toNat n with
        | none => .fault (addrFault Code.bounds ea)
        | some (b, off) =>
          if s.badGang t dst then .fault (plainFault Code.handleInvalid)
          else if !s.inspectable t .none 4 then .stall
          else
            s.ifAffords t pc (flitCost 2 (dieOf (coreOf t)) (dieOf (coreOf dst.toNat))) fun s =>
            let s := s.inspectFor t .none 4
            let id := Tab.fresh s.msgs
            let m : Message := { sender := t, dst := dst.toNat, bytes := s.bankBytes b off n, tag := x.tag,
                                 status := none, reg := x.d, order := id }
            .ok (({ s with msgs := Tab.set s.msgs id m }).modThread t fun th =>
              { th with tokens := Tab.set th.tokens x.d.toNat (.pending (messageToken id)) })) s

/-! ## Matching (R233) -/

/-- A receive's match word takes a message. -/
def Receive.takes (r : Receive) (m : Message) : Bool :=
  r.gang == m.dst && r.done.isNone
    && (bitOf r.pick 16 || natBits r.pick.toNat 0 16 == m.tag.toNat)
    && (bitOf r.pick 26 || natBits r.pick.toNat 17 9 == coreOf m.sender)

/-- A message delivered to a receive: bytes beyond the buffer are dropped, and the length is the message's own. -/
def State.deliverMessage (s : State) (core handle : Nat) (m : Message) : State :=
  match Tab.get? (s.core core).posted handle with
  | none => s
  | some r =>
    let n := min m.bytes.length r.size
    let s := match s.regionOf m.dst r.buffer with
      | none => s
      | some g => s.writeBank (.scr g) (natBits r.buffer 0 19) n (natOfBytes (m.bytes.take n))
    let r : Receive := { r with done := some (coreOf m.sender, m.bytes.length, m.tag.toNat) }
    s.modCore core fun c => { c with posted := Tab.set c.posted handle r }

/-- The receive that takes a message: the first in posting order. -/
def Core.receiver (c : Core) (m : Message) : Option Nat :=
  (c.posted.filter fun p => p.2.takes m).foldl
    (fun (best : Option (Nat × Nat)) p => match best with
      | none => some (p.1, p.2.order)
      | some b => if p.2.order < b.2 then some (p.1, p.2.order) else some b) none |>.map (·.1)

/-- MSG_OVERFLOW for a gang (R364, R403): pending at the live thread of lowest TID; overflows merge while one is
pending. -/
def State.overflowFault (s : State) (gang sender : Nat) : State :=
  let live := s.threads.filter fun (p : Nat × Thread) => p.2.gang == gang && p.2.hold != .exited
  if live.any fun (p : Nat × Thread) => p.2.asyncs.any fun a => a.code == Code.msgOverflow then s
  else
    match live.foldl (fun (best : Option (Nat × Nat)) (p : Nat × Thread) => match best with
      | none => some (p.1, p.2.tid)
      | some b => if p.2.tid < b.2 then some (p.1, p.2.tid) else some b) none with
    | none => s
    | some (t, _) => s.addAsync t (asyncFault (infoFault Code.msgOverflow sender))

/-- A message's answer noted. -/
def State.answer (s : State) (id : Nat) (m : Message) (ok : Bool) : State :=
  { s with msgs := Tab.set s.msgs id { m with status := some ok } }

/-- An earlier message from the same core to the same core has not arrived (R287). -/
def State.messageBehind (s : State) (m : Message) : Bool :=
  s.msgs.any fun x => x.2.status.isNone && decide (x.2.order < m.order) && coreOf x.2.sender == coreOf m.sender
    && coreOf x.2.dst == coreOf m.dst

/-- A message arrives at its destination's match unit, those of one core in sending order (R232, R233, R287): matched,
queued, or refused. -/
def State.messageArrives (s : State) (id : Nat) : State :=
  match Tab.get? s.msgs id with
  | none => s
  | some m =>
    if m.status.isSome || s.messageBehind m then s
    else
      match s.gang m.dst with
      | none => s.answer id m false
      | some g =>
        let core := coreOf m.dst
        let part := ((s.job g.job).map (·.part)).getD 0
        match (s.core core).receiver m with
        | some handle => (s.deliverMessage core handle m).answer id m true
        | none =>
          if (s.core core).overflow.length < 64 then
            (s.modCore core fun c => { c with overflow := c.overflow ++ [m] }).answer id m true
          else
            ((s.log 0x13 (.core core) (some part) 0 0).overflowFault m.dst (coreOf m.sender)).answer id m false

/-- The status of a message written to its sender's register (R232). -/
def State.messageAnswered (s : State) (id : Nat) : State :=
  match Tab.get? s.msgs id with
  | none => s
  | some m =>
    match m.status with
    | none => s
    | some ok =>
      let s := { s with msgs := Tab.erase s.msgs id }
      s.modThread m.sender fun th =>
        if Tab.get? th.tokens m.reg.toNat = some (.pending (messageToken id)) then
          { th.setReg m.reg.toNat (BitVec.ofNat 32 (bit !ok)) with tokens := Tab.erase th.tokens m.reg.toNat }
        else th

/-! ## MPOST and MTEST (R233, R234) -/

/-- The lowest receive handle of a core that is free; which free handle is taken is a DESIGN CHOICE (log 14). -/
def Core.freeReceive (c : Core) : Option Nat := (List.range 64).find? fun k => (Tab.get? c.posted k).isNone

/-- The overflow queue's first message that a receive takes. -/
def Core.queuedFor (c : Core) (r : Receive) : Option Message := c.overflow.find? r.takes

/-- A receive posted; a matching message of the overflow queue is delivered at once. -/
def State.post1 (s : State) (core handle : Nat) (r : Receive) : State :=
  let s := s.modCore core fun c => { c with posted := Tab.set c.posted handle r }
  match (s.core core).queuedFor r with
  | none => s
  | some m =>
    let s := s.modCore core fun c => { c with overflow := c.overflow.erase m }
    s.deliverMessage core handle m

/-- MPOST (R233). -/
def execMpost (h : Hdr) (x : MpostArgs) (s : State) : Host.Outcome State Fault Refusal :=
  perThread (.mpost h x) (fun _ s t =>
    match s.thread t with
    | none => .ok s
    | some th =>
      let core := coreOf t
      let ea : DWord := (th.reg x.a.toNat).setWidth 64
      let pick := th.reg x.b.toNat
      let n := x.size.toNat
      if n = 0 ∨ 256 < n ∨ natBits pick.toNat 27 5 ≠ 0 then .fault (plainFault Code.bounds)
      else if (s.spot core th.gang (s.partOf t) .scr ea.toNat n).isNone then .fault (addrFault Code.bounds ea)
      else
        match (s.core core).freeReceive with
        | none => .ok (s.modThread t fun th => th.setReg x.d.toNat 0xFFFFFFFF#32)
        | some k =>
          let order := (s.core core).posted.foldl (fun n p => max n (p.2.order + 1)) 0
          let r : Receive := { gang := th.gang, buffer := ea.toNat, size := n, pick := pick, order := order, done := none }
          .ok ((s.modThread t fun th => th.setReg x.d.toNat (BitVec.ofNat 32 k)).post1 core k r)) s

/-- An MTEST that finds its receive done (R234): the pair, the handle freed, and the effect of INSP.s. -/
def State.received (s : State) (t : Nat) (pc : Addr56) (handle : Nat) (d : Reg) (done : Nat × Nat × Nat) : State :=
  let (src, len, tag) := done
  let v := pair64 (BitVec.ofNat 32 (2 ^ 31 + src * 2 ^ 17 + len)) (BitVec.ofNat 32 tag)
  let s := s.modThread t fun th => { th.setPair d.toNat v with hold := .none, pc := nextPc pc }
  let s := s.modCore (coreOf t) fun c => { c with posted := Tab.erase c.posted handle }
  (s.dropWaits t).inspSelf t

/-- The signallers of a waiting MTEST (R270). -/
def State.mtestSigs (s : State) (r : Receive) : List (Nat × Nat) :=
  if bitOf r.pick 26 then []
  else (s.gangs.filter fun (p : Nat × Gang) => coreOf p.1 == natBits r.pick.toNat 17 9).map fun p => (1, p.1)

/-- An MTEST whose receive is not done: the fields that the spec states no value for are free (log 5). -/
def State.notReceived (s : State) (t : Nat) (d : Reg) : State :=
  let (a, s) := s.freeWord
  let (b, s) := s.freeWord
  s.modThread t fun th => th.setPair d.toNat (pair64 (a &&& 0x03FE01FF#32) (b &&& 0xFFFF#32))

/-- MTEST (R234). -/
def execMtest (h : Hdr) (x : MtestArgs) (s : State) : Host.Outcome State Fault Refusal :=
  perThread (.mtest h x) (fun pc s t =>
    match s.thread t with
    | none => .ok s
    | some th =>
      let k := (th.reg x.a.toNat).toNat
      match Tab.get? (s.core (coreOf t)).posted k with
      | none => .fault (plainFault Code.handleInvalid)
      | some r =>
        if r.gang ≠ th.gang then .fault (plainFault Code.handleInvalid)
        else
          match r.done with
          | some v => .ok (s.received t pc k x.d v)
          | none =>
            if x.w then
              let s := s.modThread t fun th => { th with hold := .wait (.mtest k x.d), pc := pc }
              .ok ((s.dropWaits t).addWaits t 6 0 k (s.mtestSigs r))
            else .ok (s.notReceived t x.d)) s

/-- A waiting MTEST tested again (R234). -/
def State.retestMtest (s : State) (t : Nat) : State :=
  match s.thread t with
  | none => s
  | some th =>
    match th.hold with
    | .wait (.mtest k d) =>
      match (Tab.get? (s.core (coreOf t)).posted k).bind (·.done) with
      | none => s
      | some v => s.received t th.pc k d v
    | _ => s

end Sys2Proof.Machine
end

