-- ==== Sys2Proof/Machine/EvEngine.lean ====
section
/-! DEFINITION. The engines' steps: blocks copied and requests completed (R107, R214, R217, R218, R220, R224, R387),
macros loaded and K blocks computed (R225, R228, R229, R388), and messages carried (R232, R233). -/

namespace Sys2Proof.Machine

/-! ## Pieces of a copy (R217, R268) -/

/-- The destination range of a copy that lies in its `k`-th 4-KiB page: first byte and end. -/
def CopyJob.piece (c : CopyJob) (k : Nat) : Nat × Nat :=
  let d := c.dst.toNat
  (Nat.max d (4096 * (d / 4096 + k)), Nat.min (d + c.len) (4096 * (d / 4096 + k + 1)))

/-- The number of those pieces. -/
def CopyJob.pieces (c : CopyJob) : Nat := (c.dst.toNat + c.len - 1) / 4096 - c.dst.toNat / 4096 + 1

/-- The destination range that lies in the `i`-th 64-byte line, counted from the line of the first byte (R215). -/
def CopyJob.lineRange (c : CopyJob) (i : Nat) : Nat × Nat :=
  let d := c.dst.toNat
  (Nat.max d (64 * (d / 64 + i)), Nat.min (d + c.len) (64 * (d / 64 + i + 1)))

/-- The number of destination lines. -/
def CopyJob.lines (c : CopyJob) : Nat := (c.dst.toNat + c.len - 1) / 64 - c.dst.toNat / 64 + 1

/-- The lines of a piece. -/
def CopyJob.pieceLines (c : CopyJob) (k : Nat) : List Nat :=
  let p := c.piece k
  (List.range ((p.2 + 63) / 64 - p.1 / 64)).map fun i => p.1 / 64 - c.dst.toNat / 64 + i

/-- A line of a request fails with a code (R215, R387). -/
def State.failLine (s : State) (id line code : Nat) : State :=
  s.modReq id fun r => { r with failed := r.failed ++ [(line, code)] }

/-- A line of a piece has been performed, or has failed. -/
def State.doneLine (s : State) (id line : Nat) : State := s.modReq id fun r => { r with lines := addOnce r.lines line }

/-- The front end or the bank answers for a destination line, so that the sources of a refused one are never read (R387). -/
def State.askWrite (s : State) (id : Nat) (r : Request) (space : Space) (addr : Nat) : EngineAns :=
  if space = .glb then s.engineAsk id r .store addr
  else
    match s.spot r.core r.gang r.part space addr 1 with
    | none => .refused s
    | some b => if s.isleAbsent b.1.isle then .refused s else .pass 0#64

/-- A piece may be worked on: an engine is owned, and it has started, or the budget lets it start, or a pre-emption waits
for it (R268, R299, R302). -/
def State.mayCopy (s : State) (r : Request) (k : Nat) : Bool :=
  !(s.engines r.part).isEmpty && (r.started.contains k || s.copyBudget r || (s.part r.part).halting.isSome)

/-- Poison moved by a copy (Table 25-2, event 0x02), detected by the partition's first engine. -/
def State.logMoved (s : State) (r : Request) (addr line : Nat) : State :=
  let k := (s.engines r.part).headD 0
  s.log 0x02 (.copyEngine (k / 24) (k % 24)) (some r.part) addr line

/-- One destination line of a copy (R217, R387); `tag` tells the items of a KICK apart. A line that waits is not done yet
(R63, R268, R280, R366). -/
def State.copyLine (s : State) (id : Nat) (r : Request) (c : CopyJob) (tag line : Nat) : State :=
  let p := c.lineRange line
  let src := c.src.toNat + (p.1 - c.dst.toNat)
  let fails (s : State) (code : Nat) : State := (s.failLine id (tag + line) code).doneLine id (tag + line)
  match s.askWrite id r c.dsp p.1 with
  | .refused s => fails s 2
  | .waits s => s
  | .pass _ =>
    if !s.mayPay r ((s.gatherCost r c.ssp src (p.2 - p.1)).add (s.endCost r c.dsp p.1)) then s
    else
      let e := s.gather id r c.ssp src (p.2 - p.1)
      if e.wait then s.undone e.after
      else if !e.ok then fails e.after 2
      else
        match e.after.engineWrite id (tag + line) r c.dsp p.1 (p.2 - p.1) e.data e.poison with
        | .refused s => fails s 2
        | .waits s1 => s.undone s1
        | .done s => if e.poison then fails (s.logMoved r p.1 line) 1 else s.doneLine id (tag + line)

/-- Bytes counted for the copy engines (Table 15-6). -/
def State.countCopy (s : State) (part n : Nat) : State :=
  s.modPart part fun (p : Partition) => { p with usage := { p.usage with cpyb := p.usage.cpyb + n } }

/-- A piece that an engine starts is charged once (R217, R268). -/
def State.startPiece (s : State) (id : Nat) (r : Request) (k units bytes : Nat) : State :=
  if r.started.contains k then s
  else
    ((s.charge r { Budget.none with cpyb := units }).countCopy r.part bytes).modReq id fun r =>
      { r with started := addOnce r.started k }

/-- The lines of a piece that an engine has not performed yet. -/
def Request.linesLeft (r : Request) (ls : List Nat) : List Nat := ls.filter fun i => !r.lines.contains i

/-- A piece whose lines have all been performed is done. -/
def State.settlePiece (s : State) (id k : Nat) (ls : List Nat) : State :=
  match s.request id with
  | none => s
  | some r =>
    if (r.linesLeft ls).isEmpty then
      s.modReq id fun r => { r with done := addOnce r.done k, started := without r.started k,
                                    lines := r.lines.filter fun i => !ls.contains i }
    else s

/-- A piece of a copy on an engine: it is charged as it starts, and its lines are copied (R217, R268). -/
def State.copyPiece (s : State) (id : Nat) (r : Request) (c : CopyJob) (ptag ltag k : Nat) : State :=
  if c.pieces ≤ k || r.done.contains (ptag + k) || !s.mayCopy r (ptag + k) then s
  else
    let n := (c.piece k).2 - (c.piece k).1
    let ls := (c.pieceLines k).map (ltag + ·)
    let s := s.startPiece id r (ptag + k) ((n + 63) / 64) n
    ((r.linesLeft ls).foldl (fun (s : State) i => s.copyLine id r c ltag (i - ltag)) s).settlePiece id (ptag + k) ls

/-! ## Items of a KICK (R218) -/

/-- Pieces and lines of item `i` are numbered from these. -/
def itemPiece (i : Nat) : Nat := i * 2 ^ 20
def itemLine (i : Nat) : Nat := i * 2 ^ 26

/-- SINKK of Table 11-4. -/
def itemKind (k : Nat) : Option SinkKind :=
  match k with
  | 1 => some .arrival
  | 2 => some .counter
  | 3 => some .interrupt
  | _ => none

/-- An item read: its copy, the sink it names, and whether its fields break Table 11-4 or R217. DEDUCED: log 33. -/
def State.readItem (s : State) (r : Request) (n : Nat) (poison : Bool) : KickItem :=
  let c : CopyJob :=
    { src := BitVec.ofNat 64 (natBits n 0 64), dst := BitVec.ofNat 64 (natBits n 64 64), len := natBits n 128 32,
      ssp := endSpace (BitVec.ofNat 2 (natBits n 160 2)), dsp := endSpace (BitVec.ofNat 2 (natBits n 162 2)) }
  let sc := natBits n 169 3
  let scopeBad := decide (sc = 0 ∨ 5 < sc)
  let sink : Option SinkRef := (itemKind (natBits n 164 2)).map fun k =>
    { kind := k, reg := 0#9, desig := BitVec.ofNat 64 (natBits n 192 64),
      scope := if scopeBad then 4#3 else BitVec.ofNat 3 sc }
  let sinkBad := match sink with | none => false | some k => (s.sinkFault r.core r.gang r.part k).isSome
  let far (sp : Space) (a : DWord) : Bool := sp != .glb && decide (2 ^ 32 ≤ a.toNat)
  { copy := c, sink := if sinkBad then none else sink, done := none,
    bad := poison || natBits n 166 3 != 0 || natBits n 172 20 != 0 || scopeBad || sinkBad || far c.ssp c.src
      || far c.dsp c.dst || (s.copyFault r.core r.gang r.part c.ssp c.dsp c.src c.dst c.len).isSome }

/-- The list of a KICK read (R218). -/
def State.readItems (s : State) (r : Request) (list count : Nat) : List KickItem :=
  (List.range count).map fun i =>
    match s.spot r.core r.gang r.part .scr (list + 32 * i) 32 with
    | none => s.readItem r 0 true
    | some (b, off) => s.readItem r (s.readBank b off 32) (s.bankPoisoned b off 32)

/-- The item of a piece performed. -/
def State.itemPieceAt (s : State) (id : Nat) (r : Request) (items : List KickItem) (k : Nat) : State :=
  match items[k / 2 ^ 20]? with
  | none => s
  | some x =>
    if x.bad || x.done.isSome then s
    else s.copyPiece id r x.copy (itemPiece (k / 2 ^ 20)) (itemLine (k / 2 ^ 20)) (k % 2 ^ 20)

/-! ## Tile images (R224) -/

/-- The lines of a tile image. -/
def tileImageLines (x : Tile) (per : Nat) : Nat := imageLines x per * x.prows

/-- A raw line with the elements from column `keep` on cleared (R224). -/
def trimLine (e : Entry) (per keep n : Nat) : Nat :=
  (List.range per).foldl
    (fun n i => if i < keep then n else n - natBits n (elementBit e i) e.width * 2 ^ elementBit e i) n

/-- The source line of line `i` of a tile's image; none at the border (R224). -/
def Tile.imageSource (x : Tile) (per i : Nat) : Option (Nat × Nat) :=
  let w := Nat.max 1 (imageLines x per)
  if i / w < x.rows ∧ i % w * per < x.cols then some (x.lineAddr (i / w) (i % w), x.cols - i % w * per) else none

/-- Line `i` of a tile's image: its bytes, its poison, and whether it is refused or waits. -/
def State.tileLine (s : State) (id : Nat) (r : Request) (x : Tile) (e : Entry) (per i : Nat) : EngineRead :=
  match x.imageSource per i with
  | some (a, keep) =>
    let y := s.engineRead id r x.place a 64
    { y with data := trimLine e per keep y.data }
  | none => { ok := true, wait := false, data := 0, poison := false, after := s }

/-- A line of the image written to every member (R224). -/
def State.multicast (s : State) (cores : List (Nat × Nat)) (off v : Nat) (poison : Bool) : State :=
  cores.foldl
    (fun (s : State) c =>
      let s := s.writeBank (.scr c.2) off 64 v
      if poison then s.poisonBank (.scr c.2) off 64 else s) s

/-- What one line of a TILEF is charged: its source, and a flit to each member. -/
def State.tilefCost (s : State) (r : Request) (x : Tile) (per : Nat) (cores : List (Nat × Nat)) (i : Nat) : Budget :=
  (match x.imageSource per i with
    | some (a, _) => s.endCost r x.place a
    | none => Budget.none).add
    (cores.foldl (fun (b : Budget) (c : Nat × Nat) => b.add (bankCost (.scr c.2) (s.stackOf r))) Budget.none)

/-- One line of a TILEF (R224, R387); a line that waits is not done yet. -/
def State.tilefLine (s : State) (id : Nat) (r : Request) (x : Tile) (e : Entry) (per : Nat) (cores : List (Nat × Nat))
    (off i : Nat) : State :=
  if !s.mayPay r (s.tilefCost r x per cores i) then s
  else
    let y := s.tileLine id r x e per i
    if y.wait then s.undone y.after
    else if !y.ok then (y.after.failLine id i 2).doneLine id i
    else
      let flits := cores.foldl (fun (b : Budget) (c : Nat × Nat) => b.add (bankCost (.scr c.2) (s.stackOf r))) Budget.none
      let s := (y.after.charge r flits).multicast cores (off + 64 * i) y.data y.poison
      (if y.poison then (s.logMoved r (off + 64 * i) i).failLine id i 1 else s).doneLine id i

/-- A block of 64 lines of a TILEF. -/
def State.tilefPiece (s : State) (id : Nat) (r : Request) (desc : BitVec 512) (image : DWord) (geom : BitVec 2)
    (cores : List (Nat × Nat)) (off k : Nat) : State :=
  let x := Tile.of desc
  let per := perLine image geom.toNat
  let n := Nat.min 64 (tileImageLines x per - 64 * k)
  if n = 0 || r.done.contains k || !s.mayCopy r k then s
  else
    let ls := (List.range n).map (64 * k + ·)
    let s := s.startPiece id r k n (64 * n)
    ((r.linesLeft ls).foldl (fun (s : State) i => s.tilefLine id r x (entryOf image) per cores off i) s).settlePiece id k ls

/-! ## Fabric transfers (R220, R293 to R295) -/

/-- Bits of a window table entry (Table 14-7). -/
def State.windowBits (s : State) (part window lo len : Nat) : Nat :=
  natBits (Sparse.get (s.part part).pm.windows window).toNat lo len

/-- The window and offset of a fabric destination; none where the page is none of a window's range, or, for a
contribution, none of a reduction window's (R220, R293). -/
def State.fabricSpot (s : State) (part : Nat) (pte : DWord) (va n : Nat) (red : Bool) : Option (Nat × Nat) :=
  let pa := physOf pte va
  let w := pa / 2 ^ 36
  let off := pa % 2 ^ 36
  if pteTier pte != 2 || s.windowBits part w 0 1 == 0 || decide (65536 * s.windowBits part w 92 36 < off + n)
      || (red && (!pteRwin pte || s.windowBits part w 1 1 == 0)) then none
  else some (w, off)

/-- The front end's answer for a fabric destination; RWIN bars no contribution (R220, Table 23-3). -/
def State.fabricAsk (s : State) (id : Nat) (r : Request) (va : Nat) (red : Bool) : EngineAns :=
  if 2 ^ 56 ≤ va then .refused s
  else
    match s.engineAttrs r.part r.asid va with
    | .leaf pte =>
      let seen := if red then pte &&& ~~~(0x1000000#64) else pte
      if (s.permit r.part (96 * (s.part r.part).primaryDie) .store r.asid va seen).isSome then .refused s else .pass pte
    | .missing => if r.declined.contains (va / 65536) then .refused s else .waits (s.handOver id va)
    | .synonym _ => .refused s

/-- One line of a FABX: a frame of a write, or of a contribution to the window's generation (R220, R294); a line that waits
is not done yet. -/
def State.fabxLine (s : State) (id : Nat) (r : Request) (c : CopyJob) (red : Bool) (line : Nat) : State :=
  let p := c.lineRange line
  let n := p.2 - p.1
  let src := c.src.toNat + (p.1 - c.dst.toNat)
  let fails (s : State) (code : Nat) : State := (s.failLine id line code).doneLine id line
  match s.fabricAsk id r p.1 red with
  | .refused s => fails s 2
  | .waits s => s
  | .pass pte =>
    match s.fabricSpot r.part pte p.1 n red with
    | none => fails s 2
    | some (w, off) =>
      let send := s.homeCost r.part r.asid p.1 pte (s.stackOf r) false
      if !s.mayPay r ((s.gatherCost r c.ssp src n).add send) then s
      else
        let e := s.gather id r c.ssp src n
        if e.wait then s.undone e.after
        else if !e.ok then fails e.after 2
        else if e.poison then fails (e.after.logMoved r p.1 line) 1
        else
          let s := e.after.charge r send
          let gen := (Sparse.get (s.part r.part).pm.gens w).toNat
          let s := if red then
              (s.sendFrame r.part r.vdev w off 4 (s.windowBits r.part w 48 16) gen (bytesOf e.data n) (.request id line)).modReq id
                fun r => { r with body := .fabx c true (some w) gen }
            else s.sendFrame r.part r.vdev w off 1 0 0 (bytesOf e.data n) (.request id line)
          s.doneLine id line

/-- A block of a FABX: one destination line. -/
def State.fabxPiece (s : State) (id : Nat) (r : Request) (c : CopyJob) (red : Bool) (k : Nat) : State :=
  if c.lines ≤ k || r.done.contains k || (s.engines r.part).isEmpty then s
  else ((s.fabxLine id r c red k).modReq id fun r => { r with started := addOnce r.started k }).settlePiece id k [k]

/-! ## COPY_BLOCK (R217) -/

/-- A request has started its work: a block or an item of it has been performed (R302 step 3). -/
def Request.begun (r : Request) : Bool :=
  !r.done.isEmpty || !r.started.isEmpty || !r.lines.isEmpty || (match r.body with | .kick _ _ items => items.any fun x => x.done.isSome | _ => false)

/-- A request may work on: it is not saved, and while its partition is being pre-empted it has started (R302). -/
def State.mayWork (s : State) (r : Request) : Bool := !r.saved && ((s.part r.part).halting.isNone || r.begun)

/-- A block of a request; a KICK first reads its list (R218). -/
def State.copyBlock (s : State) (id k : Nat) : State :=
  match (s.request id).filter fun r => s.mayWork r with
  | none => s
  | some r =>
    match r.body with
    | .copy c => s.copyPiece id r c 0 0 k
    | .kick list count [] => s.modReq id fun r => { r with body := .kick list count (s.readItems r list count) }
    | .kick _ _ items => s.itemPieceAt id r items k
    | .tilef desc image geom cores off => s.tilefPiece id r desc image geom cores off k
    | .fabx c red _ _ => s.fabxPiece id r c red k
    | _ => s

/-- COPY_BLOCK (R217). -/
def execCopyBlock (req block : Nat) (s : State) : Host.Outcome State Fault Refusal := .next (s.copyBlock req block)

/-! ## Completion (R214, R215, R387) -/

/-- The failing line of lowest index among lines `tag` to `tag + n - 1` (R387). -/
def Request.firstFailed (r : Request) (tag n : Nat) : Option (Nat × Nat) :=
  (r.failed.filter fun f => decide (tag ≤ f.1 ∧ f.1 < tag + n)).foldl
    (fun (best : Option (Nat × Nat)) f => match best with
      | none => some f
      | some b => if f.1 < b.1 then some f else some b) none

/-- The status of a range of lines (R215). -/
def Request.statusOf (r : Request) (tag n : Nat) : Word :=
  match r.firstFailed tag n with
  | none => 0#32
  | some f => BitVec.ofNat 32 (f.2 + 256 * (f.1 - tag))

/-- The bytes of a copy's good destination lines (R387). -/
def Request.goodBytes (r : Request) (tag : Nat) (c : CopyJob) : Nat :=
  c.len - (dedup ((r.failed.map (·.1)).filter fun l => decide (tag ≤ l ∧ l < tag + c.lines))).foldl
    (fun n l => n + ((c.lineRange (l - tag)).2 - (c.lineRange (l - tag)).1)) 0

/-- Every piece below `n` from `tag` on has been performed. -/
def Request.piecesDone (r : Request) (tag n : Nat) : Bool :=
  decide (n ≤ (r.done.filter fun k => decide (tag ≤ k ∧ k < tag + n)).length)

/-- The status of a KICK item, once it is bad or its pieces are done (R218). -/
def Request.itemStatus (r : Request) (i : Nat) (x : KickItem) : Option Word :=
  if x.bad then some (BitVec.ofNat 32 (4 + 256 * i))
  else if r.piecesDone (itemPiece i) x.copy.pieces then some (r.statusOf (itemLine i) x.copy.lines)
  else none

/-- The bytes of an item that count as good. -/
def Request.itemGood (r : Request) (i : Nat) (x : KickItem) : Nat :=
  if x.bad then 0 else r.goodBytes (itemLine i) x.copy

/-- KICK_ITEM_COMPLETE (R218): the item's sink is updated, and its status noted. -/
def State.itemDone (s : State) (id i : Nat) : State :=
  match s.request id with
  | none => s
  | some r =>
    match r.body with
    | .kick list count items =>
      match items[i]? with
      | none => s
      | some x =>
        match if x.done.isSome || s.unacked id then none else r.itemStatus i x with
        | none => s
        | some status =>
          let note (s : State) : State :=
            s.modReq id fun r => { r with body := .kick list count (items.set i { x with done := some status }) }
          match x.sink with
          | none => note s
          | some k =>
            let s1 := s.spreadScope r.part k.reach (dieOf r.core)
            if !s1.mirrorClear (fun u => u.writer == reqWriter id) k.reach (dieOf r.core) then s1
            else if !s1.sinkMay r k status then s1.handCounter id r k
            else note ((s1.updateSink id r k x.copy.len (r.itemGood i x) status).spreadScope r.part k.reach
              (dieOf r.core))
    | _ => s

/-- KICK_ITEM_COMPLETE (R218). -/
def execKickItemComplete (req item : Nat) (s : State) : Host.Outcome State Fault Refusal := .next (s.itemDone req item)

/-- Units, good units and status of a request whose work is done (R214, R218, R220, R224, R405). -/
def State.outcomeOf (s : State) (id : Nat) (r : Request) : Option (Nat × Nat × Word) :=
  match r.body with
  | .copy c =>
    if r.piecesDone 0 c.pieces && !s.unacked id then some (c.len, r.goodBytes 0 c, r.statusOf 0 c.lines) else none
  | .kick _ _ items =>
    if !items.isEmpty && items.all fun x => x.done.isSome then
      let bad := items.find? fun x => x.done != some 0#32
      some (items.foldl (fun n x => n + x.copy.len) 0,
        (items.foldl (fun (n : Nat × Nat) x => (n.1 + 1, n.2 + r.itemGood n.1 x)) (0, 0)).2,
        (bad.bind (·.done)).getD 0#32)
    else none
  | .tilef desc image geom _ _ =>
    let x := Tile.of desc
    let lines := tileImageLines x (perLine image geom.toNat)
    if r.piecesDone 0 ((lines + 63) / 64) then
      some (64 * lines, 64 * lines - 64 * (dedup (r.failed.map (·.1))).length, r.statusOf 0 lines)
    else none
  | .fabx c red _ _ =>
    if r.abort.any fun w => w != 0#32 then some (c.len, 0, r.abort.getD 0#32)
    else if !r.piecesDone 0 c.lines || s.unacked id then none
    else if red && r.failed.isEmpty && r.abort.isNone then none
    else some (c.len, r.goodBytes 0 c, r.statusOf 0 c.lines)
  | _ => none

/-- REQUEST_COMPLETE (R214). -/
def execRequestComplete (req : Nat) (s : State) : Host.Outcome State Fault Refusal :=
  match (s.request req).filter fun r => !r.saved with
  | none => .next s
  | some r =>
    match s.outcomeOf req r with
    | none => .next s
    | some o => .next (s.finishRequest req r o.1 o.2.1 o.2.2)

/-! ## The matrix engine (R225, R228, R229, R388) -/

/-- Poison met by the matrix engine is logged (Table 25-2, event 0x03). -/
def State.logMatrix (s : State) (r : Request) (bad : Option Nat) : State :=
  match bad with
  | none => s
  | some b => if b % 256 = 5 then s.log 0x03 (.core r.core) (some r.part) 0 b else s

/-- MLOADB_COMPLETE (R225): its macros are loaded once every earlier request that shares them is done; rows that wait are
loaded later. -/
def execMloadbComplete (req : Nat) (s : State) : Host.Outcome State Fault Refusal :=
  match s.request req with
  | none => .next s
  | some r =>
    match r.body with
    | .mloadb desc image geom cores mb k0 c0 k =>
      if !s.mayWork r || !s.matrixTurn req r.body then .next s
      else
        let w := s.loadMacros req r desc image geom cores mb k0 c0 k (r.lines.headD 0) (r.failed.head?.map (·.2))
        let s1 := w.1.after.modReq req fun r => { r with lines := [w.2], failed := w.1.bad.toList.map fun b => (0, b) }
        if w.1.wait then .next s1
        else
          let s2 := s1.finishRequest req r 1 0 (BitVec.ofNat 32 (w.1.bad.getD 0))
          .next (if (s2.request req).isNone then s2.logMatrix r w.1.bad else s2)
    | _ => .next s

/-- The A-writer inspection of an MMA has completed (R228). -/
def State.writersDone (s : State) (m : MmaJob) : Bool :=
  match m.insp with
  | none => true
  | some q => (Tab.get? s.insps q).isNone

/-- MMA_K_BLOCK (R228, R229). -/
def execMmaKBlock (req : Nat) (s : State) : Host.Outcome State Fault Refusal :=
  match s.request req with
  | none => .next s
  | some r =>
    match r.body with
    | .mma m =>
      if m.kLen / 32 ≤ m.kb || !s.mayWork r || !s.matrixTurn req r.body || !s.writersDone m then .next s
      else
        let w := s.mmaStep req r m
        .next (w.1.modReq req fun r => { r with body := .mma w.2 })
    | _ => .next s

/-- Rows of an MMA that is complete, on its cores (R230). -/
def State.markRows (s : State) (id : Nat) (m : MmaJob) : State :=
  m.cores.foldl
    (fun (s : State) c => s.modCore c fun x =>
      { x with unseen := x.unseen.map fun (u : Unseen) => if u.req = id then { u with done := true } else u }) s

/-- MMA_COMPLETE (R228): the flag word is written, and the sink updated with one unit. -/
def execMmaComplete (req : Nat) (s : State) : Host.Outcome State Fault Refusal :=
  match s.request req with
  | none => .next s
  | some r =>
    match r.body with
    | .mma m =>
      if m.kb < m.kLen / 32 || r.saved then .next s
      else
        let s1 := if bitOf m.block 96 then s.writeBank (.scr r.gang) (m.bits 97 19) 4 m.flags else s
        let s2 := s1.finishRequest req r 1 0 (BitVec.ofNat 32 (m.bad.getD 0))
        .next (if (s2.request req).isNone then (s2.markRows req m).logMatrix r m.bad else s2)
    | _ => .next s

/-! ## Messages (R232, R233) -/

/-- MESSAGE_ARRIVAL (R233). -/
def execMessageArrival (msg : Nat) (s : State) : Host.Outcome State Fault Refusal := .next (s.messageArrives msg)

/-- MSEND_ANSWER (R232). -/
def execMsendAnswer (msg : Nat) (s : State) : Host.Outcome State Fault Refusal := .next (s.messageAnswered msg)

end Sys2Proof.Machine
end

