-- ==== Sys2Proof/Machine/EvFabric.lean ====
section
/-! DEFINITION. The steps of the mesh and of the Causeway: replay windows (R279, R394), frames and connections (R289
to R293), reduction windows (R294, R295, R405) and refused foreign flits (R396). -/

namespace Sys2Proof

/-! ## Frames (R290) -/

/-- Fields of a Causeway header (Table 14-6). -/
def CwFrame.bits (f : CwFrame) (lo len : Nat) : Nat := natBits f.header.toNat lo len
def CwFrame.addr (f : CwFrame) : Nat := f.bits 192 64
def CwFrame.seq (f : CwFrame) : Nat := f.bits 128 32
def CwFrame.ackseq (f : CwFrame) : Nat := f.bits 96 32
def CwFrame.gen (f : CwFrame) : Nat := f.bits 64 32
def CwFrame.member (f : CwFrame) : Nat := f.bits 48 16
def CwFrame.win (f : CwFrame) : Nat := f.bits 32 12
def CwFrame.opc (f : CwFrame) : Nat := f.bits 24 8
def CwFrame.status (f : CwFrame) : Nat := f.bits 16 8

/-- A frame of the form of R290. -/
def CwFrame.wellFormed (f : CwFrame) : Bool :=
  f.bits 0 8 == 1 && f.bits 8 8 == 0 && f.bits 44 4 == 0 && f.bits 176 16 == 0 && f.bits 160 16 == f.payload.length
    && f.payload.length % 16 == 0 && decide (f.payload.length ≤ 4096) && decide (1 ≤ f.opc ∧ f.opc ≤ 6)

end Sys2Proof

namespace Sys2Proof.Machine

/-! ## Replay windows (R279) -/

/-- The sender of a replay window (`linkOf`). -/
def senderOf (link : Nat) : Agent :=
  let n := link / 1024
  if n < 384 then .core n
  else if n < 768 then .slice (n - 384)
  else if n < 780 then .frontEnd (n - 768)
  else if n < 784 then .tierPort (n - 780)
  else .copyEngine ((n - 784) / 24) ((n - 784) % 24)

/-- A NACK of an entry reaches its sender: a first NACK waits 64 cycles, each further one of the same entry twice as
long, up to 4,096; entries after a refused one are refused with it, and go out again with it (R279). -/
def Link.nack (l : Link) (entry now : Nat) : Link :=
  let sent := l.unacked.filter fun n => decide (entry < n)
  let again := l.refused == some entry
  let behind := (l.refused.map fun n => decide (n < entry)).getD false && l.resend.isSome
  if behind then
    { l with unacked := if l.unacked.contains entry || decide (16 ≤ l.unacked.length) then l.unacked
                        else l.unacked ++ [entry] }
  else
    let wait := if again then Nat.min 4096 (2 * l.backoff) else 64
    { l with nacking := false, unacked := entry :: sent, refused := some entry, backoff := wait, resend := some (now + wait),
             nacks := if again then l.nacks + 1 else 1 }

/-- REQ_NACK_RECEIVE (R279); the 64th NACK of one entry in a row is logged once (R394). -/
def execReqNackReceive (link entry : Nat) (s : State) : Host.Outcome State Fault Refusal :=
  let l := Tab.getD s.net.links link Link.fresh
  let l' := l.nack entry s.net.cycle
  let s := s.setNet { s.net with links := Tab.set s.net.links link l' }
  .next (if l'.nacks = 64 ∧ l.nacks = 63 then s.log 0x08 (senderOf link) none 0 entry else s)

/-- BACKOFF_EXPIRY (R279): the refused entry and every later one are sent again, in order: what asks for the first goes on in
its next turn, and for each later one when it has become the first. -/
def execBackoffExpiry (link : Nat) (s : State) : Host.Outcome State Fault Refusal :=
  match Tab.get? s.net.links link with
  | none => .next s
  | some l =>
    match l.resend with
    | none => .next s
    | some due =>
      if due ≤ s.net.cycle then .next (s.setNet { s.net with links := Tab.set s.net.links link { l with resend := none } })
      else .next s

/-! ## Writes from outside (R291) -/

/-- The memory of a range of a window at this device; none outside the window (log 6). -/
def State.windowSpot (s : State) (part window off n : Nat) : Option Nat :=
  if s.windowBits part window 0 1 == 0 || decide (65536 * s.windowBits part window 92 36 < off + n) then none
  else some ((Config.windowBase part window + off) % 2 ^ 48)

/-- Bytes written at physical addresses in the manner of an SU access (R64, R291); a whole line clears its poison
(R386). -/
def State.performPhys (s : State) (key : Nat) (data : List Byte) : State :=
  let n := data.length
  ((List.range (if n = 0 then 0 else (key + n + 63) / 64 - key / 64)).foldl
    (fun (s : State) i =>
      let base := 64 * (key / 64 + i)
      let lo := Nat.max key base
      let hi := Nat.min (key + n) (base + 64)
      let v := natOfBytes ((data.drop (lo - key)).take (hi - lo))
      let s := if hi - lo = 64 then s.cleanLine base else s
      let s := s.writeDram base (BitVec.ofNat 512 (v * 2 ^ (8 * (lo - base)))) (lineMask (lo - base) (hi - lo))
      s.wake .glb (2 ^ 70 + base / 64) 0 fun _ => true) s).retestShared

/-- The operation of an atomic frame's payload (log 20). -/
def payloadFn (n : Nat) : Option AtomFn :=
  match natBits n 128 8 with
  | 16 => some (.cas (BitVec.ofNat 64 (natBits n 64 64)))
  | 17 => some .inc
  | 18 => some .dec
  | k => if k < 16 then (AtomOp.ofCode (BitVec.ofNat 4 k)).map AtomFn.op else none

/-- An STF of a peer performed on a line of this device (R188; log 20): the line before, and the state after. -/
def State.remoteStf (s : State) (key p : Nat) : Nat × State :=
  let s := s.startClear key
  let old := (s.dramLine key).toNat
  let v := stfValue (BitVec.ofNat 64 (natBits p 0 64)) (natBits p 168 1 == 1)
  let r := elementStore (entryOf (BitVec.ofNat 64 (natBits p 64 64))) (natBits p 144 2) (natBits p 152 16)
    (BitVec.ofNat 32 (natBits p 176 8)) v old
  (old, s.performPhys key (bytesOf r.val 64))

/-- An atomic or STF of a peer performed at this device: its old value, and the state after it; none where its payload or
its place is refused, or poisoned (R385). -/
def State.remoteAtomic (s : State) (part window off : Nat) (payload : List Byte) : Option (Nat × State) :=
  let p := natOfBytes payload
  let n := natBits p 136 8
  match s.windowSpot part window off n with
  | none => none
  | some key =>
    if s.linePoisoned key then none
    else if natBits p 128 8 = 19 then if n = 64 ∧ key % 64 = 0 then some (s.remoteStf key p) else none
    else
      match payloadFn p with
      | none => none
      | some fn =>
        if (n != 4 && n != 8) || key % n != 0 then none
        else
          let s := s.startClear key
          let old := natBits (s.dramLine key).toNat (8 * (key % 64)) (8 * n)
          match fn.apply n old (natBits p 0 64 % 2 ^ (8 * n)) with
          | none => some (old, s)
          | some r => some (old, s.performPhys key (bytesOf r.val n))

/-- The STATUS of the reply to an atomic that was not performed: 1 for poison, else 2 (Table 11-3). -/
def State.remoteStatus (s : State) (part window off : Nat) (payload : List Byte) : Nat :=
  match s.windowSpot part window off (natBits (natOfBytes payload) 136 8) with
  | none => 2
  | some key => if s.linePoisoned key then 1 else 2

/-! ## Acknowledgements (R291) -/

/-- A sequence number has been reached by a cumulative one, modulo 2^32. -/
def seqReached (seq ack : Nat) : Bool := decide ((ack + 2 ^ 32 - seq) % 2 ^ 32 < 2 ^ 31)

/-- A frame whose work ends with a reply, not with its acknowledgement (R291). -/
def Sent.awaitsReply (f : Sent) : Bool :=
  match f.use with
  | .atomic _ _ => true
  | .stf _ => true
  | _ => false

/-- Fields of a frame's header (Table 14-6). -/
def Sent.bits (f : Sent) (lo len : Nat) : Nat := natBits f.header.toNat lo len

/-- ACKSEQ advances where it reaches a frame that it had not reached: the frames up to it are complete, and visible at SYSTEM
scope, but for those that wait for a reply (R291). -/
def Conn.acknowledge (c : Conn) (ack now : Nat) : Conn :=
  let advanced := c.sent.any fun f => !f.acked && seqReached f.seq ack
  let mark (f : Sent) : Sent := { f with acked := f.acked || seqReached f.seq ack }
  { c with sent := (c.sent.map mark).filter fun f => !f.acked || f.awaitsReply,
           since := if advanced then now else c.since, resends := if advanced then 0 else c.resends }

/-- The windows of a partition that lead to a window of a peer. -/
def State.windowsAt (s : State) (part : Nat) (peer : BitVec 128) (rwin : Nat) : List Nat :=
  ((s.part part).pm.windows.filter fun (w : Nat × BitVec 256) =>
    bitOf w.2 0 && natBits w.2.toNat 128 128 == peer.toNat && natBits w.2.toNat 80 12 == rwin).map (·.1)

/-- A write or atomic that a peer has performed reaches the watches of its line, which stand at the front end (R199, R200). -/
def State.wakeWindow (s : State) (c : Conn) (f : Sent) : State :=
  if f.bits 24 8 ≠ 1 ∧ f.bits 24 8 ≠ 2 then s
  else
    (s.windowsAt c.part c.peer (f.bits 32 12)).foldl
      (fun (s : State) w =>
        s.wake .glb (2 ^ 71 + (s.part c.part).first * 2 ^ 50 + (w * 2 ^ 36 + f.bits 192 64) / 64) 0 fun _ => true) s

/-- An acknowledgement reaches a connection (R291). -/
def State.ackConn (s : State) (conn : Nat) (c : Conn) (ack : Nat) : State :=
  let s := s.setNet { s.net with conns := Tab.set s.net.conns conn (c.acknowledge ack s.net.cycle) }
  (c.sent.filter fun f => !f.acked && seqReached f.seq ack && !f.awaitsReply).foldl (fun (s : State) f => s.wakeWindow c f) s

/-- CAUSEWAY_ACK_RECEIVE (R291). -/
def execCausewayAckReceive (conn ackseq : Nat) (s : State) : Host.Outcome State Fault Refusal :=
  match Tab.get? s.net.conns conn with
  | none => .next s
  | some c => if c.failed then .next s else .next (s.ackConn conn c ackseq)

/-- The reply to an atomic of a thread: it completes with the value that the reply carries, and the flags of its operation,
or with the error that STATUS names (R191, R192, R194, R291). -/
def State.answerAtomic (s : State) (t order status value : Nat) : State :=
  match (s.thread t).bind fun th => th.outstanding order with
  | none => s
  | some o =>
    match o.kind with
    | .atomic acc fn operand _ d =>
      if status = 1 then s.faultLong t o (addrFault Code.poison acc.issued 0)
      else if status ≠ 0 then s.faultLong t o (addrFault Code.access acc.issued 8)
      else
        let old := value % 2 ^ (8 * acc.size)
        let flags := ((fn.apply acc.size old (operand.toNat % 2 ^ (8 * acc.size))).map (·.flags)).getD 0
        (s.modThread t fun th => ((th.setRegs (atomicWrites acc d old)).raise flags).endLong o.order).settleFault t
    | _ => s

/-- The reply to an STF of a thread, which carries the line before it (R188; log 20). -/
def State.answerStf (s : State) (t status value : Nat) : State :=
  match s.thread t with
  | none => s
  | some th =>
    match th.hold with
    | .finishing (.stf acc image geom index source wide) =>
      if status = 1 then s.faultHeld t th (addrFault Code.poison acc.issued 0)
      else if status ≠ 0 then s.faultHeld t th (addrFault Code.access acc.issued 8)
      else
        let r := elementStore (entryOf image) geom.toNat index th.frm (stfValue source wide) value
        s.setThread t { th.raise r.flags with hold := .none }
    | _ => s

/-- The reply of a peer: the oldest atomic or STF on the connection is answered. -/
def State.atomicReply (s : State) (conn : Nat) (c : Conn) (status value : Nat) : State :=
  match c.sent.find? Sent.awaitsReply with
  | none => s
  | some f =>
    let s := s.setNet { s.net with
      conns := Tab.set s.net.conns conn { c with sent := c.sent.filter fun g => g.seq != f.seq } }
    let s := if status = 0 then s.wakeWindow c f else s
    match f.use with
    | .atomic t order => s.answerAtomic t order status value
    | .stf t => s.answerStf t status value
    | _ => s

/-! ## Reduction windows (R294, R295, R405) -/

/-- The current generation of a window. -/
def State.generation (s : State) (part window : Nat) : Nat := (Sparse.get (s.part part).pm.gens window).toNat

/-- What the home device holds for a generation. -/
def State.reduction? (s : State) (part window gen : Nat) : Option (Nat × Reduction) :=
  s.net.reds.find? fun r => r.2.part == part && r.2.window == window && r.2.gen == gen

/-- A contribution or a merged result that arrives; one of a generation that is past is dropped (R405). -/
def State.holdContribution (s : State) (part window gen : Nat) (x : Contribution) : State :=
  if gen ≠ s.generation part window ∧ gen ≠ (s.generation part window + 1) % 2 ^ 32 then s
  else
    match s.reduction? part window gen with
    | none =>
      let r : Reduction := { part := part, window := window, gen := gen, parts := [x], merged := [] }
      s.setNet { s.net with reds := Tab.set s.net.reds (Tab.fresh s.net.reds) r }
    | some (k, r) => s.setNet { s.net with reds := Tab.set s.net.reds k { r with parts := r.parts ++ [x] } }

/-- One element combined from its contributions (R294); none for a reserved format or operation. -/
def combine (efmt rop : Nat) (xs : List Nat) : Option Nat :=
  let fold (f : Nat → Nat → Nat) : Nat := (xs.drop 1).foldl f (xs.headD 0)
  let floats (e : Entry) (shift : Nat) : Option Nat :=
    match rop with
    | 0 =>
      let vs := xs.map e.decode
      some (e.sum .rn false (vs.any Val.signals) vs).val
    | 1 => some (fold fun a b => (fminmax false (a * 2 ^ shift) (b * 2 ^ shift)).val / 2 ^ shift)
    | 2 => some (fold fun a b => (fminmax true (a * 2 ^ shift) (b * 2 ^ shift)).val / 2 ^ shift)
    | _ => none
  match efmt with
  | 0 => floats fp32 0
  | 1 => floats (entryOf (fixedImage 1)) 16
  | 6 =>
    match rop with
    | 0 => some (xs.foldl (· + ·) 0 % 2 ^ 32)
    | 1 => some (fold fun a b => if signedOf 4 a ≤ signedOf 4 b then a else b)
    | 2 => some (fold fun a b => if signedOf 4 b ≤ signedOf 4 a then a else b)
    | _ => none
  | _ => none

/-- Bytes of an element of EFMT (Table 14-7). -/
def elementBytes (efmt : Nat) : Nat := if efmt = 1 then 2 else 4

/-- The merged result of the contributions of one range: each element combined (R294). -/
def combineAll (efmt rop : Nat) (parts : List (List Byte)) : Option (List Byte) :=
  let n := elementBytes efmt
  let len := ((parts.headD []).length) / n
  let es := (List.range len).map fun i => combine efmt rop (parts.map fun p => natOfBytes ((p.drop (n * i)).take n))
  if es.all Option.isSome then some (es.flatMap fun e => bytesOf (e.getD 0) n) else none

/-- The merged result that stands ready for an offset: a switch's, or that of every member (R292, R294). -/
def State.mergedAt (s : State) (r : Reduction) (off : Nat) : Option (List Byte) :=
  let here := r.parts.filter fun x => x.off == off
  match here.find? fun x => x.whole with
  | some x => some x.data
  | none =>
    let members := dedup (here.map (·.member))
    if members.length = s.windowBits r.part r.window 64 16 then
      combineAll (s.windowBits r.part r.window 40 5) (s.windowBits r.part r.window 45 3)
        (members.filterMap fun m => (here.find? fun x => x.member == m).map (·.data))
    else none

/-- The offsets of a generation. -/
def Reduction.offsets (r : Reduction) : List Nat := dedup (r.parts.map (·.off))

/-- MERGED_RESULT_DELIVER (R294): what stands ready is written at the window's address. -/
def execMergedResultDeliver (part window : Nat) (s : State) : Host.Outcome State Fault Refusal :=
  match s.reduction? part window (s.generation part window) with
  | none => .next s
  | some (k, r) =>
    .next (r.offsets.foldl
      (fun (s : State) off =>
        match if r.merged.contains off then none else s.mergedAt r off with
        | none => s
        | some bytes =>
          match s.windowSpot part window off bytes.length with
          | none => s
          | some key =>
            let s := s.performPhys key bytes
            s.setNet { s.net with reds := Tab.modify s.net.reds k fun x => { x with merged := x.merged ++ [off] } }) s)

/-- The requests of this device that contributed to a generation end with a status, and the generation advances
(R295, R405). -/
def State.endGeneration (s : State) (part window gen : Nat) (status : Word) : State :=
  let s := { s with reqs := s.reqs.map fun (p : Nat × Request) =>
    match p.2.body with
    | .fabx _ true w g =>
      if p.2.part = part ∧ w = some window ∧ g = gen ∧ p.2.abort.isNone then (p.1, { p.2 with abort := some status }) else p
    | _ => p }
  let s := s.setNet { s.net with reds := s.net.reds.filter fun r =>
    !(r.2.part == part && r.2.window == window && r.2.gen == gen) }
  s.modPart part fun (p : Partition) =>
    { p with pm := { p.pm with gens := Sparse.set p.pm.gens window (BitVec.ofNat 32 (gen + 1)) } }

/-- The connections over which the home device acknowledges the members of a generation: those that it has heard from, and,
where a switch has merged contributions, every one that the partition has open, behind which members stand that it has not
heard from itself (R294, R295). DEDUCED: log 37. -/
def State.memberConns (s : State) (part : Nat) (parts : List Contribution) (all : Bool) : List Nat :=
  if all || parts.any (·.whole) then (s.net.conns.filter fun c => c.2.part == part && !c.2.failed).map (·.1)
  else dedup (parts.map (·.conn))

/-- The home device acknowledges the members (OPC 0x06). -/
def State.ackMembers (s : State) (part window gen status : Nat) (conns : List Nat) : State :=
  conns.foldl (fun (s : State) c => s.sendOn c 0 0 6 0 gen (s.windowBits part window 80 12) status [] .other) s

/-- REDUCTION_ACK (R295): once the merged result of the whole generation is written. -/
def execReductionAck (part window : Nat) (s : State) : Host.Outcome State Fault Refusal :=
  match s.reduction? part window (s.generation part window) with
  | none => .next s
  | some (_, r) =>
    if r.offsets.all r.merged.contains then
      .next ((s.ackMembers part window r.gen 0 (s.memberConns part r.parts false)).endGeneration part window r.gen 0#32)
    else .next s

/-- A window's generation aborted (R405): every member is told, nothing is written, and the generation advances. -/
def State.abortWindow (s : State) (part window : Nat) : State :=
  let gen := s.generation part window
  let s := s.ackMembers part window gen 3 (s.memberConns part [] true)
  (s.endGeneration part window gen 3#32).log 0x14 (.control 0 0) (some part) window gen

/-- WINDOW_ABORT (R405). -/
def execWindowAbort (part window : Nat) (s : State) : Host.Outcome State Fault Refusal :=
  if s.windowBits part window 0 2 = 3 then .next (s.abortWindow part window) else .next s

/-- An acknowledgement of a generation reaches a member (R295, R405). -/
def State.memberAck (s : State) (part window gen status : Nat) : State :=
  if s.windowBits part window 0 2 = 3 ∧ gen = s.generation part window then
    s.endGeneration part window gen (BitVec.ofNat 32 status)
  else s

/-! ## Connections (R292) -/

/-- What a frame of a failed connection completes: with an error. -/
def State.failSent (s : State) (f : Sent) : State :=
  match f.use with
  | .entry t addr => s.refuseEntry t addr.toNat 8 none
  | .atomic t order =>
    match (s.thread t).bind fun th => th.outstanding order with
    | none => s
    | some o =>
      match o.kind with
      | .atomic acc _ _ _ _ => s.faultLong t o (addrFault Code.access acc.issued 8)
      | _ => s
  | .stf t => s.answerStf t 2 0
  | .request id line => s.failLine id line 2
  | .other => s

/-- The reduction windows of a partition whose contributions travel on a connection: those that lead to its peer, and those
of which this device, their home, holds contributions that came on it (R292). -/
def State.windowsTo (s : State) (part : Nat) (peer : BitVec 128) (conn : Nat) : List Nat :=
  dedup (((s.part part).pm.windows.filter fun (w : Nat × BitVec 256) =>
      natBits w.2.toNat 0 2 == 3 && natBits w.2.toNat 128 128 == peer.toNat).map (·.1)
    ++ (s.net.reds.filter fun r => r.2.part == part && r.2.parts.any fun x => x.conn == conn).map fun r => r.2.window)

/-- CONNECTION_FAIL (R292). -/
def State.failConn (s : State) (conn : Nat) (c : Conn) : State :=
  let s := s.setNet { s.net with conns := Tab.set s.net.conns conn { c with failed := true, sent := [] } }
  let s := c.sent.foldl (fun (s : State) f => s.failSent f) s
  let s := (s.windowsTo c.part c.peer conn).foldl (fun (s : State) w => s.abortWindow c.part w) s
  let s := s.log 0x0C (.ethernet (s.portStack (dieOfIsle (s.part c.part).first))) (some c.part) 0 conn
  s.postPrincipal c.part 0xFE (interruptRecord 0 0 0 2 c.part 0xFE)

/-- The network cycles of R291. DEDUCED: log 38. -/
def resendSpan : Nat := 16384

/-- CAUSEWAY_RESEND_TIMEOUT (R291, R292). -/
def execCausewayResendTimeout (conn : Nat) (s : State) : Host.Outcome State Fault Refusal :=
  match Tab.get? s.net.conns conn with
  | none => .next s
  | some c =>
    if c.failed || c.sent.all (·.acked) || decide (s.net.cycle < c.since + resendSpan) then .next s
    else if 16 ≤ c.resends then .next (s.failConn conn c)
    else
      let c : Conn := { c with resends := c.resends + 1, since := s.net.cycle }
      .next (s.setNet { s.net with conns := Tab.set s.net.conns conn c })

/-- CONNECTION_OPEN (R292, R293): a window table entry is written; a valid one that names a peer without an open
connection opens one. Both ends start at SEQ 0, so that the first frame carries 1 (log 22). -/
def execConnectionOpen (part window : Nat) (entry : BitVec 256) (s : State) : Host.Outcome State Fault Refusal :=
  let s := s.modPart part fun (p : Partition) =>
    { p with pm := { p.pm with windows := Sparse.set p.pm.windows (window % 4096) entry } }
  let peer : BitVec 128 := slice entry 128 128
  if !bitOf entry 0 || s.net.conns.any fun c => c.2.part == part && c.2.peer == peer && !c.2.failed then .next s
  else
    let rest := s.net.conns.filter fun (c : Nat × Conn) => !(c.2.part == part && c.2.peer == peer)
    let c : Conn := { part := part, peer := peer, nextSeq := 1, recvSeq := 0, ackSent := 0, sent := [], since := s.net.cycle,
                      resends := 0, badSince := none, failed := false }
    .next (s.setNet { s.net with conns := Tab.set rest (Tab.fresh s.net.conns) c })

/-! ## CAUSEWAY_FRAME_RECEIVE (R289, R291) -/

/-- A frame in sequence performed. -/
def State.performFrame (s : State) (conn : Nat) (c : Conn) (f : CwFrame) : State :=
  match f.opc with
  | 1 =>
    match s.windowSpot c.part f.win f.addr f.payload.length with
    | none => s
    | some key => s.performPhys key f.payload
  | 2 =>
    match s.remoteAtomic c.part f.win f.addr f.payload with
    | some (old, s) => s.sendOn conn 0 f.addr 3 0 0 f.win 0 (bytesOf old (if old < 2 ^ 128 then 16 else 64)) .other
    | none => s.sendOn conn 0 f.addr 3 0 0 f.win (s.remoteStatus c.part f.win f.addr f.payload) (bytesOf 0 16) .other
  | 3 =>
    match Tab.get? s.net.conns conn with
    | none => s
    | some c => s.atomicReply conn c f.status (natOfBytes f.payload)
  | 4 =>
    s.holdContribution c.part f.win f.gen
      { conn := conn, member := f.member, off := f.addr, data := f.payload, whole := false }
  | 5 =>
    s.holdContribution c.part f.win f.gen
      { conn := conn, member := f.member, off := f.addr, data := f.payload, whole := true }
  | _ => s.memberAck c.part f.win f.gen f.status

/-- MACsec accepts a frame: its port is in service, its check value holds, and the receive association that it names has a
key, on a channel that the firmware has assigned to the connection's partition (R289, R316). -/
def State.frameValid (s : State) (c : Conn) (f : CwFrame) : Bool :=
  f.valid && s.portUp (.ethernet f.port)
    && ((Tab.get? s.net.macsec f.port).getD []).any fun (k : MacsecKey) =>
      !k.transmit && k.channel == f.channel && k.assoc == f.assoc && k.part == c.part

/-- A frame that MACsec does not validate is dropped; a peer of which none has passed over the span of 16 resends has
failed (R289, R292). DEDUCED: log 37. -/
def State.badFrame (s : State) (conn : Nat) (c : Conn) : State :=
  let since := c.badSince.getD s.net.cycle
  if since + 16 * resendSpan ≤ s.net.cycle then s.failConn conn c
  else s.setNet { s.net with conns := Tab.set s.net.conns conn { c with badSince := some since } }

/-- CAUSEWAY_FRAME_RECEIVE (R291): a frame in SEQ order is performed, another is dropped; either carries ACKSEQ, and either is
answered with the highest SEQ received in order. -/
def execCausewayFrameReceive (conn : Nat) (frame : CwFrame) (s : State) : Host.Outcome State Fault Refusal :=
  match Tab.get? s.net.conns conn with
  | none => .next s
  | some c =>
    if c.failed then .next s
    else if !s.frameValid c frame then .next (s.badFrame conn c)
    else if !frame.wellFormed then .next s
    else
      let s := s.ackConn conn { c with badSince := none } frame.ackseq
      match Tab.get? s.net.conns conn with
      | none => .next s
      | some c1 =>
        let next := (c.recvSeq + 1) % 2 ^ 32
        if frame.seq ≠ next then
          .next (s.setNet { s.net with conns := Tab.set s.net.conns conn { c1 with ackSent := c1.recvSeq } })
        else
          let c2 : Conn := { c1 with recvSeq := next, ackSent := next }
          let s := s.setNet { s.net with conns := Tab.set s.net.conns conn c2 }
          .next ((s.countFabric c.part 0 frame.payload.length).performFrame conn c2 frame)

/-- Two keys are for one association of a channel. -/
def sameAssoc (a b : MacsecKey) : Bool := a.transmit == b.transmit && a.channel == b.channel && a.assoc == b.assoc

/-- A key that a port can hold: 32 channels in each direction, with two associations each (R289). -/
def keyFits (k : MacsecKey) : Bool := decide (k.channel < 32 ∧ k.assoc < 2)

/-- The keys of a port after a load, newest last: those of the associations that it names are replaced (R289). -/
def loadKeys (old keys : List MacsecKey) : List MacsecKey :=
  keys.foldl (fun (l : List MacsecKey) k => if keyFits k then (l.filter fun x => !sameAssoc x k) ++ [k] else l) old

/-- MACSEC_KEY_LOAD (R289): the keys cannot be read; each assigns its channel to a partition. -/
def execMacsecKeyLoad (port : Nat) (keys : List MacsecKey) (s : State) : Host.Outcome State Fault Refusal :=
  .next (s.setNet { s.net with macsec := Tab.set s.net.macsec port (loadKeys ((Tab.get? s.net.macsec port).getD []) keys) })

/-! ## FOREIGN_PROBE_REFUSE (R396) -/

/-- The isle of what receives a flit, and the agent that the log names. -/
def receiverAgent : FlitReceiver → Agent
  | .l1 c => .core c
  | .slice n => .slice n
  | .bank i b => .bank i b
  | .frontEnd i => .frontEnd i

/-- The error reply that a requester sees (R394). -/
def State.errorReply (s : State) (t order : Nat) : State :=
  match (s.thread t).bind fun th => th.outstanding order with
  | none => s
  | some o =>
    match o.kind with
    | .load acc _ _ _ _ _ _ => s.faultLong t o (addrFault Code.access acc.issued 5)
    | .atomic _ _ _ _ _ => s.faultLong t o (plainFault Code.partitionProbe)
    | .insp id _ => ({ s with insps := Tab.erase s.insps id }).faultLong t o (plainFault Code.partitionProbe)
    | _ => s

/-- FOREIGN_PROBE_REFUSE (R286, R396): a flit of another partition than the receiver's is dropped, an error is the reply, and
event 0x0A holds the source endpoint and the partition; one of the receiver's own partition is not refused. -/
def execForeignProbeRefuse (receiver : FlitReceiver) (part source thread order : Nat) (s : State) : Host.Outcome State Fault Refusal :=
  if (s.part part).resident && (s.part part).holdsIsle (receiverAgent receiver).isle then .next s
  else .next ((s.log 0x0A (receiverAgent receiver) (some part) 0 source).errorReply thread order)

end Sys2Proof.Machine
end

