-- ==== Sys2Proof/Machine/JobOps.lean ====
section
/-! DEFINITION. Job and runtime instructions, OP B6 to B8 and SVC (R33, R34, R147, R235 to R237). -/

namespace Sys2Proof.Machine

/-! ## Cards on streams (R235, R345) -/

/-- A job whose card has been placed and not yet read. -/
def Job.placed (part vdev stream cardVa : Nat) : Job :=
  { part := part, vdev := vdev, stream := stream, cardVa := cardVa, card := 0#512, pipes := [], waits := [],
    phase := .queued, slots := 0, next := 0, started := 0, fmt := [], copies := [], stop := none,
    deps := [] }

/-- The number under which a stream of a virtual device stands. -/
def streamKey (vdev stream : Nat) : Nat := 256 * vdev + stream

/-- A stream descriptor that describes something (R260). -/
def Stream.valid (x : Stream) : Bool := bitOf x.desc 0

/-- QDEPTH (Table 13-1). -/
def Stream.depth (x : Stream) : Nat := natBits x.desc.toNat 32 12

/-- A stream of a virtual device: a descriptor with V = 0, of either, describes nothing (R260). -/
def Partition.stream? (p : Partition) (vdev stream : Nat) : Option Stream :=
  if stream < 256 && ((Tab.get? p.vdevs vdev).map VDev.valid).getD false then
    (Tab.get? p.streams (streamKey vdev stream)).filter Stream.valid
  else none

/-- A card placed on a stream: 0 queued, 1 the queue is full, 2 there is no such stream (R235). -/
def State.placeCard (s : State) (part vdev stream va : Nat) : Nat × State :=
  match (s.part part).stream? vdev stream with
  | none => (2, s)
  | some x =>
    if x.depth ≤ x.queue.length then (1, s)
    else
      let jn := Tab.fresh s.jobs
      let s := { s with jobs := Tab.set s.jobs jn (Job.placed part vdev stream va) }
      (0, s.modPart part fun (p : Partition) =>
        { p with streams := Tab.set p.streams (streamKey vdev stream) { x with queue := x.queue ++ [jn] } })

/-- JSPAWN (R235). -/
def execJspawn (h : Hdr) (x : JspawnArgs) (s : State) : Host.Outcome State Fault Refusal :=
  perThread (.jspawn h x) (fun _ s t =>
    match s.thread t with
    | none => .ok s
    | some th =>
      let va := th.pair x.a.toNat
      let stream := (th.b32 x.b).toNat
      if 2 ^ 56 ≤ va.toNat then .fault (addrFault Code.bounds va)
      else if va.toNat % 64 ≠ 0 then .fault (addrFault Code.misaligned va)
      else if !s.inspectable t .none 4 then .stall
      else
        let s := s.inspectFor t .none 4
        let (r, s) := s.placeCard (s.partOf t) (s.vdevOf t) stream va.toNat
        .ok (s.modThread t fun th => th.setReg x.d.toNat (BitVec.ofNat 32 r))) s

/-! ## The dealer (R33, R34) -/

/-- Fields of a card (Table 2-6). -/
def Job.recCount (j : Job) : Nat := cardBits j.card 288 32
def Job.recSize (j : Job) : Nat := cardBits j.card 272 16
def Job.maxGangs (j : Job) : Nat := cardBits j.card 260 12
def Job.argBase (j : Job) : Nat := 64 * cardBits j.card 192 50
def Job.nVar (j : Job) : Nat := cardBits j.card 184 2
def Job.minChunk (j : Job) : Nat := Nat.max 1 (cardBits j.card 56 8)
def Job.pipeBand (j : Job) : Bool := bitOf j.card 120

/-- Low bit of variant k's field (Table 2-6). -/
def variantBit : Nat → Nat
  | 0 => 64
  | 1 => 92
  | 2 => 128
  | _ => 156

/-- SIZE and ENTRY of a variant. -/
def Job.variantSize (j : Job) (k : Nat) : Nat := cardBits j.card (variantBit k + 16) 12
def Job.variantEntry (j : Job) (k : Nat) : Nat := cardBits j.card (variantBit k) 16

/-- The variants of a card. -/
def Job.variants (j : Job) : List Nat := List.range (j.nVar + 1)

/-- The largest SIZE, or none where some SIZE is 0 (R33). -/
def Job.cap (j : Job) : Option Nat :=
  if j.variants.any fun k => j.variantSize k == 0 then none
  else some (j.variants.foldl (fun n k => Nat.max n (j.variantSize k)) 0)

/-- The variant for a chunk: the smallest SIZE that holds it, where 0 counts as the largest; ties to the lowest
index (R33). -/
def Job.pickVariant (j : Job) (chunk : Nat) : Nat :=
  let size (k : Nat) : Nat := if j.variantSize k = 0 then 4096 else j.variantSize k
  match j.variants.filter fun k => decide (chunk ≤ size k) || j.variantSize k == 0 with
  | [] => 0
  | k :: ks => ks.foldl (fun b k => if size k < size b then k else b) k

/-- Records that the dealer still holds; none after a band has stopped (R368). -/
def Job.remaining (j : Job) : Nat := if j.stop.isSome then 0 else j.recCount - j.next

/-- The chunk that the dealer deals next (R33); the size classes of a pipeline band are ignored (R34). -/
def Job.chunk (j : Job) : Nat :=
  let slots := Nat.max 1 j.slots
  let c := Nat.max j.minChunk ((j.remaining + slots - 1) / slots)
  let c := min c j.remaining
  if j.pipeBand then c else match j.cap with | none => c | some n => min c n

/-- What a gang receives: ARGP, ARGN, ARGI and the variant. -/
structure Deal where
  argp    : DWord
  argn    : Word
  argi    : Word
  variant : Nat
  deriving DecidableEq, Repr

/-- The next chunk of a job; ARGN = 0 where no records remain. -/
def Job.deal (j : Job) : Deal :=
  let c := j.chunk
  { argp := BitVec.ofNat 64 (j.argBase + j.next * j.recSize), argn := BitVec.ofNat 32 c, argi := BitVec.ofNat 32 j.next,
    variant := if j.pipeBand then 0 else j.pickVariant c }

/-- A job after its next chunk is dealt: DRAINING once no records remain (R36). -/
def Job.afterDeal (j : Job) : Job :=
  let next := j.next + j.chunk
  { j with next := next, phase := if j.phase = .running ∧ j.recCount ≤ next then .draining else j.phase }

/-- A gang with a chunk. -/
def Gang.take (g : Gang) (d : Deal) : Gang := { g with argp := d.argp, argn := d.argn, argi := d.argi }

/-- The takers of a JNEXT: the gang, or every gang of a pipeline band (R34, R236). -/
def State.takers (s : State) (g : Nat) (j : Job) : List Nat := if j.pipeBand then s.bandGangs g else [g]

/-- The gangs of a list changed. -/
def State.mapGangs (s : State) (ts : List Nat) (f : Gang → Gang) : State :=
  { s with gangs := s.gangs.map fun (p : Nat × Gang) => if ts.contains p.1 then (p.1, f p.2) else p }

/-- JNEXT (R236). -/
def State.jnext (s : State) (t : Nat) (d : Reg) : State :=
  match s.thread t, s.jobOf t, s.gangOf t with
  | some th, some j, some g =>
    let ts := s.takers th.gang j
    if j.remaining = 0 then
      let s := s.mapGangs ts fun g => { g with argn := 0#32 }
      s.modThread t fun th => th.setPair d.toNat 0#64
    else
      let k := j.deal
      let v := if j.pipeBand then g.variant else k.variant
      let s := s.modJob g.job Job.afterDeal
      let s := s.mapGangs ts fun g => g.take k
      s.modThread t fun th => th.setPair d.toNat (pair64 k.argn (BitVec.ofNat 32 v))
  | _, _, _ => s

/-- JNEXT (R236); the dealer serves the members in increasing order of their GANG handles (R33). -/
def execJnext (h : Hdr) (x : DstPairArgs) (s : State) : Host.Outcome State Fault Refusal :=
  perGang (.jnext h x) (fun _ s t => .ok (s.jnext t x.d)) s

/-! ## Interrupts and services -/

/-- POSTI (R237). -/
def execPosti (h : Hdr) (x : PostiArgs) (s : State) : Host.Outcome State Fault Refusal :=
  perThread (.posti h x) (fun _ s t =>
    match s.thread t with
    | none => .ok s
    | some th =>
      let a := (th.reg x.a.toNat).toNat
      let b := (th.reg x.b.toNat).toNat
      let part := s.partOf t
      let vec := natBits a 16 8
      if natBits a 24 8 ≠ 0 then .fault (plainFault Code.bounds)
      else if !s.inspectable t .none 5 then .stall
      else
        let s := s.inspectFor t .none 5
        if (s.part part).runtimes.contains (natBits a 0 16) then
          let s := s.post (natBits a 0 16) vec (interruptRecord b t 0xB8 0 part vec)
          .ok (s.modThread t fun th => th.setReg x.d.toNat 0#32)
        else .ok (s.modThread t fun th => th.setReg x.d.toNat 1#32)) s

/-- The runtime thread of a thread's stream, as a signaller (R270). -/
def State.runtimeSig (s : State) (j : Job) : List (Nat × Nat) :=
  match (Tab.get? (s.part j.part).streams (streamKey j.vdev j.stream)).bind (·.runtime) with
  | none => []
  | some d => [(5, d)]

/-- SVC (R147): the issuer is inspected at SYSTEM, the interrupt posted, and the thread waits for the reply, as for a
message (DEDUCED: log 36). In an open section it fails with reason 5 (R380). -/
def execSvc (h : Hdr) (x : SvcArgs) (s : State) : Host.Outcome State Fault Refusal :=
  perThread (.svc h x) (unlessSection 5 fun pc s t =>
    match s.jobOf t with
    | none => .ok s
    | some j =>
      if !s.inspectable t .none 5 then .stall
      else
        let s := s.inspectFor t .none 5
        let s := s.postStream j.part j.vdev j.stream 0xFA (interruptRecord x.n.toNat t 0x0F 0 j.part 0xFA)
        let s := s.modThread t fun th => { th with hold := .wait (.svc x.d), pc := pc }
        .ok ((s.dropWaits t).addWaits t 6 0 0 (s.runtimeSig j))) s

/-- The runtime's reply to a waiting SVC (R147). -/
def State.svcAnswered (s : State) (t : Nat) (v : Word) : State :=
  match s.thread t with
  | none => s
  | some th =>
    match th.hold with
    | .wait (.svc d) =>
      let s := s.setThread t { th.setReg d.toNat v with hold := .none, pc := nextPc th.pc }
      (s.dropWaits t).inspSelf t
    | _ => s

end Sys2Proof.Machine
end

