-- ==== Sys2Proof/Machine/Pipe.lean ====
section
/-! DEFINITION. Pipes, OP B0 to B2 (R34, R35, R231): a QPUT or QGET acts at once where its ring lets it, and waits
otherwise. -/

namespace Sys2Proof.Machine

/-- A pipe instruction's pipe: the band's pipe block, its descriptor and its bank (R34, R231). -/
structure PipeUse where
  gang  : Gang
  pipe  : Pipe
  core  : Nat
  part  : Nat
  deriving DecidableEq, Repr

/-- The bound pipe that a thread names, or none (R231). -/
def State.pipeOf (s : State) (t p : Nat) : Option PipeUse :=
  match s.gangOf t with
  | none => none
  | some g =>
    match s.band g.band with
    | none => none
    | some b =>
      match b.pipes[p]? with
      | none => none
      | some x => if b.piped && x.valid then some { gang := g, pipe := x, core := coreOf t, part := s.partOf t } else none

/-- Bytes of an entry (Table 2-8). -/
def Pipe.entryBytes (p : Pipe) : Nat := 16 * p.esize

/-- A 32-bit word of a ring. -/
def State.ringWord (s : State) (u : PipeUse) (off : Nat) : Word :=
  let b := s.pipeSpot u.core u.part u.pipe off
  BitVec.ofNat 32 (s.readBank b.1 b.2 4)

/-- Head and tail (R34). -/
def State.pipeHead (s : State) (u : PipeUse) : Word := s.ringWord u 0
def State.pipeTail (s : State) (u : PipeUse) : Word := s.ringWord u 64

/-- Entries that a pipe holds: tail less head, modulo 2^32 (R231). -/
def State.pipeCount (s : State) (u : PipeUse) : Word := s.pipeTail u - s.pipeHead u

/-- A word of a ring written. -/
def State.setRingWord (s : State) (u : PipeUse) (off : Nat) (v : Word) : State :=
  let b := s.pipeSpot u.core u.part u.pipe off
  s.writeBank b.1 b.2 4 v.toNat

/-- Sixteen bytes copied between banks, with their poison (R384). -/
def State.copyWord (s : State) (src dst : Bank × Nat) : State :=
  s.performBank dst.1 dst.2 (BitVec.ofNat 128 (s.readBank src.1 src.2 16)) 0xFFFF#16 (s.bankPoisoned src.1 src.2 16)

/-- The bank of block `k` of ring entry `n`. -/
def State.entrySpot (s : State) (u : PipeUse) (n : Word) (k : Nat) : Bank × Nat :=
  s.pipeSpot u.core u.part u.pipe (128 + n.toNat % u.pipe.depth * u.pipe.entryBytes + 16 * k)

/-- The weights of a band's gangs as it is placed (R35). -/
def State.reweigh (s : State) (band : Nat) : State :=
  let gs := ((s.band band).map (·.gangs)).getD []
  { s with gangs := s.gangs.map fun (p : Nat × Gang) =>
      if gs.contains p.1 && ((s.band band).map (·.piped)).getD false then (p.1, s.weigh p.1 p.2) else p }

/-- The scope of the implicit inspection of a pipe instruction (R212). -/
def pipeScope (p : Pipe) : Nat := if p.space = .clu then 2 else 4

/-- The checks of an entry's address (R231): the issuing gang's own region, 16-byte alignment, and the room. -/
def State.entryFault (s : State) (t : Nat) (th : Thread) (u : PipeUse) (ea : DWord) : Option FaultInfo :=
  let place (n : Nat) := s.spot (coreOf t) th.gang u.part .scr ea.toNat n
  match place 1 with
  | none => some (addrFault Code.bounds ea)
  | some (b, _) =>
    if b ≠ .scr th.gang then some (addrFault Code.bounds ea)
    else if ea.toNat % 16 ≠ 0 then some (addrFault Code.misaligned ea)
    else if (place u.pipe.entryBytes).isNone then some (addrFault Code.bounds ea)
    else none

/-- The cost of moving an entry: a flit of the index and those of the entry's bytes, 256 to a flit (Table 13-3). -/
def State.pipeCost (s : State) (t : Nat) (u : PipeUse) : Budget :=
  match (s.pipeSpot u.core u.part u.pipe 0).1 with
  | .lag i => flitCost (1 + (u.pipe.entryBytes + 255) / 256) (dieOf (coreOf t)) (dieOfIsle i)
  | _ => Budget.none

/-- A QPUT begins its copy (R231): the entry, then the tail, whose write weighs the gangs of the pipe (R35), and the index. -/
def State.qputNow (s : State) (t : Nat) (pc : Addr56) (u : PipeUse) (src : Nat) (d : Reg) : State :=
  let i := s.pipeTail u
  let g := ((s.thread t).map (·.gang)).getD 0
  let s := (List.range u.pipe.esize).foldl
    (fun (s : State) k => s.copyWord (.scr g, src + 16 * k) (s.entrySpot u i k)) s
  let s := (s.payFor t (s.pipeCost t u)).setRingWord u 64 (i + 1#32)
  let s := s.modThread t fun th => { th.setReg d.toNat i with hold := .none, pc := nextPc pc }
  s.dropWaits t

/-- A QGET begins its copy (R231, R108). -/
def State.qgetNow (s : State) (t : Nat) (pc : Addr56) (u : PipeUse) (dst : Nat) (d : Reg) : State :=
  let i := s.pipeHead u
  let g := ((s.thread t).map (·.gang)).getD 0
  let s := (List.range u.pipe.esize).foldl
    (fun (s : State) k => s.copyWord (s.entrySpot u i k) (.scr g, dst + 16 * k)) s
  let s := (s.payFor t (s.pipeCost t u)).setRingWord u 0 (i + 1#32)
  let s := s.modThread t fun th => { th.setReg d.toNat i with hold := .none, pc := nextPc pc }
  (s.dropWaits t).inspSelf t

/-- The gang of a band with an index, as a signaller (R270). -/
def State.stageGang (s : State) (u : PipeUse) (index : Nat) : List (Nat × Nat) :=
  ((((s.band u.gang.band).map (·.gangs)).getD []).filter fun h =>
    ((s.gang h).map fun (g : Gang) => g.index == index).getD false).map fun h => (1, h)

/-- A QPUT acts, or waits on a full ring; one that may act waits for its budget (R268). -/
def State.qput (s : State) (t : Nat) (pc : Addr56) (u : PipeUse) (p src : Nat) (d : Reg) : LaneRes :=
  if u.pipe.depth ≤ (s.pipeCount u).toNat then
    let s := s.modThread t fun th => { th with hold := .wait (.qput p src d), pc := pc }
    .ok ((s.dropWaits t).addWaits t 1 u.pipe.space.code.toNat u.pipe.base (s.stageGang u u.pipe.cons))
  else if !s.affordsFor t (s.pipeCost t u) then s.waitLane t pc
  else .ok (s.qputNow t pc u src d)

/-- A QGET acts, or waits on an empty ring; one that may act waits for its budget (R268). -/
def State.qget (s : State) (t : Nat) (pc : Addr56) (u : PipeUse) (p dst : Nat) (d : Reg) : LaneRes :=
  if s.pipeCount u = 0#32 then
    let s := s.modThread t fun th => { th with hold := .wait (.qget p dst d), pc := pc }
    .ok ((s.dropWaits t).addWaits t 1 u.pipe.space.code.toNat u.pipe.base (s.stageGang u u.pipe.prod))
  else if !s.affordsFor t (s.pipeCost t u) then s.waitLane t pc
  else .ok (s.qgetNow t pc u dst d)

/-- A waiting QPUT or QGET tested again (R231, R268). -/
def State.retestPipe (s : State) (t : Nat) : State :=
  match s.thread t with
  | none => s
  | some th =>
    match th.hold with
    | .wait (.qput p src d) =>
      match s.pipeOf t p with
      | none => s
      | some u => if u.pipe.depth ≤ (s.pipeCount u).toNat || !s.affordsFor t (s.pipeCost t u) then s else s.qputNow t th.pc u src d
    | .wait (.qget p dst d) =>
      match s.pipeOf t p with
      | none => s
      | some u => if s.pipeCount u == 0#32 || !s.affordsFor t (s.pipeCost t u) then s else s.qgetNow t th.pc u dst d
    | _ => s

/-- QPUT (R231). -/
def execQput (h : Hdr) (x : QputArgs) (s : State) : Host.Outcome State Fault Refusal :=
  perThread (.qput h x) (fun pc s t =>
    match s.thread t, s.pipeOf t x.pipe.toNat with
    | some th, some u =>
      let ea : DWord := (th.reg x.a.toNat).setWidth 64
      let target : InspTarget := if x.g then .gang else .none
      if u.gang.index ≠ u.pipe.prod then .fault (plainFault Code.pipeUnbound)
      else
        match s.entryFault t th u ea with
        | some e => .fault e
        | none =>
          if !s.inspectable t target (pipeScope u.pipe) then .stall
          else (s.inspectFor t target (pipeScope u.pipe)).qput t pc u x.pipe.toNat (natBits ea.toNat 0 19) x.d
    | some _, none => .fault (plainFault Code.pipeUnbound)
    | none, _ => .ok s) s

/-- QGET (R231). -/
def execQget (h : Hdr) (x : QgetArgs) (s : State) : Host.Outcome State Fault Refusal :=
  perThread (.qget h x) (fun pc s t =>
    match s.thread t, s.pipeOf t x.pipe.toNat with
    | some th, some u =>
      let ea : DWord := (th.reg x.a.toNat).setWidth 64
      if u.gang.index ≠ u.pipe.cons then .fault (plainFault Code.pipeUnbound)
      else
        match s.entryFault t th u ea with
        | some e => .fault e
        | none =>
          if !s.inspectable t .none (pipeScope u.pipe) then .stall
          else (s.inspectFor t .none (pipeScope u.pipe)).qget t pc u x.pipe.toNat (natBits ea.toNat 0 19) x.d
    | some _, none => .fault (plainFault Code.pipeUnbound)
    | none, _ => .ok s) s

/-- QCOUNT (R231). -/
def execQcount (h : Hdr) (x : QcountArgs) (s : State) : Host.Outcome State Fault Refusal :=
  perThread (.qcount h x) (fun _ s t =>
    match s.pipeOf t x.pipe.toNat with
    | none => .fault (plainFault Code.pipeUnbound)
    | some u => .ok (s.modThread t fun th => th.setReg x.d.toNat (s.pipeCount u))) s

end Sys2Proof.Machine
end

