-- ==== Sys2Proof/Machine/EvJob.lean ====
section
/-! DEFINITION. The command processors' and the dealer's steps (R17 to R20, R30 to R39, R66, R260 to R263, R398):
cards admitted or refused, jobs started, gangs and bands placed and retired, job sinks written, descriptors and
runtime threads set. -/

namespace Sys2Proof.Machine

/-! ## Reading a card (R31, R34) -/

/-- A line of a virtual device's memory as the command processor reads it; one that it cannot read, or that is
poisoned, reads as zeros (log 23). -/
def State.cardLine (s : State) (part asid va : Nat) : BitVec 512 × State :=
  let p := s.part part
  match if va < 2 ^ 56 then s.walkNow p asid va else .missing with
  | .leaf pte =>
    if (s.permit part (32 * p.first) .load asid va pte).isSome then (0#512, s)
    else
      let r := s.homeLine part asid va pte (2 ^ 64 - 1) p.primaryDie none
      (if r.poison then 0#512 else r.data, r.after)
  | _ => (0#512, s)

def Job.waitCount (j : Job) : Nat := cardBits j.card 256 3
def Job.waitBlock (j : Job) : Nat := j.cardVa + 64 * cardBits j.card 242 14
def Job.sinkKind (j : Job) : Nat := cardBits j.card 369 2
def Job.sinkScope (j : Job) : Nat := cardBits j.card 371 3
def Job.formatImage (j : Job) : Nat := j.codeBase + 256 * cardBits j.card 40 16
def Job.hasImage (j : Job) : Bool := cardBits j.card 40 16 != 0

/-- The wait conditions in a wait block (R31). -/
def waitEntries (n : Nat) (block : BitVec 512) : List (Nat × DWord) :=
  (List.range (Nat.min n 4)).map fun i => (natBits block.toNat (128 * i) 64, BitVec.ofNat 64 (natBits block.toNat (128 * i + 64) 64))

/-- The pipe descriptors in a pipe block (Table 2-8). -/
def pipeEntries (block : BitVec 512) : List Pipe :=
  (List.range 4).map fun i =>
    let n := natBits block.toNat (128 * i) 128
    { valid := natBits n 0 1 == 1, space := if natBits n 69 3 = 2 then .clu else .lag, base := natBits n 96 32,
      depth := natBits n 80 16, esize := natBits n 72 8, prod := natBits n 64 5, cons := natBits n 59 5 }

/-- The handles that a card names: index and whether it writes (Table 2-6). -/
def Job.handles (j : Job) : List (Nat × Bool) :=
  ([374, 384, 394, 404, 414, 424, 434, 448].map fun lo => (cardBits j.card lo 9, cardBits j.card (lo + 9) 1 == 1)).filter
    fun (h : Nat × Bool) => h.1 != 0

/-! ## Room (R30, R33, R263) -/

/-- Slot rows of a gang. -/
def rowsOf (threads : Nat) : Nat := (threads + 31) / 32

/-- The gangs on a core, with their jobs. -/
def State.gangsOn (s : State) (core : Nat) : List (Nat × Gang) := s.gangs.filter fun (g : Nat × Gang) => coreOf g.1 == core

/-- The sum of a resource over the gangs on a core. -/
def State.usedOn (s : State) (core : Nat) (f : Gang → Job → Nat) : Nat :=
  (s.gangsOn core).foldl (fun n (g : Nat × Gang) => n + ((s.job g.2.job).map (f g.2)).getD 0) 0

/-- Resident crews of a core. -/
def State.crewsOn (s : State) (core : Nat) : Nat := s.usedOn core fun g _ => rowsOf g.threads

/-- The gangs of a job that a core's room holds (R30): slot rows, registers, private bytes and scratchpad left. -/
def Job.fit (j : Job) (rows regs priv scr : Nat) : Nat :=
  let crews := Nat.min rows (regs / Nat.max 1 j.regCount)
  let crews := if j.privBytes = 0 then crews else Nat.min crews (priv / j.privBytes)
  let gangs := crews / Nat.max 1 (rowsOf j.gangThreads)
  if j.scratchBytes = 0 then gangs else Nat.min gangs (scr / j.scratchBytes)

/-- The further gangs of a job that fit on a core now (R33). -/
def State.fitOn (s : State) (j : Job) (core : Nat) : Nat :=
  j.fit (192 - s.crewsOn core) (12288 - s.usedOn core fun g x => rowsOf g.threads * x.regCount)
    (8192 - s.usedOn core fun g x => rowsOf g.threads * x.privBytes)
    (524288 - (s.part j.part).lend - s.usedOn core fun _ x => x.scratchBytes)

/-- The slot rows of a core that gangs occupy. -/
def State.rowsTaken (s : State) (core : Nat) : List Nat :=
  (s.gangsOn core).flatMap fun (g : Nat × Gang) => (List.range (rowsOf g.2.threads)).map (· + g.2.slot)

/-- The lowest slot base at which a gang's rows are free (R18). -/
def State.slotBase (s : State) (core threads : Nat) : Option Nat :=
  let taken := s.rowsTaken core
  let n := rowsOf threads
  (List.range 192).find? fun b => decide (b + n ≤ 192) && (List.range n).all fun i => !taken.contains (b + i)

/-- The isles that a stream's descriptor allows (Table 13-1). -/
def State.allowedIsles (s : State) (j : Job) : List Nat :=
  let p := s.part j.part
  let bits := ((Tab.get? p.streams (streamKey j.vdev j.stream)).map (·.desc)).getD 0#64
  p.isles.filter fun i => natBits bits.toNat (44 + (i - p.first)) 1 == 1

/-- The isles of those that run (R263, R316, R318). -/
def State.usableIsles (s : State) (j : Job) : List Nat :=
  (s.allowedIsles j).filter fun i => (s.isle i).power == .run && !(s.isle i).outOf && !s.isleAbsent i

/-- Cores of an isle. -/
def coresOfIsle (i : Nat) : List Nat := (List.range 32).map (· + 32 * i)

/-- A core can take one gang of a job. -/
def State.holdsOne (s : State) (j : Job) (core : Nat) : Bool :=
  decide (1 ≤ s.fitOn j core) && (s.slotBase core j.gangThreads).isSome

/-- The core of a list with the fewest resident crews, ties to the lowest number (R263). -/
def State.fewest (s : State) (cores : List Nat) : Option Nat :=
  cores.foldl
    (fun (best : Option Nat) c => match best with
      | none => some c
      | some b => if s.crewsOn c < s.crewsOn b ∨ (s.crewsOn c = s.crewsOn b ∧ c < b) then some c else some b) none

/-- The `n` cores of a list with the fewest resident crews. -/
def State.fewestOf (s : State) (cores : List Nat) : Nat → List Nat
  | 0 => []
  | n + 1 =>
    match s.fewest cores with
    | none => []
    | some c => c :: s.fewestOf (without cores c) n

/-- Gangs of a job that are placed. -/
def State.gangsOfJob (s : State) (jn : Nat) : List (Nat × Gang) := s.gangs.filter fun (g : Nat × Gang) => g.2.job == jn

/-- The dealer wants `n` more gangs of a job placed (R33): records remain and slots are free; without records, slots
gangs start once. -/
def State.wants (s : State) (jn : Nat) (j : Job) (n : Nat) : Bool :=
  let more := if j.recCount = 0 then decide (j.started + n ≤ j.slots)
    else decide (0 < j.remaining ∧ (s.gangsOfJob jn).length + n ≤ j.slots)
  j.phase == .running && j.stop.isNone && (s.part j.part).resident && more

/-- Where the next gang of a job goes: core and slot base (R263). -/
def State.gangSpot (s : State) (jn : Nat) (j : Job) : Option (Nat × Nat) :=
  if 1 < j.bandWidth || !s.wants jn j 1 then none
  else
    match s.fewest (((s.usableIsles j).flatMap coresOfIsle).filter fun c => s.holdsOne j c) with
    | none => none
    | some c => (s.slotBase c j.gangThreads).map fun b => (c, b)

/-- Where the next band of a job goes: the core and slot base of each index (R263). -/
def State.bandSpots (s : State) (jn : Nat) (j : Job) : Option (List (Nat × Nat)) :=
  let n := j.bandWidth
  if n < 2 || !s.wants jn j n then none
  else
    match (s.usableIsles j).find? fun i => decide (n ≤ ((coresOfIsle i).filter fun c => s.holdsOne j c).length) with
    | none => none
    | some i =>
      let chosen := s.fewestOf ((coresOfIsle i).filter fun c => s.holdsOne j c) n
      some (((coresOfIsle i).filter chosen.contains).filterMap fun c =>
        (s.slotBase c j.gangThreads).map fun b => (c, b))

/-! ## Placement (R18 to R20, R33, R34, R39, R66) -/

/-- A thread at launch (R20): the registers and private memory read as zero (R66). DESIGN CHOICE: log 3. -/
def Job.newThread (j : Job) (gang tid variant : Nat) : Thread where
  gang := gang
  tid := tid
  pc := BitVec.ofNat 56 (j.codeBase + 12 * j.variantEntry variant)
  regs := []
  preds := 0#8
  flg := 0#32
  frm := 0#32
  hnd := 0#64
  csp := BitVec.ofNat 32 j.privBytes
  cych := none
  choice := { cpd := 0#32, trb := 0#32, trp := 0#32, trl := BitVec.ofNat 32 (j.privBytes / 2), fser := 0#32,
              link := none, cancel := false, elide := none }
  faults := { fcause := 0#32, fpc := 0#64, fopc := 0#32, fopd := 0#32, fopa := 0#64, fopb := 0#64, fimm := 0#32,
              fmod := 0#32, faddrl := 0#32, faddrh := 0#32, fguard := 0#32, finfo := 0#32, inh := false }
  priv := []
  privPoison := []
  psq := []
  nextSeq := 0
  order := 0
  longs := []
  hold := .none
  watch := none
  tokens := []
  asyncs := []
  marks := { release := false, solo := false, yld := 0, age := 0, keepA := none, inRun := false }
  poison := []
  missed := none
  last := 0#96
  opa := 0#64
  opb := 0#64

/-- The deal of the next gang: without records, variant 0 and an empty chunk (R33). -/
def Job.firstDeal (j : Job) : Deal :=
  if j.recCount = 0 then { argp := BitVec.ofNat 64 j.argBase, argn := 0#32, argi := 0#32, variant := 0 } else j.deal

/-- A job after a placement of `n` gangs. -/
def Job.placedMore (j : Job) (n : Nat) (deals : Bool) : Job :=
  let j := if deals && j.recCount != 0 then j.afterDeal else j
  let started := j.started + n
  let done := decide (j.recCount = 0 ∧ j.slots < started + n)
  { j with started := started, phase := if done && j.phase == .running then .draining else j.phase }

/-- The handles of a gang's threads leave what earlier threads of these handles have observed, and a token that one of them
never consumed is no token of the new ones (R213, R230). -/
def Unseen.forget (u : Unseen) (mine : Nat → Bool) : Unseen :=
  { u with token := u.token.map fun x => if mine x.1 then (noThread, x.2) else x, seen := u.seen.filter fun t => !mine t }

/-- The handles of the threads of a gang on a slot base. -/
def gangHandles (core slot threads : Nat) : List Nat :=
  (List.range threads).map fun i => handleOf core (slot + i / 32) (i % 32)

/-- A gang of a job placed on a core: its region and its threads, of which the first issues only after the core has
dropped its non-owned global lines, where the job is new on the core (R39 step 1). -/
def State.putGang (s : State) (jn : Nat) (j : Job) (core slot index band variant : Nat) (k : Deal) : State :=
  let h := handleOf core slot 0
  let s := if (s.gangsOfJob jn).any fun (g : Nat × Gang) => coreOf g.1 == core then s else s.dropL1 core fun _ => true
  let hs := gangHandles core slot j.gangThreads
  let s := { s with cores := s.cores.map fun (c : Nat × Core) =>
    (c.1, { c.2 with unseen := c.2.unseen.map fun (u : Unseen) => u.forget hs.contains }) }
  let g : Gang :=
    { job := jn, number := j.started + index, threads := j.gangThreads, slot := slot, band := band, index := index,
      variant := variant, argp := k.argp, argn := k.argn, argi := k.argi, phase := .placed, scratch := [],
      scrPoison := [], debug := false, stopped := false, stopBand := false, parkedOn := none, halved := false }
  (List.range j.gangThreads).foldl
    (fun (s : State) i => s.setThread (handleOf core (slot + i / 32) (i % 32)) (j.newThread h i variant)) (s.setGang h g)

/-- The lowest free band number of an isle, with the isle: the key of the new band (R19). DESIGN CHOICE: log 43. -/
def State.newBand (s : State) (isle : Nat) : Nat :=
  8192 * isle + (((List.range 8192).find? fun b => (s.band (8192 * isle + b)).isNone).getD 0)

/-- GANG_PLACE (R263): a gang that is a band of one. -/
def State.placeGang (s : State) (jn core slot : Nat) : State :=
  match s.job jn with
  | none => s
  | some j =>
    if s.gangSpot jn j ≠ some (core, slot) then s
    else
      let k := j.firstDeal
      let b := s.newBand (isleOf core)
      let s := s.putGang jn j core slot 0 b k.variant k
      let s := { s with bands := Tab.set s.bands b { job := jn, gangs := [handleOf core slot 0], pipes := j.pipes,
                                                     piped := j.pipeBand } }
      s.modJob jn fun j => j.placedMore 1 true

/-- GANG_PLACE (R263). -/
def execGangPlace (job core slot : Nat) (s : State) : Host.Outcome State Fault Refusal := .next (s.placeGang job core slot)

/-- The gangs of a band placed, each with its chunk, or all with the band's (R33, R34). -/
def State.putBand (s : State) (jn b : Nat) (spots : List (Nat × Nat)) : State :=
  ((spots.zip (List.range spots.length)).foldl
    (fun (s : State) (p : (Nat × Nat) × Nat) =>
      match s.job jn with
      | none => s
      | some j =>
        let k := j.firstDeal
        let v := if j.pipeBand then p.2 % (j.nVar + 1) else k.variant
        let s := s.putGang jn j p.1.1 p.1.2 p.2 b v k
        if j.pipeBand || j.recCount == 0 then s else s.modJob jn Job.afterDeal) s)

/-- BAND_PLACE (R263, R36): all gangs at once, or none; the stages of a pipeline take their first weights (R35). -/
def State.placeBand (s : State) (jn : Nat) (spots : List (Nat × Nat)) : State :=
  match s.job jn with
  | none => s
  | some j =>
    if s.bandSpots jn j ≠ some spots then s
    else
      let b := s.newBand (isleOf (spots.headD (0, 0)).1)
      let s := s.putBand jn b spots
      let s := s.modJob jn fun j => j.placedMore spots.length j.pipeBand
      let band : Band := { job := jn, gangs := spots.map fun x => handleOf x.1 x.2 0, pipes := j.pipes, piped := j.pipeBand }
      ({ s with bands := Tab.set s.bands b band }).reweigh b

/-- BAND_PLACE (R263). -/
def execBandPlace (job : Nat) (spots : List (Nat × Nat)) (s : State) : Host.Outcome State Fault Refusal :=
  .next (s.placeBand job spots)

/-! ## Checking a card (R398) -/

/-- The first field of a card, by its lowest bit, that breaks Table 2-6. -/
def Job.fieldOffence (j : Job) : Option Nat :=
  let c (lo len : Nat) : Nat := cardBits j.card lo len
  ([(120, j.pipeBand && !(j.pipes.any (·.valid))), (121, c 121 7 != 0), (186, c 186 6 != 0), (256, decide (4 < c 256 3)),
    (259, c 259 1 != 0), (272, c 272 16 == 0), (320, c 320 13 == 0 || decide (6144 < c 320 13)),
    (333, c 333 6 == 0 || decide (32 < c 333 6)), (339, c 339 7 == 0 || decide (64 < c 339 7)),
    (346, decide (4096 < c 346 13)), (359, decide (512 < c 359 10)), (371, c 371 3 == 0 || decide (5 < c 371 3)),
    (444, c 444 4 != 0), (510, c 510 2 != 0)].find? fun (p : Nat × Bool) => p.2).map (·.1)

/-- A pipe descriptor that breaks Table 2-8; the space code is checked where it is read (R398). -/
def State.pipeOffence (s : State) (j : Job) (block : BitVec 512) (i : Nat) : Bool :=
  match j.pipes[i]? with
  | none => false
  | some x =>
    let code := natBits block.toNat (128 * i + 69) 3
    let p := s.part j.part
    let room := if code = 2 then 8 * p.lend else p.size * 2 ^ 27
    x.valid && (decide (x.depth < 2) || x.esize == 0 || (code != 2 && code != 3) || x.base % 64 != 0
      || decide (j.bandWidth ≤ x.prod ∨ j.bandWidth ≤ x.cons) || x.prod == x.cons
      || decide (room < x.base + 128 + x.depth * x.esize * 16))

/-- No core that the stream allows could hold a gang, even empty (R398). -/
def State.occupancyOffence (s : State) (j : Job) : Bool :=
  (s.allowedIsles j).isEmpty || j.fit 192 12288 8192 (524288 - (s.part j.part).lend) == 0

/-- DETAIL of the first refusal of a card (R398). -/
def State.cardOffence (s : State) (j : Job) (waits : List (Nat × DWord)) (block : BitVec 512) : Option Nat :=
  match j.fieldOffence with
  | some b => some b
  | none =>
    match (List.range waits.length).find? fun i => ((waits[i]?).map fun w => w.1 % 8 != 0).getD false with
    | some i => some (2 ^ 9 + i)
    | none =>
      match if j.pipeBand then (List.range 4).find? fun i => s.pipeOffence j block i else none with
      | some i => some (2 ^ 10 + i)
      | none => if s.occupancyOffence j then some (2 ^ 11) else none

/-- The bank and offset of a kind-1 job sink, where its location keeps Table 2-6a. -/
def State.jobObject (s : State) (j : Job) : Option (Bank × Nat) :=
  let a := 16 * cardBits j.card 461 28
  let c := cardBits j.card 489 6
  let p := s.part j.part
  if cardBits j.card 495 15 ≠ 0 then none
  else if cardBits j.card 458 3 = 2 then
    if p.cores.contains (8 * c) then s.spot (8 * c) 0 j.part .clu a 16 else none
  else if cardBits j.card 458 3 = 3 ∧ c = 0 then s.spot (32 * p.first) 0 j.part .lag a 16
  else none

/-- The sink location of a card is at fault (R32, R398). -/
def State.sinkOffence (s : State) (j : Job) : Bool :=
  match j.sinkKind with
  | 0 => cardBits j.card 458 52 != 0
  | 1 => (s.jobObject j).isNone
  | 2 => false
  | _ => cardBits j.card 482 28 != 0 || !(s.part j.part).runtimes.contains (cardBits j.card 458 16)

/-! ## Job sinks (R32, R368) -/

/-- The counter of a kind-2 job sink may be added to, or will not be: an update of its Mirror line stands in the way, or its
home has no room (R63, R280). Its page without a leaf is an error, since no runtime is asked for it (log 33). -/
def State.jobCounterMay (s : State) (j : Job) : Bool :=
  let va := 16 * cardBits j.card 458 52
  j.sinkKind != 2 || s.counterMay j.part (s.asidOfJob j) va [va / 65536]

/-- A job's sink written with a status (R32, R214). -/
def State.writeJobSink (s : State) (jn : Nat) (j : Job) (status : Word) : State :=
  match j.sinkKind with
  | 0 => s
  | 1 =>
    match s.jobObject j with
    | none => s
    | some b =>
      let o := s.arrObj b
      if status = 0#32 then s.putArrObj b (o.arrive 1)
      else s.putArrObj b { o with status := if o.status = 0 then natBits status.toNat 0 8 else o.status }
  | 2 =>
    let va := 16 * cardBits j.card 458 52
    let core := 32 * (s.part j.part).first
    if status ≠ 0#32 then s
    else
      match s.addCounter j.part j.vdev (s.asidOfJob j) va 1 with
      | some s => s
      | none => s.counterError jn 0 0 va j.part core 2#32
  | _ =>
    let vec := cardBits j.card 474 8
    s.post (cardBits j.card 458 16) vec (interruptRecord jn 0 0 (natBits status.toNat 0 8) j.part vec)

/-- The scope at which a job's writes stand before its sink; a reserved one is DEVICE (R39, R309, R398). -/
def Job.reach (j : Job) : Nat :=
  if j.sinkKind = 3 then 5 else if j.sinkScope = 0 ∨ 5 < j.sinkScope then 4 else j.sinkScope

/-- A job retires: the wait conditions of the partition's jobs are evaluated again (R262). -/
def State.retireJob (s : State) (jn : Nat) : State :=
  match s.job jn with
  | none => s
  | some j =>
    let s := s.modJob jn fun j => { j with phase := .retired }
    { s with jobs := s.jobs.map fun (p : Nat × Job) => if p.2.part = j.part then (p.1, { p.2 with waits := s.openWaits p.2 }) else p }

/-- The status of a job's sink (R368). -/
def Job.endStatus (j : Job) : Word :=
  match j.stop with
  | none => 0#32
  | some (code, inh) => BitVec.ofNat 32 (4 + 256 * (code % 256 + 256 * bit inh))

/-- A job has no work left: its gangs have retired and its requests are complete (R39 step 4). -/
def State.jobOver (s : State) (jn : Nat) (j : Job) : Bool :=
  j.phase == .draining && j.remaining == 0 && (s.part j.part).saved.isNone && (s.gangsOfJob jn).isEmpty
    && s.reqs.all fun (r : Nat × Request) => r.2.job != jn

/-- JOB_SINK_WRITE (R32, R39). -/
def execJobSinkWrite (job : Nat) (s : State) : Host.Outcome State Fault Refusal :=
  match s.job job with
  | none => .next s
  | some j =>
    if !s.jobOver job j then .next s
    else
      let s1 := if 4 ≤ j.reach then s.spreadMirror j.part fun _ => true else s
      if 4 ≤ j.reach ∧ !(s1.mem.updates.all fun u => u.2.job != some job) then .next s1
      else if !s1.jobCounterMay j then .next s1
      else
        let s2 := s1.writeJobSink job j j.endStatus
        .next ((if 4 ≤ j.reach then s2.spreadMirror j.part fun _ => true else s2).retireJob job)

/-! ## Admission (R37, R38, R261, R262, R398) -/

/-- A job is retired, or is not known any more. -/
def State.jobRetired (s : State) (jn : Nat) : Bool := ((s.job jn).map fun j => j.phase == .retired).getD true

/-- The stream's previous job has reached RUNNING (R37). -/
def State.streamFree (s : State) (x : Stream) : Bool :=
  match x.last with
  | none => true
  | some jn => ((s.job jn).map fun j => j.phase != .queued && j.phase != .admitted).getD true

/-- The streams of a partition in the order of examination (R261). DEDUCED: log 18. -/
def Partition.rotated (p : Partition) : Tab Stream :=
  (p.streams.filter fun (x : Nat × Stream) => decide (p.rotation ≤ x.1)) ++ p.streams.filter fun (x : Nat × Stream) => decide (x.1 < p.rotation)

/-- The head that the command processor takes next: the stream, described and with a runtime thread, and the job (R37, R260,
R261). -/
def State.nextHead (s : State) (p : Partition) : Option (Nat × Nat) :=
  (p.rotated.find? fun (x : Nat × Stream) =>
    (p.stream? (x.1 / 256) (x.1 % 256)).isSome && x.2.runtime.isSome && !x.2.queue.isEmpty && s.streamFree x.2).map
    fun (x : Nat × Stream) => (x.1, x.2.queue.headD 0)

/-- A job's handles entered in the table: what it waits for, and the table (R38). -/
def enterHandles (jn : Nat) (hs : List (Nat × Bool)) (t : Tab HandleRec) : List Nat × Tab HandleRec :=
  hs.foldl
    (fun (w : List Nat × Tab HandleRec) h =>
      let e := Tab.getD w.2 h.1 { writer := none, readers := [] }
      let writer := e.writer.toList
      if h.2 then (w.1 ++ writer ++ e.readers, Tab.set w.2 h.1 { writer := some jn, readers := [] })
      else (w.1 ++ writer, Tab.set w.2 h.1 { e with readers := addOnce e.readers jn })) ([], t)

/-- The head of a stream leaves its queue. -/
def State.takeHead (s : State) (part key jn : Nat) : State :=
  s.modPart part fun (p : Partition) =>
    { p with streams := Tab.modify p.streams key fun x => { x with queue := x.queue.drop 1, last := some jn } }

/-- CARD_REFUSE (R398): the job retires at once, with an error in its sink, or vector 0xFC where its sink location is
at fault. -/
def State.refuseCard (s : State) (jn : Nat) (j : Job) (detail : Nat) (badSink : Bool) : State :=
  let s := s.log 0x10 (.control (dieOfIsle (s.part j.part).first) 0) (some j.part) j.cardVa (4 + 256 * detail)
  let s := if badSink then s.postStream j.part j.vdev j.stream 0xFC (interruptRecord jn 0 0 4 j.part 0xFC)
    else s.writeJobSink jn j (BitVec.ofNat 32 (4 + 256 * detail))
  s.retireJob jn

/-- The command processor takes a head: its card is read, checked, and the job admitted or refused (R261, R398). -/
def State.admitHead (s : State) (part key jn : Nat) : State :=
  match s.job jn with
  | none => s.takeHead part key jn
  | some j0 =>
    let asid := s.asidOfJob j0
    let (card, s) := s.cardLine part asid j0.cardVa
    let j : Job := { j0 with card := card }
    let (waitData, s) := if j.waitCount = 0 then (0#512, s) else s.cardLine part asid j.waitBlock
    let (pipeData, s) := if j.pipeBand then s.cardLine part asid (j.waitBlock + 64) else (0#512, s)
    let waits := waitEntries j.waitCount waitData
    let j : Job := { j with pipes := if j.pipeBand then pipeEntries pipeData else [] }
    let s := s.takeHead part key jn
    let badSink := s.sinkOffence j
    match s.cardOffence j waits pipeData with
    | some d => ({ s with jobs := Tab.set s.jobs jn j }).refuseCard jn j d badSink
    | none =>
      if badSink then ({ s with jobs := Tab.set s.jobs jn j }).refuseCard jn j 0 true
      else
        let (deps, table) := enterHandles jn j.handles (s.part part).handles
        let j : Job := { j with waits := waits, phase := .admitted, deps := without (dedup deps) jn }
        let s := { s with jobs := Tab.set s.jobs jn { j with waits := s.openWaits j } }
        s.modPart part fun (p : Partition) => { p with handles := table, rotation := key + 1 }

/-- CARD_ADMIT (R261): the first isle's command processor serves the streams of the resident partition. -/
def execCardAdmit (isle : Nat) (s : State) : Host.Outcome State Fault Refusal :=
  let part := s.partOfIsle isle
  let p := s.part part
  if !p.resident || p.first != isle then .next s
  else
    match s.nextHead p with
    | none => .next s
    | some (key, jn) => .next (s.admitHead part key jn)

/-- JOB_WAIT_REEVALUATE (R262): every 4,096 cycles of the first isle's counter. -/
def execJobWaitReevaluate (isle : Nat) (s : State) : Host.Outcome State Fault Refusal :=
  if (s.isle isle).counter % 4096 ≠ 0 then .next s
  else
    .next { s with jobs := s.jobs.map fun (p : Nat × Job) =>
      if (s.part p.2.part).first = isle ∧ p.2.phase = .admitted then (p.1, { p.2 with waits := s.openWaits p.2 }) else p }

/-! ## Start (R33, R37, R67) -/

/-- An entry of a card's format table image as it is loaded: one that breaks Table 4-2 has V = 0 (R69). -/
def loadedImage (image : DWord) : DWord :=
  if (entryOf image).v && !(entryOf image).legal then image &&& ~~~1#64 else image

/-- The format table that a card's image gives (R31, R67); under bring-up the image is ignored (R317). -/
def State.readFormats (s : State) (j : Job) : Sparse 64 × State :=
  if !j.hasImage || (s.part j.part).bring then ([], s)
  else
    (List.range 4).foldl
      (fun (w : Sparse 64 × State) k =>
        let (d, s) := w.2.cardLine j.part (s.asidOfJob j) (j.formatImage + 64 * k)
        ((List.range 8).foldl
          (fun (f : Sparse 64) i =>
            if 8 * k + i < 8 then f else Sparse.set f (8 * k + i) (loadedImage (BitVec.ofNat 64 (natBits d.toNat (64 * i) 64)))) w.1, s))
      ([], s)

/-- Slots of a job as it starts (R33). -/
def State.slotsOf (s : State) (j : Job) : Nat :=
  let sum := ((s.usableIsles j).flatMap coresOfIsle).foldl (fun n c => n + s.fitOn j c) 0
  if j.maxGangs = 0 then sum else Nat.min j.maxGangs sum

/-- JOB_START (R37): every condition holds, the handles' jobs have retired, and slots is at least 1. The job is RUNNING from
here on, as R37 says, and not from its first placement, as Table 2-9 does: the two may lie cycles apart (R36). DEDUCED:
log 18. -/
def execJobStart (job : Nat) (s : State) : Host.Outcome State Fault Refusal :=
  match s.job job with
  | none => .next s
  | some j =>
    let slots := s.slotsOf j
    if j.phase != .admitted || !j.waits.isEmpty || !(j.deps.all fun d => s.jobRetired d) || slots == 0
        || !(s.part j.part).resident then .next s
    else
      let (fmt, s) := s.readFormats j
      .next (s.modJob job fun j => { j with phase := .running, slots := slots, fmt := fmt, copies := [] })

/-! ## Retirement (R36, R39, R221) -/

/-- A gang may retire: its threads have exited with nothing outstanding, no request of it is in flight, and its
entries can be drained (R36, R39, log 24). -/
def State.mayRetire (s : State) (gang : Nat) (g : Gang) : Bool :=
  let mine := s.threads.filter fun (p : Nat × Thread) => p.2.gang == gang
  g.phase == .retiring && !g.stopped
    && mine.all (fun p => p.2.hold == .exited && p.2.longs.isEmpty && s.forceable p.1)
    && s.reqs.all fun (r : Nat × Request) => r.2.saved || r.2.gang != gang

/-- A core after a gang has left it: its receives go, the slots of a job that has left are cleared, and rows whose
token will not be read stay unobserved (R221, R230). -/
def Core.leaveGang (c : Core) (gang job : Nat) (last : Bool) : Core :=
  { c with
    posted := c.posted.filter fun (p : Nat × Receive) => p.2.gang != gang
    overflow := c.overflow.filter fun m => m.dst != gang
    tiles := if last then c.tiles.filter fun (p : Nat × TileSlot) => p.2.job != job else c.tiles
    loop := if last then c.loop.filter fun b => b.job != job else c.loop }

/-- The gang's threads, crews and region leave the core. -/
def State.removeGang (s : State) (gang : Nat) (g : Gang) : State :=
  let core := coreOf gang
  let mine (t : Nat) : Bool := ((s.thread t).map fun (x : Thread) => x.gang == gang).getD false
  let s1 := { s with
    threads := s.threads.filter fun (p : Nat × Thread) => p.2.gang != gang
    gangs := Tab.erase s.gangs gang
    crews := s.crews.filter fun (p : Nat × Crew) => !decide (crewOf gang ≤ p.1 ∧ p.1 < crewOf gang + rowsOf g.threads)
    isles := s.isles.map fun (p : Nat × Isle) => (p.1, { p.2 with waits := p.2.waits.filter fun w => !mine w.waiter }) }
  let last := !((s1.gangsOfJob g.job).any fun (x : Nat × Gang) => coreOf x.1 == core)
  let s1 := s1.modCore core fun c => c.leaveGang gang g.job last
  let s1 := if last then s1.modJob g.job fun j => { j with copies := Tab.erase j.copies core } else s1
  match s1.band g.band with
  | none => s1
  | some b =>
    let rest := without b.gangs gang
    if rest.isEmpty then { s1 with bands := Tab.erase s1.bands g.band }
    else { s1 with bands := Tab.set s1.bands g.band { b with gangs := rest } }

/-- What a retiring gang's core still owes the homes has gone out (R39 step 2). -/
def Core.clearOut (c : Core) : Bool := c.wtq.isEmpty && c.l1.all fun l => l.grant == 0#64

/-- GANG_RETIRE (R39): entries drain, tentative ones are discarded, and privatised lines are merged, as far as budgets and
homes let them (R268, R280); the gang leaves once its core has sent them all. -/
def State.retireGang (s : State) (gang : Nat) : State :=
  match s.gang gang with
  | none => s
  | some g =>
    if !s.mayRetire gang g then s
    else
      let core := coreOf gang
      let part := ((s.job g.job).map (·.part)).getD 0
      let ts := (s.threads.filter fun (p : Nat × Thread) => p.2.gang == gang).map (·.1)
      let s := ts.foldl (fun (s : State) t => s.drainAll t) s
      let s := (s.drainQueue core).mergeMay part core fun _ => true
      if (s.core core).clearOut then s.removeGang gang g else s

/-- GANG_RETIRE (R39). -/
def execGangRetire (gang : Nat) (s : State) : Host.Outcome State Fault Refusal := .next (s.retireGang gang)

/-! ## Descriptors and runtime threads (R260, R300, R308, R345) -/

/-- A virtual device of the device other than one of a partition runs under a context (R300). -/
def State.asidHeld (s : State) (part vdev asid : Nat) : Bool :=
  s.parts.any fun (q : Nat × Partition) =>
    q.2.vdevs.any fun (v : Nat × VDev) => (q.1 != part || v.1 != vdev) && v.2.asid == asid

/-- STREAM_DESCRIPTOR_WRITE (R260): a stream keeps its queue; a virtual device takes its ASID and root table with its
descriptor, unless another one holds that ASID (R52, R300). -/
def State.writeDescriptor (s : State) (part : Nat) (w : DescriptorWrite) : State :=
  match w with
  | .stream v n image =>
    s.modPart part fun (p : Partition) =>
      let key := streamKey (v % 16) (n % 256)
      let x := Tab.getD p.streams key { desc := 0#64, queue := [], last := none, runtime := none }
      { p with streams := Tab.set p.streams key { x with desc := image } }
  | .vdev v image asid root =>
    if s.asidHeld part (v % 16) asid then s
    else
      s.modPart part fun (p : Partition) =>
        { p with vdevs := Tab.set p.vdevs (v % 16) { desc := image, asid := asid, root := root } }

/-- STREAM_DESCRIPTOR_WRITE (R260). -/
def execStreamDescriptorWrite (part : Nat) (write : DescriptorWrite) (s : State) : Host.Outcome State Fault Refusal :=
  .next (s.writeDescriptor part write)

/-- RUNTIME_THREAD_REGISTER (R308): the runtime threads of a partition, the one of each stream, and the principal. -/
def execRuntimeThreadRegister (part : Nat) (threads : List Nat) (streams : List (Nat × Nat)) (principal : Nat) (s : State) :
    Host.Outcome State Fault Refusal :=
  .next (s.modPart part fun (p : Partition) =>
    { p with
      runtimes := threads
      principal := some principal
      streams := streams.foldl
        (fun (t : Tab Stream) x =>
          let y := Tab.getD t x.1 { desc := 0#64, queue := [], last := none, runtime := none }
          Tab.set t x.1 { y with runtime := some x.2 }) p.streams })

/-- RUNTIME_CARD_PLACE (R345): the tenant runtime places a card on a stream. -/
def execRuntimeCardPlace (part vdev stream va : Nat) (s : State) : Host.Outcome State Fault Refusal :=
  .next (s.placeCard part vdev stream va).2

end Sys2Proof.Machine
end

