-- ==== Sys2Proof/Machine/System.lean ====
section
/-! DEFINITION. Format-table and system instructions, OP D0 to D3 (R253 to R259): FMTSET, FMTGET, MOVS and SETS. -/

namespace Sys2Proof.Machine

/-! ## The format table (R67, R69, R253, R254) -/

/-- The cores that hold a gang of a job. -/
def State.coresOfJob (s : State) (job : Nat) : List Nat :=
  dedup ((s.gangs.filter fun (p : Nat × Gang) => p.2.job == job).map fun p => coreOf p.1)

/-- A job's table with an entry set, and the copies of the cores that the update has still to reach (R253). -/
def Job.setEntry (j : Job) (cores : List Nat) (n : Nat) (image : DWord) : Job :=
  { j with fmt := Sparse.set j.fmt n image
           copies := cores.foldl (fun c k => if (Tab.get? c k).isSome then c else Tab.set c k j.fmt) j.copies }

/-- FMTSET (R253): the entry and its image, then the sink; a ninth one on the core stalls. -/
def execFmtset (h : Hdr) (x : FmtsetArgs) (s : State) : Host.Outcome State Fault Refusal :=
  perThread (.fmtset h x) (fun pc s t =>
    match s.thread t with
    | none => .ok s
    | some th =>
      let image := th.pair x.a.toNat
      if x.n.toNat ≤ 7 || ((entryOf image).v && !(entryOf image).legal) then .fault (plainFault Code.formatEntry)
      else
        withSink s t x.kind x.d x.sc fun _ k =>
          if !s.fmtsetRoom (coreOf t) then .stall
          else
            let job := ((s.gangOf t).map (·.job)).getD 0
            let cores := s.coresOfJob job
            let s := s.modJob job fun j => j.setEntry cores x.n.toNat image
            .ok (s.accept t pc 0xD0 k (.fmtset x.n.toNat image cores))) s

/-- FMTGET (R254): the image as the issuing core holds it. -/
def execFmtget (h : Hdr) (x : FmtgetArgs) (s : State) : Host.Outcome State Fault Refusal :=
  perThread (.fmtget h x) (fun _ s t =>
    .ok (s.modThread t fun th => th.setPair x.d.toNat (s.imageOf t x.n.toNat))) s

/-- An earlier FMTSET of the job has still to reach a core (R253). -/
def State.fmtsetBefore (s : State) (id job core : Nat) : Bool :=
  s.reqs.any fun (p : Nat × Request) => decide (p.1 < id) && p.2.job == job &&
    (match p.2.body with | .fmtset _ _ left => left.contains core | _ => false)

/-- A later FMTSET of the job has still to reach a core, so that its copy differs from the table. -/
def State.fmtsetAfter (s : State) (id job core : Nat) : Bool :=
  s.reqs.any fun (p : Nat × Request) => decide (id < p.1) && p.2.job == job &&
    (match p.2.body with | .fmtset _ _ left => left.contains core | _ => false)

/-- A core's copy of the table receives an entry; a copy that no update is still to reach is the table (R253). -/
def Job.updateCopy (j : Job) (core n : Nat) (image : DWord) (last : Bool) : Job :=
  if last then { j with copies := Tab.erase j.copies core }
  else { j with copies := Tab.modify j.copies core fun f => Sparse.set f n image }

/-- FMTSET_COMPLETE at a core: updates reach it in the order of their acceptance (R253). -/
def State.fmtsetAt (s : State) (id : Nat) (r : Request) (n : Nat) (image : DWord) (left : List Nat) (core : Nat) : State :=
  if !left.contains core || s.fmtsetBefore id r.job core then s
  else
    let last := !s.fmtsetAfter id r.job core
    let s := s.modReq id fun r => { r with body := .fmtset n image (without left core) }
    s.modJob r.job fun j => j.updateCopy core n image last

/-- FMTSET_COMPLETE: a core takes the entry, or, once every core holds it, the sink is written with 1 unit (R253). -/
def State.fmtsetDone (s : State) (id : Nat) (core : Option Nat) : State :=
  match s.request id with
  | none => s
  | some r =>
    match r.body, core with
    | .fmtset n image left, some c => s.fmtsetAt id r n image left c
    | .fmtset _ _ [], none => s.finishRequest id r 1 1 0#32
    | _, _ => s

/-- FMTSET_COMPLETE (R253). -/
def execFmtsetComplete (req : Nat) (core : Option Nat) (s : State) : Host.Outcome State Fault Refusal :=
  .next (s.fmtsetDone req core)

/-! ## Special registers (Table 12-6) -/

/-- The identity registers of a thread (R3, Table 2-2). -/
def identity (t : Nat) (tid : Nat) (gang : Nat) (g : Gang) (width : Nat) : Nat → Nat
  | 0x000 => tid
  | 0x001 => laneOf t
  | 0x002 => slotOf t
  | 0x003 => tid / 32
  | 0x004 => gang
  | 0x005 => Nat.max 1 width
  | 0x006 => g.threads
  | 0x007 => g.bandValue
  | 0x008 => coreOf t
  | 0x009 => clusterOf (coreOf t)
  | 0x00A => isleOf (coreOf t)
  | 0x00B => dieOf (coreOf t)
  | 0x00C => g.job
  | 0x00D => g.argp.toNat
  | 0x00E => g.argn.toNat
  | 0x00F => g.argi.toNat
  | _ => 0

/-- The fault registers by their indices (Table 7-8). -/
def FaultRegs.read (f : FaultRegs) : Nat → Nat
  | 0x020 => f.fcause.toNat
  | 0x021 => f.fpc.toNat
  | 0x022 => f.fopc.toNat
  | 0x023 => f.fopd.toNat
  | 0x024 => f.fopa.toNat
  | 0x025 => f.fopb.toNat
  | 0x026 => f.fimm.toNat
  | 0x027 => f.fmod.toNat
  | 0x028 => f.faddrl.toNat
  | 0x029 => f.faddrh.toNat
  | 0x02A => f.fguard.toNat
  | 0x02B => f.finfo.toNat
  | _ => 0

/-- A special register other than CYCL and CYCH, as it stands at issue (R256). -/
def State.special (s : State) (t : Nat) (th : Thread) (idx : Nat) : Nat :=
  match idx with
  | 0x010 => th.cpd
  | 0x011 => th.trb
  | 0x012 => th.trp
  | 0x013 => th.trl
  | 0x014 => th.csp.toNat
  | 0x015 => th.hnd.toNat
  | 0x016 => th.flg.toNat
  | 0x017 => th.frm.toNat
  | 0x01A => s.caps.toNat
  | _ =>
    if idx < 0x010 then
      match s.gang th.gang with
      | none => 0
      | some g => identity t th.tid th.gang g (((s.job g.job).map Job.bandWidth).getD 1) idx
    else th.faults.read idx

/-- MOVS (R256). -/
def execMovs (h : Hdr) (x : SpecArgs) (s : State) : Host.Outcome State Fault Refusal :=
  perThread (.movs h x) (fun _ s t =>
    match s.thread t with
    | none => .ok s
    | some th =>
      let v := s.special t th x.idx.toNat
      if specIsWide x.idx then .ok (s.setThread t (th.setPair x.d.toNat (BitVec.ofNat 64 v)))
      else .ok (s.setThread t (th.setReg x.d.toNat (BitVec.ofNat 32 v)))) s

/-- MOVS of CYCL: the low half, with the high half latched for the thread (R256). -/
def execMovsCycl (h : Hdr) (d : Reg) (s : State) : Host.Outcome State Fault Refusal :=
  perThread (.movsCycl h d) (fun _ s t =>
    let n := s.clock t
    .ok (s.modThread t fun th =>
      { th.setReg d.toNat (BitVec.ofNat 32 n) with cych := some (BitVec.ofNat 32 (n / 2 ^ 32)) })) s

/-- MOVS of CYCH: the latched half, which is used up, else the current one (R256). -/
def execMovsCych (h : Hdr) (d : Reg) (s : State) : Host.Outcome State Fault Refusal :=
  perThread (.movsCych h d) (fun _ s t =>
    let n := s.clock t
    .ok (s.modThread t fun th =>
      { th.setReg d.toNat (th.cych.getD (BitVec.ofNat 32 (n / 2 ^ 32))) with cych := none })) s

/-! ## SETS (R257) -/

/-- A fault register written: its fields of Tables 23-1 and 23-2 only (R258). -/
def FaultRegs.write (f : FaultRegs) (idx : Nat) (v : DWord) : FaultRegs :=
  let w := lo32 v
  match idx with
  | 0x020 => { f with fcause := w &&& 0x1FF#32 }
  | 0x021 => { f with fpc := v }
  | 0x022 => { f with fopc := w &&& 0xFFF#32 }
  | 0x023 => { f with fopd := w &&& 0x7FFFFFF#32 }
  | 0x024 => { f with fopa := v }
  | 0x025 => { f with fopb := v }
  | 0x026 => { f with fimm := w }
  | 0x027 => { f with fmod := w &&& 0x7FF#32 }
  | 0x028 => { f with faddrl := w }
  | 0x029 => { f with faddrh := w }
  | 0x02A => { f with fguard := w &&& 0xF#32 }
  | 0x02B => { f with finfo := w }
  | _ => f

/-- SETS of TRL, CSP and HND with their limits (Table 12-6); none for another index. -/
def State.setSpecial (s : State) (t : Nat) (th : Thread) (idx : Nat) (v : DWord) : Option LaneRes :=
  let n := (lo32 v).toNat
  match idx with
  | 0x013 =>
    some (if th.cpd ≠ 0 then .fault (plainFault Code.illegalField)
      else if n % 32 ≠ 0 ∨ n ≤ th.trb ∨ th.csp.toNat < n then .fault (plainFault Code.bounds)
      else .ok (s.setThread t { th with choice := { th.choice with trl := lo32 v } }))
  | 0x014 =>
    some (if n % 8 ≠ 0 ∨ n < th.trl ∨ s.privBytes t < n then .fault (plainFault Code.bounds)
      else .ok (s.setThread t { th with csp := lo32 v }))
  | 0x015 =>
    some (if v ≠ 0#64 ∧ s.isCode t v.toNat = false then .fault (badTarget v.toNat)
      else .ok (s.setThread t { th with hnd := v }))
  | _ => none

/-- SETS of a register without a row of its own: a register marked RO is refused, a fault register is written in
the handler only (R257). -/
def execSets (h : Hdr) (x : SpecArgs) (s : State) : Host.Outcome State Fault Refusal :=
  perThread (.sets h x) (fun _ s t =>
    match s.thread t with
    | none => .ok s
    | some th =>
      let v := if specIsWide x.idx then th.pair x.d.toNat else (th.reg x.d.toNat).setWidth 64
      match s.setSpecial t th x.idx.toNat v with
      | some r => r
      | none =>
        if x.idx.toNat < 0x020 then .fault (plainFault Code.illegalField)
        else if !th.faults.inh then .fault (plainFault Code.privileged)
        else .ok (s.setThread t { th with faults := th.faults.write x.idx.toNat v })) s

/-- SETS of TRB, which sets TRP as well (R257, Table 12-6). -/
def execSetsTrb (h : Hdr) (d : Reg) (s : State) : Host.Outcome State Fault Refusal :=
  perThread (.setsTrb h d) (fun _ s t =>
    match s.thread t with
    | none => .ok s
    | some th =>
      let v := th.reg d.toNat
      if th.cpd ≠ 0 then .fault (plainFault Code.illegalField)
      else if v.toNat % 16 ≠ 0 ∨ th.trl ≤ v.toNat then .fault (plainFault Code.bounds)
      else .ok (s.setThread t { th with choice := { th.choice with trb := v, trp := v } })) s

/-- SETS of FLG: bits [5:0] (R81, R181). -/
def execSetsFlg (h : Hdr) (d : Reg) (s : State) : Host.Outcome State Fault Refusal :=
  perThread (.setsFlg h d) (threadOnly fun th => { th with flg := th.reg d.toNat &&& 0x3F#32 }) s

/-- SETS of FRM: 0 to 4 (R181). -/
def execSetsFrm (h : Hdr) (d : Reg) (s : State) : Host.Outcome State Fault Refusal :=
  perThread (.setsFrm h d) (fun _ s t =>
    match s.thread t with
    | none => .ok s
    | some th =>
      let v := th.reg d.toNat
      if 4 < v.toNat then .fault (plainFault Code.bounds) else .ok (s.setThread t { th with frm := v })) s

end Sys2Proof.Machine
end

