-- ==== Sys2Proof/Machine/EvThread.lean ====
section
/-! DEFINITION. Steps that reach threads from outside their instructions: cut points and the ends of inspections
(R97, R98), section failures (R207), asynchronous faults (R364), the ends of waits and pauses (R145, R147, R200,
R250, R401), the walk of the wait-for records (R271, R400), and the debugger (R146, R321, R322, R409). -/

namespace Sys2Proof.Machine

/-! ## Inspections and sections -/

/-- INSP_TARGET_CUT (R98). -/
def execInspTargetCut (insp thread : Nat) (s : State) : Host.Outcome State Fault Refusal :=
  match Tab.get? s.insps insp with
  | some q => .next (if q.todo.contains thread then s.takeCut insp thread else s)
  | none => .next s

/-- INSP_COMPLETE (R97). -/
def execInspComplete (insp : Nat) (s : State) : Host.Outcome State Fault Refusal := .next (s.completeInsp insp)

/-- ELIDE_SECTION_FAIL (R207): an open section fails. -/
def execElideSectionFail (thread reason : Nat) (s : State) : Host.Outcome State Fault Refusal :=
  match s.thread thread with
  | some th => .next (if th.inSection then s.elideFail thread reason else s)
  | none => .next s

/-! ## Waiting threads (R21, R129) -/

/-- An outstanding instruction under which a thread waits: MWAIT or a crew collective. -/
def Outstanding.waits (o : Outstanding) : Bool :=
  match o.kind with
  | .mwait _ _ => true
  | .coll _ => true
  | _ => false

/-- The instruction at a thread's PC needs a result of an outstanding one (R129). -/
def State.needs (s : State) (t : Nat) (th : Thread) (o : Outstanding) : Bool :=
  match s.fetch t th.pc with
  | .word w =>
    match decode (s.regCount t) w with
    | .ok i =>
      (i.reads ++ i.writes).any o.regs.contains
        || (((Fields.ofWord w).gd.setWidth 3 :: i.predReads ++ i.predWrites).any o.preds.contains)
    | .error _ => o.preds.contains ((Fields.ofWord w).gd.setWidth 3)
  | _ => false

/-- The MWAIT or collective in which a thread is WAITING (R129). -/
def State.waitingIn (s : State) (t : Nat) (th : Thread) : Option Outstanding :=
  if th.hold = .none then th.longs.find? fun o => o.waits && (o.left == 0 || s.needs t th o) else none

/-- A thread is WAITING (R21). -/
def State.waiting (s : State) (t : Nat) (th : Thread) : Bool :=
  match th.hold with
  | .wait _ => true
  | _ => (s.waitingIn t th).isSome

/-- KIND of the wait-for record of a wait: R147 records SVC's as a message receive (Table 13-5; DEDUCED: log 36). -/
def Wait.kind : Wait → Nat
  | .barw _ _ _ _ _ => 0
  | .cwait _ _ _ => 2
  | .qput _ _ _ => 1
  | .qget _ _ _ => 1
  | .mtest _ _ => 6
  | .svc _ => 6
  | .join => 4

/-- A broken or abandoned wait: its kind, and the PC, the word and the operands of the instruction that waits. -/
structure Broken where
  kind : Nat
  pc   : Addr56
  word : BitVec 96
  opa  : DWord
  opb  : DWord
  deriving DecidableEq, Repr

/-- The wait of a WAITING thread. -/
def State.brokenWait (s : State) (t : Nat) : Option Broken :=
  match s.thread t with
  | none => none
  | some th =>
    match th.hold with
    | .wait w => some { kind := w.kind, pc := th.pc, word := th.last, opa := th.opa, opb := th.opb }
    | _ =>
      (s.waitingIn t th).map fun o =>
        { kind := match o.kind with | .mwait _ _ => 3 | _ => 5, pc := o.pc, word := o.word, opa := o.opa, opb := o.opb }

/-- A wait undone as Table 26-1 gives: a JOIN's lane leaves its record, a collective's arrival is withdrawn; the
thread's wait ends without its effect. -/
def State.undoWait (s : State) (t : Nat) (b : Broken) : State :=
  let k := crewOf t
  if b.kind = 4 then
    let s := s.modThread t fun th => { th with hold := .none }
    ((s.setCrew k ((s.crew k).leave t)).dropWaits t).settleRecords k
  else if b.kind = 5 then
    let s := s.setCrew k ((s.crew k).withdrawColl (laneOf t))
    let out (o : Outstanding) : Bool := match o.kind with | .coll _ => o.pc == b.pc | _ => false
    ((s.modThread t fun th => { th with longs := th.longs.filter fun o => !out o }).dropWaits t)
  else if b.kind = 3 then (s.modThread t fun th => th.endMwait 3).dropWaits t
  else s.abandonWait t

/-! ## Asynchronous faults (R364, R390) -/

/-- A thread of a gang that the debugger has stopped. -/
def State.stoppedThread (s : State) (t : Nat) : Bool := ((s.gangOf t).map (·.stopped)).getD false

/-- The delivery of WAIT_BROKEN is logged (Table 26-5). -/
def State.logBroken (s : State) (t : Nat) : State :=
  s.log 0x12 (.control (dieOf (coreOf t)) 0) (some (s.partOf t)) 0 Code.waitBroken

/-- A pending fault reaches a thread at its boundary: READY, or WAITING, whose wait is then abandoned (R364). -/
def State.deliverPending (s : State) (t : Nat) (f : FaultRec) (rest : List FaultRec) : State :=
  let s1 := s.modThread t fun th => { th with asyncs := rest }
  if !f.async then (s1.logBroken t).deliverFault t f
  else
    match s1.brokenWait t with
    | some b =>
      let s2 := (s1.undoWait t b).deliverFault t { f with pc := b.pc }
      if b.kind = 5 then s2.modThread t fun th => { th with missed := some b.pc } else s2
    | none =>
      match s1.thread t with
      | none => s1
      | some th => s1.deliverFault t { f with pc := th.pc }

/-- The first pending fault that a thread can take: while INH = 1 an asynchronous one stays pending (R364). -/
def Thread.nextPending (th : Thread) : Option (FaultRec × List FaultRec) :=
  match th.asyncs.find? fun f => !f.async || !th.faults.inh with
  | none => none
  | some f => some (f, th.asyncs.erase f)

/-- ASYNC_FAULT_DELIVER (R364): at the thread's boundary; a stopped thread takes it at the step that selects it
(R409). -/
def State.asyncDeliver (s : State) (t : Nat) : State :=
  match s.thread t with
  | none => s
  | some th =>
    let atBoundary := match th.hold with | .none => true | .wait _ => true | _ => false
    if !atBoundary || s.stoppedThread t then s
    else
      match th.nextPending with
      | none => s
      | some (f, rest) => s.deliverPending t f rest

/-- ASYNC_FAULT_DELIVER (R364). -/
def execAsyncFaultDeliver (thread : Nat) (s : State) : Host.Outcome State Fault Refusal := .next (s.asyncDeliver thread)

/-! ## The ends of waits and pauses -/

/-- WATCH_LOSS_WAKE (R200, R207): a watched, marked or privatised copy leaves the L1. -/
def execWatchLossWake (core line : Nat) (s : State) : Host.Outcome State Fault Refusal :=
  .next (s.loseLine (s.partOfIsle (isleOf core)) core (line / 2 ^ 50) (line % 2 ^ 50))

/-- An MWAIT whose limit has passed. -/
def Thread.mwaitDue (th : Thread) (now : Nat) : Bool :=
  th.longs.any fun o => match o.kind with
    | .mwait _ (some limit) => decide (limit ≤ now)
    | _ => false

/-- MWAIT_TIMEOUT (R200): reason 4, or a lower one that has come in the same cycle. -/
def execMwaitTimeout (thread : Nat) (s : State) : Host.Outcome State Fault Refusal :=
  match s.thread thread with
  | some th =>
    .next (if th.mwaitDue (s.clock thread) then (s.setThread thread (th.endMwait (th.lowestEvent 4))).dropMonitor thread else s)
  | none => .next s

/-- SLEEP_EXPIRY (R145). -/
def execSleepExpiry (thread : Nat) (s : State) : Host.Outcome State Fault Refusal :=
  match s.thread thread with
  | none => .next s
  | some th =>
    match th.hold with
    | .sleep wake => .next (if wake ≤ s.clock thread then s.setThread thread { th with hold := .none } else s)
    | _ => .next s

/-- YIELD_EXPIRY (R145). -/
def execYieldExpiry (thread : Nat) (s : State) : Host.Outcome State Fault Refusal :=
  match s.thread thread with
  | none => .next s
  | some th =>
    match th.hold with
    | .yield 0 => .next (s.setThread thread { th with hold := .none })
    | _ => .next s

/-- A cancel may take effect now: outside a handler, no instruction in progress, and nothing outstanding but waits
(R250). -/
def Thread.cancelReady (th : Thread) : Bool :=
  th.choice.cancel && !th.faults.inh && !(th.longs.any Outstanding.blocksFault)
    && (match th.hold with
        | .finishing _ => false
        | .storeCheck _ => false
        | .exited => false
        | _ => true)

/-- CANCEL_TAKE_EFFECT (R250). -/
def execCancelTakeEffect (thread : Nat) (s : State) : Host.Outcome State Fault Refusal :=
  match s.thread thread with
  | none => .next s
  | some th => .next (if th.cancelReady then s.takeCancel thread th.pc else s)

/-! ## Breaking a wait (R401) -/

/-- WAIT_BROKEN's fault: FINFO is the KIND of the record, ASYNC 0. -/
def Broken.fault (b : Broken) : FaultRec := lateFault b.pc b.word b.opa b.opb (infoFault Code.waitBroken b.kind)

/-- The wait of a thread is broken: it takes the fault at once, or, stopped, at the step that selects it (R409). -/
def State.breakWait (s : State) (t : Nat) : State :=
  match s.brokenWait t with
  | none => s
  | some b =>
    let f := b.fault
    let s1 := s.undoWait t b
    if s.stoppedThread t then
      s1.modThread t fun th => { th with asyncs := f :: th.asyncs, pc := b.pc }
    else (s1.logBroken t).deliverFault t f

/-- The state in which the saved threads, gangs and crews of a context stand in the tables. -/
def State.withSaved (s : State) (x : Saved) : State :=
  { s with threads := x.threads, gangs := x.gangs, crews := x.crews }

/-- A saved waiter's wait is broken; the fault is delivered on resume, before it issues (R401). -/
def State.breakSaved (s : State) (part t : Nat) (x : Saved) : State :=
  let y := s.withSaved x
  match y.brokenWait t with
  | none => s
  | some b =>
    let f := b.fault
    let y := (y.undoWait t b).modThread t fun th => { th with asyncs := f :: th.asyncs, pc := b.pc }
    s.modPart part fun p =>
      { p with saved := some { x with threads := y.threads, gangs := y.gangs, crews := y.crews,
                                      waits := x.waits.filter fun w => w.waiter != t } }

/-- The partition whose saved context holds a thread. -/
def State.savedIn (s : State) (t : Nat) : Option (Nat × Saved) :=
  s.parts.findSome? fun (p : Nat × Partition) =>
    match p.2.saved with
    | none => none
    | some x => if (Tab.get? x.threads t).isSome then some (p.1, x) else none

/-- The reply to an SVC whose thread is saved: it stands in the saved context, with the effect of INSP.s on the core's
lines and rows (R147, R305). -/
def State.svcSaved (s : State) (part t : Nat) (v : Word) (x : Saved) : State :=
  match (Tab.get? x.threads t).map fun (th : Thread) => (th, th.hold) with
  | some (th, Hold.wait (.svc d)) =>
    let see (u : Unseen) : Unseen := if u.done ∧ u.token.isNone then { u with seen := addOnce u.seen t } else u
    let seen (c : Core) : Core := { c with unseen := c.unseen.map see }
    let th : Thread := { th.setReg d.toNat v with hold := .none, pc := nextPc th.pc }
    let y : Saved := { x with threads := Tab.set x.threads t th, cores := Tab.modify x.cores (coreOf t) seen,
                              waits := x.waits.filter fun w => w.waiter != t }
    (s.dropL1 (coreOf t) fun _ => true).modPart part fun p => { p with saved := some y }
  | _ => s

/-- A thread waits for the reply to an SVC (R147). -/
def State.inSvc (s : State) (t : Nat) : Bool :=
  match (s.thread t).map (·.hold) with
  | some (Hold.wait (.svc _)) => true
  | _ => false

/-- SVC_REPLY (R147). -/
def execSvcReply (thread : Nat) (value : Word) (s : State) : Host.Outcome State Fault Refusal :=
  if s.inSvc thread then .next (s.svcAnswered thread value)
  else
    match s.savedIn thread with
    | some (part, x) => .next (s.svcSaved part thread value x)
    | none => .next s

/-- BREAK_WAIT (R401): the runtime names a waiter. -/
def execBreakWait (thread : Nat) (s : State) : Host.Outcome State Fault Refusal :=
  match s.thread thread with
  | some _ => .next (s.breakWait thread)
  | none =>
    match s.savedIn thread with
    | some (part, x) => .next (s.breakSaved part thread x)
    | none => .next s

/-! ## The debugger (R146, R321, R322, R409) -/

/-- The tenant of a gang's partition has authorised the debugger (R321). -/
def State.debuggable (s : State) (gang : Nat) : Bool :=
  (((s.gang gang).bind fun g => s.job g.job).map fun j => (s.part j.part).authorised).getD false

/-- What the debugger does to a gang that it may work on (R321). -/
def State.debugGang (s : State) (gang : Nat) (f : Gang → Gang) : State := if s.debuggable gang then s.modGang gang f else s

/-- DEBUG_STOP (R321). -/
def execDebugStop (gang : Nat) (s : State) : Host.Outcome State Fault Refusal :=
  .next (s.debugGang gang fun g => { g with stopped := true })

/-- DEBUG_RELEASE (R321, R367): a gang held after a band stop goes on to retire. -/
def execDebugRelease (gang : Nat) (s : State) : Host.Outcome State Fault Refusal :=
  .next (s.debugGang gang fun g => { g with stopped := false })

/-- DEBUG_STOP_ENABLE (R146). -/
def execDebugStopEnable (gang : Nat) (on : Bool) (s : State) : Host.Outcome State Fault Refusal :=
  .next (s.debugGang gang fun g => { g with debug := on })

/-- A thread that a single step may select at its PC: READY but for the stop (R322). -/
def State.stepReady (s : State) (t : Nat) (th : Thread) : Bool :=
  th.hold == .none && (s.waitingIn t th).isNone && th.windowOpen && !(th.choice.cancel && !th.faults.inh)
    && (match s.fetch t th.pc with | .word w => s.mayIssue t th w | _ => true)

/-- The lowest PC of some threads (R322). -/
def lowestPc (ts : List (Nat × Thread)) : Option Addr56 :=
  ts.foldl (fun (best : Option Addr56) p => match best with
    | none => some p.2.pc
    | some b => if p.2.pc.toNat < b.toNat then some p.2.pc else some b) none

/-- The groups of a step, in the order in which R23 forms them with only those threads in C: each takes the lowest slot that
is left in every lane. The threads are given in the order of their handles. -/
def stepGroups (ts : List Nat) : List (List Nat) :=
  ((List.range ts.length).map fun k => (List.range 32).filterMap fun lane => (ts.filter fun t => laneOf t == lane)[k]?).filter
    fun g => !g.isEmpty

/-- The end of a step: an instruction of it that waits, whatever its LOOK says, leaves its thread WAITING (R322). -/
def State.endStep (s : State) (ts : List Nat) : State :=
  let close (th : Thread) : Thread :=
    { th with longs := th.longs.map fun (o : Outstanding) => if o.order = th.order ∧ o.waits then { o with left := 0 } else o }
  ts.foldl (fun (s : State) t => s.modThread t close) s

/-- SINGLE_STEP (R322, R409): the threads READY at the PC, by default the lowest, issue once each; a thread with a pending
fault takes it instead. A step begins when what the last one issued has completed. -/
def State.singleStep (s : State) (gang : Nat) (at_ : Option Addr56) : State :=
  match s.gang gang with
  | none => s
  | some g =>
    let mine := s.threads.filter fun (p : Nat × Thread) => p.2.gang == gang
    let busy := mine.any fun p => p.2.longs.any Outstanding.blocksFault
    if !s.debuggable gang || !g.stopped || g.phase != .running || s.halting g || busy then s
    else
      let able := mine.filter fun (p : Nat × Thread) => s.stepReady p.1 p.2
      match at_.or (lowestPc able) with
      | none => s
      | some pc =>
        let ready := able.filter fun (p : Nat × Thread) => p.2.pc == pc
        let faulty := ready.filter fun (p : Nat × Thread) => p.2.nextPending.isSome
        let s := faulty.foldl
          (fun (s : State) (p : Nat × Thread) =>
            match p.2.nextPending with
            | some (f, rest) => s.deliverPending p.1 f rest
            | none => s) s
        let ts := (ready.filter fun (p : Nat × Thread) => p.2.nextPending.isNone).map (·.1)
        match ts.find? fun t => match s.fetch t pc with | .word _ => false | _ => true with
        | some t => (s.fetchStep (t, pc, s.fetch t pc)).sooner [.event (.singleStep gang (some pc))]
        | none => s.sooner ((stepGroups ts).flatMap fun ms => [Turn.group ms, Turn.stepEnd ms])

/-- SINGLE_STEP (R322). -/
def execSingleStep (gang : Nat) (pc : Option Addr56) (s : State) : Host.Outcome State Fault Refusal :=
  .next (s.singleStep gang pc)

/-- A special register of a stopped thread written by the debugger (R321). FRM takes the codes of R75 only. Those that
Table 12-6 marks RO and that say where the thread is (the identity registers, CYCL, CAPS) have nothing that a write could
change, and CYCH's write is the latched half that its next read gives. DEDUCED: log 54. -/
def Thread.putSpecial (th : Thread) (idx : Nat) (v : DWord) : Thread :=
  match idx with
  | 0x010 => { th with choice := { th.choice with cpd := lo32 v } }
  | 0x011 => { th with choice := { th.choice with trb := lo32 v } }
  | 0x012 => { th with choice := { th.choice with trp := lo32 v } }
  | 0x013 => { th with choice := { th.choice with trl := lo32 v } }
  | 0x014 => { th with csp := lo32 v }
  | 0x015 => { th with hnd := v }
  | 0x016 => { th with flg := lo32 v &&& 0x3F#32 }
  | 0x017 => if (lo32 v).toNat ≤ 4 then { th with frm := lo32 v } else th
  | 0x019 => { th with cych := some (lo32 v) }
  | _ => { th with faults := th.faults.write idx v }

/-- The chunk registers of a gang written by the debugger (R321). -/
def Gang.putSpecial (g : Gang) (idx : Nat) (v : DWord) : Gang :=
  match idx with
  | 0x00D => { g with argp := v }
  | 0x00E => { g with argn := lo32 v }
  | 0x00F => { g with argi := lo32 v }
  | _ => g

/-- The debugger's write (R321); a thread outside the gang is left alone. -/
def State.debugWrite (s : State) (gang : Nat) (w : DebugWrite) : State :=
  let mod (t : Nat) (f : Thread → Thread) : State :=
    match s.thread t with
    | some th => if th.gang = gang then s.setThread t (f th) else s
    | none => s
  match w with
  | .reg t r v => mod t fun th => th.setReg r.toNat v
  | .pred t p v => mod t fun th => th.setPred p v
  | .special t idx v =>
    if 0x00D ≤ idx.toNat ∧ idx.toNat ≤ 0x00F then s.modGang gang fun g => g.putSpecial idx.toNat v
    else mod t fun th => th.putSpecial idx.toNat v
  | .scratch off v => if off < s.gangScratch gang then s.writeBank (.scr gang) off 1 v.toNat else s
  | .priv t off v => if off < s.privBytes t then mod t fun th => th.privWrite off 1 v.toNat else s

/-- DEBUG_STATE_WRITE (R321): while the gang is stopped. -/
def execDebugStateWrite (gang : Nat) (write : DebugWrite) (s : State) : Host.Outcome State Fault Refusal :=
  match s.gang gang with
  | none => .next s
  | some g => .next (if s.debuggable gang && g.stopped then s.debugWrite gang write else s)

end Sys2Proof.Machine
end

