-- ==== Sys2Proof/Machine/Knot.lean ====
section
/-! DEFINITION. The walk of the wait-for records (R270 to R272, R399, R400): WAIT_FOR_WALK finds the largest set of
waiting threads whose signallers all lie in it, and reports it when two walks running find the same one. -/

namespace Sys2Proof.Machine

/-- The state in which the threads of a partition stand, saved or not. -/
def State.contextOf (s : State) (part : Nat) : State :=
  match (s.part part).saved with
  | some x => s.withSaved x
  | none => s

/-- The wait-for records of a partition (R272). -/
def State.waitRecords (s : State) (part : Nat) : List WaitRec :=
  match (s.part part).saved with
  | some x => x.waits
  | none =>
    (s.part part).isles.flatMap fun n => (s.isle n).waits.filter fun r => s.partOf r.waiter == part

/-- The gangs of a state that a signaller names: a gang, a band or a job (Table 13-5). -/
def State.signalGangs (s : State) (r : WaitRec) : List Nat :=
  (s.gangs.filter fun (g : Nat × Gang) =>
    match r.sigk with
    | 1 => g.1 == r.sig
    | 2 => g.2.band % 2 ^ 17 == r.sig % 2 ^ 17
    | 3 => g.2.job == r.sig
    | _ => false).map (·.1)

/-- A gang is blocked: each of its live threads waits in the set, or has exited, and one waits (R271), or it is parked, and
the record under its handle is in the set (R264). -/
def State.gangBlocked (s : State) (ts : List Nat) (g : Nat) : Bool :=
  let mine := s.threads.filter fun (p : Nat × Thread) => p.2.gang == g
  (((s.gang g).map (·.parkedOn.isSome)).getD false && ts.contains g)
    || (mine.all (fun p => p.2.hold == .exited || ts.contains p.1) && mine.any fun p => ts.contains p.1)

/-- The threads of the lanes that a record names. -/
def WaitRec.lanes (r : WaitRec) : List Nat :=
  ((List.range 32).filter fun k => natBits r.sig k 1 == 1).map fun k => 32 * crewOf r.waiter + k

/-- The signaller of a record lies in a set of waiting threads (R271). A band or job without a resident gang is not blocked,
since no gang of it waits: the spec does not say whether all of none are blocked. DESIGN CHOICE: log 36. -/
def State.signalInside (s : State) (ts : List Nat) (r : WaitRec) : Bool :=
  if r.sigk = 4 then !r.lanes.isEmpty && r.lanes.all ts.contains
  else
    let gs := s.signalGangs r
    !gs.isEmpty && gs.all fun g => s.gangBlocked ts g

/-- The largest set of waiting threads whose every record names a signaller inside it (R271). DEDUCED: log 36. -/
def State.knotOf (s : State) (rs : List WaitRec) (ts : List Nat) : Nat → List Nat
  | 0 => ts
  | fuel + 1 =>
    let next := ts.filter fun t => rs.all fun r => r.waiter != t || s.signalInside ts r
    if next.length = ts.length then ts else s.knotOf rs next fuel

/-- The records of the knot of a partition; none where there is no knot. -/
def State.knotRecords (s : State) (part : Nat) : List WaitRec :=
  let y := s.contextOf part
  let rs := s.waitRecords part
  let ts := dedup (rs.map (·.waiter))
  let k := y.knotOf rs ts (ts.length + 1)
  rs.filter fun r => k.contains r.waiter

/-- Two sets of records are the same, whether or not their waiters have been saved in between (R271, R272). -/
def sameRecords (a b : List WaitRec) : Bool :=
  let plain (l : List WaitRec) : List WaitRec := l.map fun r => { r with saved := false }
  (plain a).all (plain b).contains && (plain b).all (plain a).contains

/-- KNOT_REPORT (R400): the log, the interrupt, and the records kept under the knot's number. -/
def State.reportKnot (s : State) (part : Nat) (ks : List WaitRec) : State :=
  let p := s.part part
  let y := s.contextOf part
  let low := ks.foldl (fun n (r : WaitRec) => min n r.waiter) ((ks.map (·.waiter)).headD 0)
  let number := p.knots.number
  let kept := ks.map fun r => (r, ((y.thread r.waiter).map (·.faults.inh)).getD false)
  let s := s.log 0x11 (.control (dieOfIsle p.first) 0) (some part) 0 number
  let s := s.postPrincipal part 0xFD (interruptRecord number low 0 0 part 0xFD)
  s.modPart part fun p =>
    { p with knots := { candidate := ks, reported := ks, number := (number + 1) % 2 ^ 32,
                        kept := Tab.set p.knots.kept number kept } }

/-- The walk of one partition (R271, R399). -/
def State.walkWaits (s : State) (part : Nat) : State :=
  let p := s.part part
  let s := if p.isles.any fun n => 262144 < (s.isle n).waits.length then
      s.log 0x17 (.control (dieOfIsle p.first) 0) (some part) 0 0
    else s
  let ks := s.knotRecords part
  let known := p.knots
  if !ks.isEmpty && sameRecords ks known.candidate && !sameRecords ks known.reported then s.reportKnot part ks
  else s.modPart part fun p => { p with knots := { known with candidate := ks } }

/-- WAIT_FOR_WALK (R271): every 2^20 cycles of the isle's counter, the partitions whose first isle it is. -/
def execWaitForWalk (isle : Nat) (s : State) : Host.Outcome State Fault Refusal :=
  if (s.isle isle).counter % 2 ^ 20 ≠ 0 then .next s
  else
    .next ((s.parts.filter fun (p : Nat × Partition) => p.2.first == isle && natBits p.2.desc.toNat 0 1 == 1).foldl
      (fun (s : State) p => s.walkWaits p.1) s)

end Sys2Proof.Machine
end

