-- ==== Sys2Proof/Machine/EvPartition.lean ====
section
/-! DEFINITION. The firmware's steps on partitions (R296 to R314): budgets refilled, pre-emption and resumption,
pages purged and mapped, secondary pages and keys registered, partitions created and destroyed, replica holds, and
usage records. -/

namespace Sys2Proof.Machine

/-! ## What belongs to a partition -/

/-- The contexts of a partition (R300). -/
def Partition.asids (p : Partition) : List Nat := p.vdevs.map fun (v : Nat × VDev) => v.2.asid

/-- The descriptor is valid (Table 15-2). -/
def Partition.valid (p : Partition) : Bool := bitOf p.desc 0

/-- SLICE (Table 15-2). -/
def Partition.sliceCycles (p : Partition) : Nat := natBits p.desc.toNat 48 32

/-- The threads of a partition. -/
def State.threadsOf (s : State) (part : Nat) : List Nat :=
  (s.threads.filter fun (p : Nat × Thread) => (s.jobOf p.1).isSome && s.partOf p.1 == part).map (·.1)

/-- A gang belongs to a partition. -/
def State.gangIn (s : State) (part : Nat) (g : Gang) : Bool := ((s.job g.job).map fun j => j.part == part).getD false

/-- The partition whose virtual device runs under a context. -/
def State.partOfAsid (s : State) (asid : Nat) : Option Nat :=
  (s.parts.find? fun (p : Nat × Partition) => p.2.valid && p.2.asids.contains asid).map (·.1)

/-- The counter of a partition's first isle. -/
def State.partClock (s : State) (part : Nat) : Nat := (s.isle (s.part part).first).counter

/-! ## Budget periods (R267, R268) -/

/-- A count at a period boundary: an unspent part is carried once, a debt is repaid (R268). -/
def refillCount (budget : Nat) (remaining : Int) : Int :=
  if budget = 0 then remaining else (budget : Int) + (if 0 < remaining then min remaining budget else remaining)

/-- The four counts of a virtual device refilled. -/
def Budget.refill (b field : Budget) : Budget :=
  { cpyb := refillCount field.cpyb.toNat b.cpyb, netb := refillCount field.netb.toNat b.netb,
    tier2b := refillCount field.tier2b.toNat b.tier2b, strb := refillCount field.strb.toNat b.strb }

/-- The counts of a partition's valid virtual devices refilled; one that nothing has charged yet stood at its budget (R267). -/
def State.refillCounts (s : State) (p : Nat × Partition) (t : Tab Budget) : Tab Budget :=
  (p.2.vdevs.filter fun (v : Nat × VDev) => v.2.valid).foldl
    (fun (t : Tab Budget) (v : Nat × VDev) =>
      let b := s.budgetOf p.1 v.1
      Tab.set t v.1 ((Tab.getD t v.1 b).refill b)) t

/-- The counts of the resident partition's virtual devices on an isle refilled. -/
def State.refillLive (s : State) (isle : Nat) (p : Nat × Partition) : State :=
  s.modIsle isle fun x => { x with budgets := s.refillCounts p x.budgets }

/-- The counts that a saved partition keeps for an isle refilled: periods run through a pre-emption (R304). -/
def State.refillSaved (s : State) (isle : Nat) (p : Nat × Partition) : State :=
  s.modPart p.1 fun (q : Partition) =>
    { q with saved := q.saved.map fun x =>
      { x with budgets := Tab.set x.budgets isle (s.refillCounts p (Tab.getD x.budgets isle [])) } }

/-- BUDGET_PERIOD_REFILL (R267, R268): every 65,536 cycles of the isle's counter. -/
def execBudgetPeriodRefill (isle : Nat) (s : State) : Host.Outcome State Fault Refusal :=
  if (s.isle isle).counter % 65536 ≠ 0 then .next s
  else
    .next ((s.parts.filter fun (p : Nat × Partition) => p.2.holdsIsle isle).foldl
      (fun (s : State) p => if p.2.resident then s.refillLive isle p else s.refillSaved isle p) s)

/-! ## Usage records (R310 to R313) -/

/-- The counts of a virtual device at bit 640 + 256 v (Table 15-6). -/
def Usage.budgetBits (u : Usage) : Nat :=
  u.budget.foldl
    (fun n (b : Nat × Budget) =>
      let v := b.2.cpyb.toNat % 2 ^ 64 + 2 ^ 64 * (b.2.netb.toNat % 2 ^ 64) + 2 ^ 128 * (b.2.tier2b.toNat % 2 ^ 64)
        + 2 ^ 192 * (b.2.strb.toNat % 2 ^ 64)
      n + v * 2 ^ (256 * (b.1 % 16))) 0

/-- Bits [5119:0] of a record (Table 15-6). -/
def Usage.body (u : Usage) (p : Partition) (part kind cyc : Nat) : BitVec 5120 :=
  BitVec.ofNat 5120 (u.seq % 2 ^ 64 + 2 ^ 64 * (kind % 256) + 2 ^ 72 * (part % 256) + 2 ^ 80 * p.first
    + 2 ^ 84 * natBits p.desc.toNat 5 3 + 2 ^ 128 * (cyc % 2 ^ 64) + 2 ^ 192 * (u.groups % 2 ^ 64)
    + 2 ^ 256 * (u.planes % 2 ^ 64) + 2 ^ 320 * (u.tier1 % 2 ^ 64) + 2 ^ 384 * (u.tier2 % 2 ^ 64)
    + 2 ^ 448 * (u.fabb % 2 ^ 64) + 2 ^ 512 * (u.cpyb % 2 ^ 64) + 2 ^ 576 * (u.cwb % 2 ^ 64)
    + 2 ^ 640 * (u.budgetBits % 2 ^ 4096) + 2 ^ 4736 * u.prev.toNat)

/-- A record with its signature. -/
def usageRecord (body : BitVec 5120) : BitVec 32768 :=
  BitVec.ofNat 32768 (body.toNat + 2 ^ 5120 * (Config.signature body).toNat)

/-- The counts after a record: they start again, and the chain goes on (R311 to R313). -/
def Usage.next (u : Usage) (record : BitVec 32768) : Usage :=
  { groups := 0, planes := 0, tier1 := 0, tier2 := 0, fabb := 0, cpyb := 0, cwb := 0, budget := [], seq := u.seq + 1,
    prev := Config.sha384 (record.setWidth 31592), ring := u.ring ++ [record] }

/-- A record emitted (R311). -/
def State.emitUsage (s : State) (part kind : Nat) : State :=
  let p := s.part part
  let body := p.usage.body p part kind (s.partClock part)
  s.modPart part fun (p : Partition) => { p with usage := p.usage.next (usageRecord body) }

/-- USAGE_RECORD_EMIT (R311): periodic every 2^24 cycles of the first isle, or at a firmware request; the final record
belongs to the destruction. -/
def execUsageRecordEmit (part kind : Nat) (s : State) : Host.Outcome State Fault Refusal :=
  if !(s.part part).valid || decide (1 < kind) || (kind == 0 && s.partClock part % 2 ^ 24 != 0) then .next s
  else .next (s.emitUsage part kind)

/-! ## Pre-emption (R301 to R305, R404) -/

/-- A thread stands at a boundary with nothing outstanding but a wake or an arrival (R130, R302 steps 1, 2 and 4). -/
def State.threadQuiet (s : State) (t : Nat) (th : Thread) : Bool :=
  let still := match th.hold with
    | .finishing _ => false
    | .storeCheck _ => false
    | .faulting _ => false
    | _ => true
  still && th.longs.all Outstanding.waits && s.forceable t && s.msgs.all fun m => m.2.sender != t

/-- A request that step 3 does not wait for: it has started nothing, it is an MMA between K blocks, or a contribution
that has been sent (R302, R404). -/
def Request.quiet (r : Request) : Bool :=
  match r.body with
  | .fmtset _ _ _ => false
  | .mma m => decide (m.kb < m.kLen / 32)
  | .fabx c true _ _ => !r.begun || (r.piecesDone 0 c.lines && r.failed.isEmpty && r.abort.isNone)
  | _ => !r.begun

/-- A fabric request (R404). -/
def Request.fabric (r : Request) : Bool := match r.body with | .fabx _ _ _ _ => true | _ => false

/-- Steps 1 to 3 of a pre-emption have ended; past the bound of R404 fabric requests are not waited for. -/
def State.quiet (s : State) (part : Nat) (bound : Bool) : Bool :=
  (s.threads.all fun (p : Nat × Thread) => s.partOf p.1 != part || s.threadQuiet p.1 p.2)
    && (s.insps.all fun q => q.2.part != part)
    && s.reqs.all fun (r : Nat × Request) => r.2.part != part || r.2.saved || r.2.quiet || (bound && r.2.fabric)

/-- A thread as its record is written (R302 step 6, R324): an access that replays starts afresh, and a run ends. -/
def Thread.save (th : Thread) : Thread :=
  let hold : Hold := match th.hold with
    | .walking _ _ _ => .none
    | .replay => .none
    | .parked _ _ => .none
    | h => h
  { th with hold := hold, cych := none, marks := { th.marks with keepA := none, inRun := false } }

/-- A request as its queue block is written: a KICK that has performed no item reads its list again. -/
def Request.save (r : Request) : Request :=
  let body : ReqBody := match r.body with
    | .kick list count items => .kick list count (if r.begun then items else [])
    | b => b
  { r with body := body, saved := true }

/-- Everything that drains in step 4, drained. -/
def State.drainPart (s : State) (part : Nat) : State :=
  let s := (s.threadsOf part).foldl (fun (s : State) t => s.drainAll t) s
  (s.part part).cores.foldl (fun (s : State) c => (s.emptyWtq c).mergeCore part c) s

/-- Step 5 (R302): the caches of a partition emptied, and its directory entries back in I. -/
def State.emptyCaches (s : State) (part : Nat) : State :=
  let p := s.part part
  let s := p.cores.foldl (fun (s : State) c => s.dropLines c fun _ => true) s
  s.setMem { s.mem with
    l2 := s.mem.l2.filter fun e => !(p.asids.contains e.asid && p.holdsIsle (isleOf e.slice))
    dir := s.mem.dir.filter fun e => !p.asids.contains e.asid }

/-! ### Context areas (R303, Table 15-3) -/

/-- The base X of a partition's context on an isle: 64 KiB aligned, in the isle's own channel group, with room for the layout
behind it; the firmware chooses it. -/
def contextBase (part isle : Nat) : Nat := 2 ^ 35 * isle + 65536 * (Config.contextPage part isle % (2 ^ 19 - 0xE70))

/-- What stands at an offset of a context area. -/
inductive ContextUnit where
  | core (k : Nat)
  | isle
  | lagoon
  deriving DecidableEq, Repr

/-- The unit whose image or block holds an offset from X (Table 15-3). -/
def contextUnit (off : Nat) : Option ContextUnit :=
  if off < 0x5000000 then some (.core (off / 0x280000))
  else if off < 0x6600000 then some (.core ((off - 0x5000000) / 0xB0000))
  else if off < 0x6700000 then some .isle
  else if off < 0xE700000 then some .lagoon
  else none

/-- The unit of a partition's context, and its isle, whose area holds a line of DRAM. -/
def Partition.contextAt (p : Partition) (part key : Nat) : Option (Nat × ContextUnit) :=
  p.isles.findSome? fun i =>
    if contextBase part i ≤ key then (contextUnit (key - contextBase part i)).map fun u => (i, u) else none

/-- A save writes a line of DRAM: one of the context areas, of the Lagoon's images on a switch alone (R302). -/
def Partition.saves (p : Partition) (part : Nat) (switch : Bool) (line : Nat) : Bool :=
  match p.contextAt part (64 * line) with
  | none => false
  | some (_, .lagoon) => switch
  | some _ => true

/-- The lines of a partition's context areas are written whole as it is saved, so that their poison goes (R302, R386). -/
def State.writeContext (s : State) (part : Nat) (switch : Bool) : State :=
  s.setMem { s.mem with poison := s.mem.poison.filter fun l => !(s.part part).saves part switch l }

/-- The context of a partition (Table 15-3). DESIGN CHOICE: log 44. -/
def State.contextImage (s : State) (part : Nat) (switch : Bool) : Saved :=
  let p := s.part part
  let ts := s.threads.filter fun (x : Nat × Thread) => (s.jobOf x.1).isSome && s.partOf x.1 == part
  let rows := dedup (ts.map fun x => crewOf x.1)
  let image (c : Core) : Core := { c with l1 := [], wtq := [], icache := [], loop := none, vcredit := [], scredit := [] }
  { switch := switch
    threads := ts.map fun (x : Nat × Thread) => (x.1, x.2.save)
    gangs := s.gangs.filter fun (x : Nat × Gang) => s.gangIn part x.2
    crews := s.crews.filter fun (x : Nat × Crew) => rows.contains x.1
    cores := (s.cores.filter fun (x : Nat × Core) => p.cores.contains x.1).map fun (x : Nat × Core) => (x.1, image x.2)
    lagoons := if switch then p.isles.map fun i => (i, ((s.isle i).lagoon, (s.isle i).lagPoison)) else []
    waits := (s.waitRecords part).map fun w => { w with saved := true }
    budgets := p.isles.map fun i => (i, (s.isle i).budgets)
    poisonedCores := []
    poisonedLagoon := false }

/-- The isles and cores of a partition once its context has been written. -/
def State.clearUnits (s : State) (part : Nat) (switch : Bool) : State :=
  let p := s.part part
  let s := p.cores.foldl
    (fun (s : State) c =>
      if (Tab.get? s.cores c).isNone then s
      else s.modCore c fun x => { Core.reset with l1 := x.l1, icache := x.icache }) s
  p.isles.foldl
    (fun (s : State) i => s.modIsle i fun x =>
      { x with budgets := []
               waits := x.waits.filter fun w => s.partOf w.waiter != part
               lagoon := if switch then [] else x.lagoon
               lagPoison := if switch then [] else x.lagPoison }) s

/-- Steps 4 to 6 (R302): the partition is saved. -/
def State.savePart (s : State) (part : Nat) (switch : Bool) : State :=
  let s := s.drainPart part
  let s := if switch then s.emptyCaches part else s
  let s := s.writeContext part switch
  let x := s.contextImage part switch
  let s := s.clearUnits part switch
  let s := { s with
    threads := s.threads.filter fun (y : Nat × Thread) => (Tab.get? x.threads y.1).isNone
    gangs := s.gangs.filter fun (y : Nat × Gang) => (Tab.get? x.gangs y.1).isNone
    crews := s.crews.filter fun (y : Nat × Crew) => (Tab.get? x.crews y.1).isNone
    reqs := s.reqs.map fun (r : Nat × Request) => if r.2.part = part ∧ !r.2.saved then (r.1, r.2.save) else r }
  let s := s.setMem { s.mem with walks := s.mem.walks.filter fun w => w.2.part != part }
  s.modPart part fun (p : Partition) => { p with resident := false, halting := none, saved := some x }

/-- Step 1 (R302): issue stops, and sections fail with reason 6. -/
def State.beginHalt (s : State) (part : Nat) (away : Bool) : State :=
  let s := s.modPart part fun (p : Partition) => { p with halting := some (away, s.partClock part) }
  (s.threadsOf part).foldl
    (fun (s : State) t =>
      match s.thread t with
      | none => s
      | some th => if th.inSection then s.elideFail t 6 else s) s

/-- A pre-emption begun, or carried on once its earlier steps have ended. -/
def State.preempt (s : State) (part : Nat) (away : Bool) : State :=
  let p := s.part part
  if !p.resident then s
  else
    match p.halting with
    | none =>
      let s := s.beginHalt part away
      if s.quiet part false then s.savePart part away else s
    | some h => if s.quiet part false then s.savePart part h.1 else s

/-- PREEMPT (R302). -/
def execPreempt (part : Nat) (away : Bool) (s : State) : Host.Outcome State Fault Refusal := .next (s.preempt part away)

/-- TIME_SLICE_EXPIRY (R298): SLICE cycles of the first isle's counter have passed since the partition became
resident. -/
def execTimeSliceExpiry (part : Nat) (away : Bool) (s : State) : Host.Outcome State Fault Refusal :=
  let p := s.part part
  if p.sliceCycles ≠ 0 ∧ p.halting = none ∧ p.slice + p.sliceCycles ≤ s.partClock part then
    .next (s.preempt part away)
  else .next s

/-- PREEMPT_STEP3_BOUND (R404): after 2^24 cycles the fabric requests are saved as they stand. -/
def execPreemptStep3Bound (part : Nat) (s : State) : Host.Outcome State Fault Refusal :=
  let p := s.part part
  match p.halting with
  | none => .next s
  | some h =>
    if s.partClock part < h.2 + 2 ^ 24 ∨ !s.quiet part true then .next s
    else
      let s := if s.quiet part false then s else s.log 0x15 (.control (dieOfIsle p.first) 0) (some part) 0 0
      .next (s.savePart part h.1)

/-! ## Resumption (R304, R404, R408) -/

/-- Another partition stands in the way of a resumption: it is resident on an isle of the run, or paused there
(R298, R301). -/
def State.blockedBy (s : State) (part : Nat) (q : Nat × Partition) : Bool :=
  q.1 != part && ((s.part part).isles.any fun i => q.2.holdsIsle i)
    && (q.2.resident || ((q.2.saved.map fun x => !x.switch).getD false))

/-- The boot has come to the step in which the firmware runs partitions: the fourth, or, for the bring-up partition, the third
(R315, R317). -/
def State.booted (s : State) (bring : Bool) : Bool := decide (4 ≤ s.fw.boot.step) || (bring && s.fw.boot.step == 3)

/-- A partition may become resident: the boot has come to it, its isles run, and no other holds them (R298, R315). -/
def State.mayResume (s : State) (part : Nat) : Bool :=
  let p := s.part part
  s.booted p.bring && p.valid && !p.resident && (p.isles.all fun i => (s.isle i).power == .run && !s.isleAbsent i)
    && s.parts.all fun q => !s.blockedBy part q

/-- A core with its saved image: its caches are those that it holds (R301). -/
def Core.restore (live : Core) (image : Core) : Core := { image with l1 := live.l1, icache := live.icache }

/-- The saved context read back. -/
def State.restoreContext (s : State) (part : Nat) (x : Saved) : State :=
  let p := s.part part
  let s := { s with
    threads := x.threads.foldl (fun (t : Tab Thread) y => Tab.set t y.1 y.2) s.threads
    gangs := x.gangs.foldl (fun (t : Tab Gang) y => Tab.set t y.1 y.2) s.gangs
    crews := x.crews.foldl (fun (t : Tab Crew) y => Tab.set t y.1 y.2) s.crews
    reqs := s.reqs.map fun (r : Nat × Request) => if r.2.part = part then (r.1, { r.2 with saved := false }) else r }
  let s := p.cores.foldl
    (fun (s : State) c =>
      match Tab.get? x.cores c with
      | some y => s.modCore c fun live => live.restore y
      | none => if (Tab.get? s.cores c).isNone then s else s.modCore c fun live => live.restore Core.reset) s
  let s := p.isles.foldl
    (fun (s : State) i => s.modIsle i fun y =>
      let lag := Tab.getD x.lagoons i ([], [])
      { y with budgets := Tab.getD x.budgets i []
               waits := y.waits ++ (x.waits.filter fun w => isleOf (coreOf w.waiter) == i).map fun w => { w with saved := false }
               lagoon := if x.switch then lag.1 else y.lagoon
               lagPoison := if x.switch then lag.2 else y.lagPoison }) s
  s.modPart part fun (p : Partition) => { p with resident := true, saved := none, slice := s.partClock part }

/-- A line of a tile as a refill reads it: the resume is one step, which is charged nothing and waits for nothing, and a line
without a leaf is a refused one (DEDUCED: log 44). -/
def State.refillLine (s : State) (part : Nat) (x : Macro) (sp : Space) (addr : Nat) : EngineRead :=
  if sp = .glb then
    match s.engineAttrs part x.asid addr with
    | .leaf pte =>
      if (s.permit part (96 * (s.part part).primaryDie) .load x.asid addr pte).isSome then .refused s
      else
        let h := s.homeLine part x.asid addr pte (2 ^ 64 - 1) (s.part part).primaryDie none
        { ok := true, wait := false, data := h.data.toNat, poison := h.poison, after := h.after }
    | _ => .refused s
  else
    match s.spot (coreOf x.gang) x.gang part sp addr 64 with
    | none => .refused s
    | some (b, off) =>
      { ok := true, wait := false, data := s.readBank b off 64, poison := s.bankPoisoned b off 64, after := s }

/-- The lines of a row that hold a macro's columns, as a refill reads them. -/
def State.refillRow (s : State) (part : Nat) (x : Macro) (per row : Nat) : RowRead :=
  let y := Tile.of x.desc
  (y.rowLines per row (x.c0 + 32 * x.member) 32).foldl
    (fun (w : RowRead) l =>
      let e := w.after.refillLine part x y.place (y.lineAddr row l)
      { lines := w.lines ++ [(l, e.data)], poison := w.poison || e.poison, refused := w.refused || !e.ok, wait := false,
        after := e.after })
    { lines := [], poison := false, refused := false, wait := false, after := s }

/-- GEOM of a recorded macro: its descriptor's, or that of the page of its tile (R222). -/
def State.refillGeom (s : State) (part : Nat) (x : Macro) : Nat :=
  let y := Tile.of x.desc
  if y.fmtsrc then y.geom
  else match s.engineAttrs part x.asid y.base with | .leaf pte => (pteGeom pte).toNat | _ => y.geom

/-- A macro refilled from its record (R225, R304, R388). -/
def State.refillMacro (s : State) (part core m : Nat) (x : Macro) : State :=
  let per := perLine x.image (s.refillGeom part x)
  (List.range x.rows).foldl
    (fun (s : State) i =>
      let row := x.k0 + x.row0 + i
      let w := s.refillRow part x per row
      w.after.modCore core fun c =>
        let old := if i = 0 then { x with cells := [], poison := false } else (Tab.get? c.macros m).getD x
        let y := old.loadRow w (Tile.of x.desc) (entryOf x.image) per row (x.c0 + 32 * x.member) i
        { c with macros := Tab.set c.macros m y }) s

/-- Every recorded macro of a context refilled. -/
def State.refillMacros (s : State) (part : Nat) (x : Saved) : State :=
  x.cores.foldl
    (fun (s : State) (c : Nat × Core) =>
      c.2.macros.foldl (fun (s : State) (m : Nat × Macro) => s.refillMacro part c.1 m.1 m.2) s) s

/-- What a thread finds when it is resumed: a SLEEP has ended, and a watch has the event of reason 2 (R145, R200). -/
def State.wakeResumed (s : State) (t : Nat) : State :=
  s.modThread t fun th =>
    let th1 : Thread := match th.hold with | .sleep _ => { th with hold := .none } | _ => th
    th1.watchEvent 2

/-- The stop record of a band that no instruction stopped: FPC 0 (R408, R413, R419). -/
def stopRegs (code info : Nat) : FaultRegs :=
  { fcause := BitVec.ofNat 32 code, fpc := 0#64, fopc := 0#32, fopd := 0#32, fopa := 0#64, fopb := 0#64, fimm := 0#32,
    fmod := 0#32, faddrl := 0#32, faddrh := 0#32, fguard := 0#32, finfo := BitVec.ofNat 32 info, inh := false }

/-- The bands whose images are poisoned stop (R408). -/
def State.stopPoisoned (s : State) (part : Nat) (x : Saved) : State :=
  if x.poisonedCores.isEmpty && !x.poisonedLagoon then s
  else
    let hit (g : Nat) : Bool := x.poisonedLagoon || (s.bandGangs g).any fun h => x.poisonedCores.contains (coreOf h)
    let s := s.log 0x16 (.control (dieOfIsle (s.part part).first) 0) (some part) 0 0
    x.gangs.foldl
      (fun (s : State) (g : Nat × Gang) =>
        match s.gang g.1 with
        | none => s
        | some y => if y.stopBand || !hit g.1 then s else s.stopBand g.1 (stopRegs 0x12 0) false) s

/-- What happens before any thread issues: completed requests, cancels and pending faults (R250, R364, R404). -/
def State.resumeFirst (s : State) (part : Nat) : State :=
  let mine := s.threads.filter fun (p : Nat × Thread) => s.partOf p.1 == part
  let ready := s.reqs.filter fun (r : Nat × Request) => r.2.part == part && (s.outcomeOf r.1 r.2).isSome
  s.sooner ((ready.map fun (r : Nat × Request) => Turn.event (.requestComplete r.1))
    ++ ((mine.filter fun (p : Nat × Thread) => p.2.choice.cancel).map fun p => Turn.event (.cancelTakeEffect p.1))
    ++ (mine.filter fun (p : Nat × Thread) => !p.2.asyncs.isEmpty).map fun p => Turn.event (.asyncFaultDeliver p.1))

/-- RESUME (R304). -/
def State.resume (s : State) (part : Nat) : State :=
  match (s.part part).saved with
  | none => s
  | some x =>
    if !s.mayResume part then s
    else
      let s := (s.restoreContext part x).stopPoisoned part x
      let s := s.refillMacros part x
      let s := x.threads.foldl (fun (s : State) (t : Nat × Thread) => s.wakeResumed t.1) s
      s.retestShared.resumeFirst part

/-- RESUME (R304). -/
def execResume (part : Nat) (s : State) : Host.Outcome State Fault Refusal := .next (s.resume part)

/-! ## Pages (R51, R52, R56) -/

/-- A slot of the page tables on the path of an address: its physical address, the PS of a leaf there, whether a
pointer may stand there, and the entry. -/
structure PteSlot where
  pa    : Nat
  leaf  : Option Nat
  last  : Bool
  entry : DWord
  deriving DecidableEq, Repr

/-- The first slot on the path of an address that holds no pointer; `read` gives the entry at a physical address. -/
def slotFrom (read : Nat → DWord) (table va : Nat) : List (Nat × Nat × Option Nat) → Option PteSlot
  | [] => none
  | (lo, len, leaf) :: rest =>
    let a := table + 8 * natBits va lo len
    let e := read a
    if pteV e && ptePs e == 3 && !rest.isEmpty then slotFrom read (pteBits e 8 40 * 256) va rest
    else some { pa := a, leaf := leaf, last := rest.isEmpty, entry := e }

/-- The slot of an address under a context. -/
def State.pteSlot (s : State) (part asid va : Nat) : Option PteSlot :=
  ((s.part part).rootOf asid).bind fun r => slotFrom s.dramWord r va walkLevels

/-- A slot may hold an entry: an invalid one, a pointer above the last level, or a leaf of the level's size (Table
3-4). -/
def PteSlot.takes (x : PteSlot) (pte : DWord) : Bool :=
  !pteV pte || (if ptePs pte = 3 then !x.last else x.leaf == some (ptePs pte))

/-- An entry written to its slot; a line still to be cleared counts as written by it (R65). -/
def State.writePte (s : State) (x : PteSlot) (pte : DWord) : State :=
  s.writeDram x.pa (BitVec.ofNat 512 (pte.toNat * 2 ^ (8 * (x.pa % 64)))) (lineMask (x.pa % 64) 8)

/-! ### The memory of a partition (R65, R314, R317) -/

/-- A 64 KiB page, by its number among DRAM's keys, is assigned to a partition. -/
def Partition.hasPage (p : Partition) (n : Nat) : Bool := p.pages.any fun r => decide (r.1 ≤ n ∧ n < r.1 + r.2)

/-- The unscrubbed bits of pages set, all at once (R65). -/
def State.markUnscrubbed (s : State) (pages : List Nat) : State :=
  let old := s.mem.unscrubbed.filter fun u => !pages.contains u.page
  s.setMem { s.mem with unscrubbed := old ++ (dedup pages).map fun n => { page := n, lines := [], started := false } }

/-- The 64 KiB pages of a leaf's memory; a fabric window is none of the package's. -/
def leafPages (pte : DWord) (va : Nat) : List Nat :=
  if !pteV pte || ptePs pte == 3 || pteTier pte == 2 then []
  else
    let n := pageBytes (ptePs pte)
    (List.range (n / 65536)).map (· + dramKey pte (va / n * n) / 65536)

/-- Those of them that no partition has been assigned. -/
def State.newPages (s : State) (pte : DWord) (va : Nat) : List Nat :=
  (leafPages pte va).filter fun n => !(s.parts.any fun p => p.2.hasPage n)

/-- Pages assigned to a partition as a leaf names them first: their unscrubbed bits are set (R65, R314; DEDUCED: log 46). -/
def State.assignPages (s : State) (part : Nat) (pages : List Nat) : State :=
  if pages.isEmpty then s
  else
    (s.modPart part fun (p : Partition) => { p with pages := p.pages ++ pages.map fun n => (n, 1) }).markUnscrubbed pages

/-- Pages of the bring-up partition's window, of 64 MiB (R317). -/
def windowPages : Nat := 1024

/-- The firmware refuses the bring-up partition a page of another tier, and one beyond its window (R317). -/
def State.pageRefused (s : State) (part : Nat) (pte : DWord) (va : Nat) : Bool :=
  let p := s.part part
  p.bring && pteV pte && ptePs pte != 3
    && (pteTier pte != 0
      || decide (windowPages < p.pages.foldl (fun n r => n + r.2) 0 + (s.newPages pte va).length))

/-- A page under purge: its first address, its size, its tier, the first byte of its physical memory, and the form of its
lines (R56, R58). -/
structure Page where
  part : Nat
  asid : Nat
  va   : Nat
  size : Nat
  tier : Nat
  key  : Nat
  form : Nat × Nat
  deriving DecidableEq, Repr

/-- The page of a leaf. -/
def State.pageOf (s : State) (part asid va : Nat) (pte : DWord) : Page :=
  let n := pageBytes (ptePs pte)
  let base := va / n * n
  { part := part, asid := asid, va := base, size := n, tier := pteTier pte, key := dramKey pte base,
    form := primaryForm (s.part part) asid base }

/-- A physical line lies in the page. -/
def Page.holdsKey (g : Page) (key : Nat) : Bool := decide (g.key ≤ key ∧ key < g.key + g.size)

/-- A line of a context, in primary form, lies in the page. -/
def Page.holdsLine (g : Page) (asid line : Nat) : Bool :=
  asid == g.form.1 && decide (g.form.2 / 64 ≤ line ∧ line < (g.form.2 + g.size) / 64)

/-- The lines of the page dropped from a core: what its write-through queue holds of them goes to its place, privatised ones
are merged, and marked ones are lost (R90, Table 10-3). -/
def State.purgeCore (s : State) (g : Page) (core : Nat) : State :=
  let mine (l : L1Line) : Bool := g.holdsKey (dramKey l.pte (64 * l.line))
  let s := if (s.core core).wtq.any fun e => g.holdsKey (dramKey e.pte (16 * e.block)) then s.emptyWtq core else s
  let s := s.mergeWhere g.part core mine
  let lost := (s.core core).l1.filter mine
  let s := s.dropLines core mine
  lost.foldl (fun (s : State) (l : L1Line) => s.loseMarksOf l.asid l.line 1 fun t => coreOf t == core) s

/-- The number of a watched line names a line of the page: of a fabric window, of memory that is cached nowhere, or of a
context. -/
def Page.watched (g : Page) (p : Partition) (line : Nat) : Bool :=
  if 2 ^ 71 ≤ line then g.tier == 2 && line / 2 ^ 50 == 2 ^ 21 + p.first && g.holdsKey (64 * (line % 2 ^ 50))
  else if 2 ^ 70 ≤ line then g.tier != 2 && g.holdsKey (64 * (line - 2 ^ 70))
  else g.holdsLine (line / 2 ^ 50) (line % 2 ^ 50)

/-- Watches on the page have the event of reason 1 (R200). -/
def State.purgeWatches (s : State) (g : Page) : State :=
  s.threads.foldl
    (fun (s : State) (p : Nat × Thread) =>
      match p.2.watch with
      | none => s
      | some w =>
        if w.space = .glb ∧ !w.overflow ∧ g.watched (s.part g.part) w.line then s.modThread p.1 fun th => th.watchEvent 1 else s) s

/-- Steps 2 and 3 of a purge (R56): caches, replicas and TLBs of every front end. -/
def State.purgeCaches (s : State) (g : Page) : State :=
  let s := (s.part g.part).cores.foldl (fun (s : State) c => s.purgeCore g c) s
  let m := s.mem
  s.setMem { m with
    l2 := m.l2.filter fun e => !g.holdsKey (dramKey e.pte (64 * e.line))
    dir := m.dir.filter fun e => !g.holdsLine e.asid e.line
    updates := m.updates.filter fun u => !g.holdsLine u.2.asid u.2.line
    replicas := m.replicas.filter fun r => !g.holdsLine r.asid r.line
    demands := m.demands.filter fun d => !g.holdsLine d.asid d.line
    tlb := m.tlb.filter fun e => !(e.asid == g.asid && decide (g.va ≤ e.va ∧ e.va < g.va + g.size)) }

/-- PAGE_PURGE (R56): a valid leaf is replaced. DEDUCED: log 46. -/
def State.purge (s : State) (asid va : Nat) (pte : DWord) : State :=
  match s.partOfAsid asid with
  | none => s
  | some part =>
    match s.pteSlot part asid va with
    | none => s
    | some x =>
      if !pteV x.entry || x.leaf != some (ptePs x.entry) || !x.takes pte || s.pageRefused part pte va then s
      else
        let g := s.pageOf part asid va x.entry
        (((s.purgeCaches g).purgeWatches g).writePte x pte).assignPages part (s.newPages pte va)

/-- PAGE_PURGE (R56). -/
def execPagePurge (asid va : Nat) (pte : BitVec 64) (s : State) : Host.Outcome State Fault Refusal :=
  .next (s.purge asid va pte)

/-- An entry written where none is valid (R51, R366); a page of memory that its leaf names first is assigned with it. -/
def State.installPte (s : State) (part asid va : Nat) (pte : DWord) : State :=
  match s.pteSlot part asid va with
  | none => s
  | some x =>
    if pteV x.entry || !x.takes pte || s.pageRefused part pte va then s
    else (s.writePte x pte).assignPages part (s.newPages pte va)

/-- PTE_INSTALL (R51, R366). -/
def execPteInstall (asid va : Nat) (pte : BitVec 64) (s : State) : Host.Outcome State Fault Refusal :=
  match s.partOfAsid asid with
  | none => .next s
  | some part => .next (s.installPte part asid va pte)

/-! ## The remap filter and key slots (R57, R307, R391, R392) -/

/-- REMAP_REGISTER (R57, R391): a full filter refuses a further pair. -/
def execRemapRegister (part : Nat) (pair : RemapPair) (s : State) : Host.Outcome State Fault Refusal :=
  let x : Remap := { asid := pair.asid, page := pair.page, pasid := pair.pasid, ppage := pair.ppage, size := pair.size }
  .next (s.modPart part fun (p : Partition) =>
    if 1024 ≤ p.pm.remap.length then p else { p with pm := { p.pm with remap := p.pm.remap ++ [x] } })

/-- The entries of a table of `n` words in which something is written (R65). -/
def State.tableEntries (s : State) (table n : Nat) : List DWord :=
  (dedup ((s.mem.dram.filter fun (c : Host.Cell) => decide (table ≤ c.1 ∧ c.1 < table + 8 * n)).map fun c => c.1 / 8)).map
    fun w => s.dramWord (8 * w)

/-- The valid leaves below a table, through the levels left (R52). -/
def State.leavesFrom (s : State) (table : Nat) : List (Nat × Nat × Option Nat) → List DWord
  | [] => []
  | (_, len, leaf) :: rest =>
    (s.tableEntries table (2 ^ len)).flatMap fun e =>
      if !pteV e then []
      else if ptePs e = 3 then s.leavesFrom (pteBits e 8 40 * 256) rest
      else if leaf = some (ptePs e) then [e]
      else []

/-- A valid leaf of some partition names a key slot (R307). -/
def State.slotNamed (s : State) (slot : Nat) : Bool :=
  s.parts.any fun (p : Nat × Partition) => p.2.valid && p.2.vdevs.any fun (v : Nat × VDev) =>
    (s.leavesFrom v.2.root walkLevels).any fun e => pteEd e == slot

/-- KEY_SLOT_LOAD (R307, R392): a slot is loaded only while no valid leaf names it; a blob that fails to unseal leaves it
empty. DEDUCED: log 42. -/
def execKeySlotLoad (slot : Nat) (blob : BitVec 512) (s : State) : Host.Outcome State Fault Refusal :=
  if s.slotNamed (slot % 16) then .next s
  else .next (s.setFw { s.fw with keys := Sparse.set s.fw.keys (slot % 16) (Config.unseal blob) })

/-! ## Creation and destruction (R296, R297, R314) -/

/-- A descriptor that keeps Tables 15-1 and 15-2, with V = 1. -/
def descriptorOk (d : BitVec 192) : Bool :=
  let n := d.toNat
  let size := sizeOfCode (natBits n 5 3)
  natBits n 0 1 == 1 && natBits n 1 4 == 0 && size != 0 && natBits n 8 4 % size == 0 && decide (natBits n 8 4 + size ≤ 12)
    && natBits n 12 21 == 0 && decide (natBits n 33 7 ≤ 64) && decide (natBits n 40 4 ≤ 8) && natBits n 44 4 == 0
    && natBits n 80 1 == 0 && natBits n 96 96 != 0

/-- A context in which nothing has been written. -/
def Saved.empty : Saved where
  switch := true
  threads := []
  gangs := []
  crews := []
  cores := []
  lagoons := []
  waits := []
  budgets := []
  poisonedCores := []
  poisonedLagoon := false

/-- CENG of a descriptor (Table 15-2). -/
def cengOf (d : BitVec 192) : Nat := natBits d.toNat 96 96

/-- A copy engine of a descriptor belongs to a valid partition (R299). -/
def State.cengHeld (s : State) (d : BitVec 192) : Bool :=
  s.parts.any fun (p : Nat × Partition) => p.2.valid && cengOf p.2.desc &&& cengOf d != 0

/-- PARTITION_CREATE (R297, R299, R314 to R316): in the fourth step of the boot; a descriptor that breaks the table, or names
an isle out of service or another partition's copy engine, is refused. -/
def execPartitionCreate (part : Nat) (desc : BitVec 192) (pages : List Nat) (s : State) :
    Host.Outcome State Fault Refusal :=
  let isles := { Partition.reset with desc := desc }.isles
  if !s.booted false || (s.part part).valid || !descriptorOk desc || decide (32 ≤ part) || isles.any (fun i => (s.isle i).outOf)
      || s.cengHeld desc then .next s
  else
    .next ((s.setPart part { Partition.reset with desc := desc, saved := some Saved.empty }).assignPages part (dedup pages))

/-- The reduction windows of a partition aborted (R314, R405). -/
def State.abortWindows (s : State) (part : Nat) : State :=
  ((s.part part).pm.windows.filter fun (w : Nat × BitVec 256) => natBits w.2.toNat 0 2 == 3).foldl
    (fun (s : State) w => s.abortWindow part w.1) s

/-- What a partition holds outside its context dropped: jobs, bands, requests, lines, translations and replicas. -/
def State.dropPart (s : State) (part : Nat) : State :=
  let p := s.part part
  let mine (jn : Nat) : Bool := ((s.job jn).map fun j => j.part == part).getD false
  let s := p.cores.foldl (fun (s : State) c => s.dropLines c fun l => p.asids.contains l.asid) s
  let m := s.mem
  { s with
    bands := s.bands.filter fun (b : Nat × Band) => !mine b.2.job
    jobs := s.jobs.filter fun (j : Nat × Job) => j.2.part != part
    reqs := s.reqs.filter fun (r : Nat × Request) => r.2.part != part
    cores := s.cores.map fun (c : Nat × Core) =>
      (c.1, { c.2 with icache := c.2.icache.filter fun l => !p.asids.contains l.asid })
    mem := { m with
      tlb := m.tlb.filter fun e => !p.asids.contains e.asid
      walks := m.walks.filter fun w => w.2.part != part
      l2 := m.l2.filter fun e => !p.asids.contains e.asid
      dir := m.dir.filter fun e => !p.asids.contains e.asid
      updates := m.updates.filter fun u => u.2.part != part
      replicas := m.replicas.filter fun r => !p.asids.contains r.asid
      demands := m.demands.filter fun d => !p.asids.contains d.asid
      holds := m.holds.filter fun h => h.part != part } }

/-- PARTITION_DESTROY (R314): a resident partition is first pre-empted as a switch. -/
def State.destroy (s : State) (part : Nat) : State :=
  let p := s.part part
  if !p.valid then s
  else if p.resident then
    let s := s.modPart part fun (p : Partition) => { p with dying := true }
    s.preempt part true
  else
    let s := ((s.abortWindows part).dropPart part).emitUsage part 2
    s.modPart part fun (q : Partition) => { Partition.reset with desc := q.desc &&& ~~~1#192, usage := q.usage }

/-- PARTITION_DESTROY (R314). -/
def execPartitionDestroy (part : Nat) (s : State) : Host.Outcome State Fault Refusal := .next (s.destroy part)

/-! ## Replica holds (R323, R348) -/

/-- REPLICA_HOLD_SET (R323, R348). -/
def execReplicaHoldSet (part die : Nat) (line : Option (Nat × Nat)) (atStall : Bool) (s : State) :
    Host.Outcome State Fault Refusal :=
  let h : ReplicaHold := { part := part, die := die, line := line, atStall := atStall }
  .next (s.setMem { s.mem with holds := if s.mem.holds.contains h then s.mem.holds else s.mem.holds ++ [h] })

/-- REPLICA_HOLD_RELEASE (R323): the queued updates are applied in order. -/
def execReplicaHoldRelease (part die : Nat) (s : State) : Host.Outcome State Fault Refusal :=
  .next (s.endHolds fun h => h.part == part && h.die == die)

end Sys2Proof.Machine
end

