-- ==== Sys2Proof/Machine/EvPower.lean ====
section
/-! DEFINITION. Boot, power, telemetry, the scrubber and die warm reset (R315 to R320, R384, R393, R395, R408, R413
to R420). -/

namespace Sys2Proof

/-! ## What the scrubber reads (Table 27-1) -/

/-- The isle of what the scrubber reads. -/
def ScrubTarget.isle : ScrubTarget → Nat
  | .reg t _ => Machine.isleOf (Machine.coreOf t)
  | .entry t _ => Machine.isleOf (Machine.coreOf t)
  | .scratch g _ => Machine.isleOf (Machine.coreOf g)
  | .cluster c _ => Machine.isleOf c
  | .priv t _ => Machine.isleOf (Machine.coreOf t)
  | .lagoon i _ => i
  | .acc c _ => Machine.isleOf c
  | .matrix c _ => Machine.isleOf c
  | .l1 c _ _ => Machine.isleOf c
  | .l2 n _ _ => Machine.isleOf n
  | .code c _ _ => Machine.isleOf c
  | .loop c => Machine.isleOf c
  | .tlb i _ _ => i
  | .tag n _ _ => Machine.isleOf n
  | .control t => Machine.isleOf (Machine.coreOf t)
  | .dram i _ => i
  | .replica _ _ die => 3 * die
  | .unscrubbed i _ => i
  | .coreImage _ c => Machine.isleOf c
  | .lagoonImage _ i => i

/-- A DRAM structure, whose corrected errors DECC counts. -/
def ScrubTarget.inDram : ScrubTarget → Bool
  | .dram _ _ => true
  | .replica _ _ _ => true
  | .coreImage _ _ => true
  | .lagoonImage _ _ => true
  | _ => false

end Sys2Proof

namespace Sys2Proof.Machine

/-! ## PSTATE and the telemetry block (R320) -/

/-- PSTATE codes (Table 16-3). -/
def powerOf (n : Nat) : Option Power := [Power.run, .gated, .retain, .off][n]?

def Power.code : Power → Nat
  | .run => 0
  | .gated => 1
  | .retain => 2
  | .off => 3

/-- The telemetry block (Table 16-3). DESIGN CHOICE: log 41. -/
def Isle.block (x : Isle) : BitVec 256 :=
  BitVec.ofNat 256 (x.power.code + 4 * bit x.bring + 8 * bit x.refx2 + 2 ^ 64 * x.dieT.toNat + 2 ^ 72 * x.dramT.toNat
    + 2 ^ 80 * x.pwr.toNat + 2 ^ 96 * x.energy.toNat + 2 ^ 128 * x.decc.toNat + 2 ^ 160 * x.cecc.toNat
    + 2 ^ 192 * (x.counter % 2 ^ 64))

/-- An isle in OFF, whose counter refreshes nothing any more, shows PSTATE 3 (R316, R318, R320). -/
def Isle.off (x : Isle) : Isle := { x with power := .off, telemetry := { x with power := .off : Isle }.block }

/-! ## Isles reset (R66, R318, R417) -/

/-- The isles of a die. -/
def islesOf (die : Nat) : List Nat := (List.range 3).map (· + 3 * die)

/-- A partition is resident on an isle. -/
def State.residentOn (s : State) (isle : Nat) : Bool :=
  s.parts.any fun (p : Nat × Partition) => p.2.resident && p.2.holdsIsle isle

/-- The cores of an isle lose what they hold, and the directory counts them no more. -/
def State.clearCores (s : State) (isle : Nat) : State :=
  (coresOfIsle isle).foldl
    (fun (s : State) c =>
      if (Tab.get? s.cores c).isNone then s else (s.dropLines c fun _ => true).setCore c Core.reset) s

/-- An isle reset: its counter starts at 0, its SRAM has never been written, and its slices hold nothing. -/
def State.resetIsle (s : State) (isle : Nat) (power : Power) : State :=
  let s := s.clearCores isle
  let s := s.setMem { s.mem with
    l2 := s.mem.l2.filter fun e => isleOf e.slice != isle
    tlb := s.mem.tlb.filter fun e => e.isle != isle }
  s.modIsle isle fun x => { Isle.reset with power := power, outOf := x.outOf, refx2 := x.refx2 }

/-! ## Boot (R315 to R317) -/

/-- The number of a port in an event's DETAIL. -/
def portDetail : Port → Nat
  | .memory i => Config.portNumber 0 i
  | .core c => Config.portNumber 1 c
  | .ethernet e => Config.portNumber 2 e
  | .strait b => Config.portNumber 3 b

/-- The isle that a failed port takes out of service (R316). -/
def portIsle : Port → Option Nat
  | .memory i => some i
  | .core c => some (isleOf c)
  | _ => none

/-- An isle out of service stays in OFF (R316). -/
def State.takeOut (s : State) (isle : Nat) : State := s.modIsle isle fun x => { x.off with outOf := true }

/-- A port that fails to train (R316): logged, with its isle out of service; isle 0 gives its bring-up service first. -/
def State.portFails (s : State) (p : Port) : State :=
  let s := s.log 0x1E (.control 0 0) none 0 (portDetail p)
  match portIsle p with
  | none => s
  | some i => if i = 0 then s else s.takeOut i

/-- The bring-up partition of isle 0 (R317), under partition number 0, with the copy engines of stack 0 (log 25). -/
def bringUpPartition : Partition where
  desc := BitVec.ofNat 192 (1 + 4 * 2 ^ 40 + (2 ^ 24 - 1) * 2 ^ 96)
  resident := true
  bring := true
  halting := none
  dying := false
  slice := 0
  saved := none
  authorised := false
  pages := []
  vdevs := []
  streams := []
  rotation := 0
  handles := []
  pm := { remap := [], windows := [], gens := [] }
  usage := Partition.reset.usage
  knots := Partition.reset.knots
  stops := []
  runtimes := []
  principal := none

/-- The boot up to step 3 (R315): a signature that fails stops it. The measurements are kept one by one, and one is recorded
once the signature over what it measures has been found good; the spec does not say how they are joined, nor whether a
header that fails is measured. DESIGN CHOICE: log 25. -/
def State.boot (s : State) (b : BootInput) : State :=
  let fw (step : Nat) (ms : List (BitVec 384)) (failed : List Port) : State :=
    s.setFw { s.fw with boot := { step := step, measurements := ms, failed := failed } }
  if !b.headerOk then fw 1 [] []
  else if !b.imageOk then fw 2 [b.headerHash] []
  else
    let s := b.failed.foldl (fun (s : State) p => s.portFails p) (fw 3 [b.headerHash, b.imageHash] b.failed)
    (s.setPart 0 bringUpPartition).modIsle 0 fun x => { x with bring := true }

/-- PACKAGE_RESET (R315): the state after reset, then the boot to the bring-up service. -/
def execPackageReset (boot : BootInput) (s : State) : Host.Outcome State Fault Refusal :=
  .next (State.boot { State.reset with caps := s.caps, sched := { State.reset.sched with free := s.sched.free } } boot)

/-- A Strait boundary failed, so that the boot ends in step 3 (R316). -/
def Boot.stuck (b : Boot) : Bool := b.failed.any fun p => match p with | .strait _ => true | _ => false

/-- Isle 0 is taken out by a failed port. -/
def Boot.losesFirst (b : Boot) : Bool := b.failed.any fun p => portIsle p == some 0

/-- The pages of the bring-up window, whose lines were never written back, leave memory as it was (R317). -/
def State.unpinWindow (s : State) (p : Partition) : State :=
  s.setMem { s.mem with
    dram := s.mem.dram.filter fun (c : Host.Cell) => !p.hasPage (c.1 / 65536)
    domains := s.mem.domains.filter fun (c : Nat × BitVec 512) => !p.hasPage (c.1 / 1024)
    poison := s.mem.poison.filter fun l => !p.hasPage (l / 1024)
    unscrubbed := s.mem.unscrubbed.filter fun u => !p.hasPage u.page }

/-- Step 4 once the bring-up partition has been saved: its window is unpinned, and isle 0 starts from an isle reset (R317). -/
def State.endBringUp (s : State) : State :=
  let s := (s.unpinWindow (s.part 0)).resetIsle 0 .run
  let s := if s.fw.boot.losesFirst then s.takeOut 0 else s
  let s := s.modPart 0 fun (p : Partition) => { p with bring := false, pages := [] }
  s.setFw { s.fw with boot := { s.fw.boot with step := 4 } }

/-- BRING_UP_END (R317): the bring-up partition is pre-empted as a switch, and step 4 begins. -/
def execBringUpEnd (s : State) : Host.Outcome State Fault Refusal :=
  if s.fw.boot.step ≠ 3 ∨ s.fw.boot.stuck then .next s
  else
    let s := s.preempt 0 true
    .next (if (s.part 0).resident then s else s.endBringUp)

/-! ## Power states (R318, R319, R7) -/

/-- The die of an isle is too hot (R319). -/
def State.isHot (s : State) (isle : Nat) : Bool := s.fw.hot.contains (dieOfIsle isle)

/-- An isle may run: it is in service, its die answers, and it is not too hot. -/
def State.mayRun (s : State) (isle : Nat) : Bool :=
  !(s.isle isle).outOf && !s.isHot isle && !s.fw.reset.contains (dieOfIsle isle) && !s.fw.dead.contains (dieOfIsle isle)

/-- An isle enters a power state from RUN, or RUN from another (Table 16-2); OFF loses the SRAM, and its exit ends in an
isle reset. -/
def State.setPower (s : State) (isle : Nat) (target : Power) : State :=
  let x := s.isle isle
  if x.power = .run then
    if target = .run ∨ s.residentOn isle then s
    else if target = .off then (s.clearCores isle).modIsle isle fun x => { x.off with lagoon := [], lagPoison := [] }
    else s.modIsle isle fun x => { x with power := target }
  else if target = .run ∧ s.mayRun isle then
    if x.power = .off then s.resetIsle isle .run else s.modIsle isle fun x => { x with power := .run }
  else s

/-- ISLE_POWER_CHANGE (R318). -/
def execIslePowerChange (isle pstate : Nat) (s : State) : Host.Outcome State Fault Refusal :=
  match powerOf pstate with
  | none => .next s
  | some p => .next (if isle < 12 then s.setPower isle p else s)

/-- The partitions resident on the isles of a die. -/
def State.partsOnDie (s : State) (die : Nat) : List Nat :=
  (s.parts.filter fun (p : Nat × Partition) => p.2.resident && (islesOf die).any p.2.holdsIsle).map (·.1)

/-- The running isles of a die that no partition holds enter GATED (R319). -/
def State.gateDie (s : State) (die : Nat) : State :=
  (islesOf die).foldl
    (fun (s : State) i => if (s.isle i).power = .run then s.setPower i .gated else s) s

/-- DIE_OVERTEMP (R319): the partitions on the die are pre-empted as pauses (log 26), and its isles held in GATED. -/
def execDieOvertemp (die : Nat) (s : State) : Host.Outcome State Fault Refusal :=
  let s := s.setFw { s.fw with hot := addOnce s.fw.hot die }
  .next (((s.partsOnDie die).foldl (fun (s : State) p => s.preempt p false) s).gateDie die)

/-- DIE_TEMP_RECOVER (R319): the isles that were held in GATED run again. -/
def execDieTempRecover (die : Nat) (s : State) : Host.Outcome State Fault Refusal :=
  if !s.fw.hot.contains die then .next s
  else
    let s := s.setFw { s.fw with hot := without s.fw.hot die }
    .next ((islesOf die).foldl
      (fun (s : State) i => if (s.isle i).power = .gated then s.setPower i .run else s) s)

/-- DRAM_OVERTEMP (R7): the refresh rate of a hot layer is doubled. -/
def execDramOvertemp (isle : Nat) (s : State) : Host.Outcome State Fault Refusal :=
  .next (s.modIsle isle fun x => { x with refx2 := true })

/-- DRAM_TEMP_RECOVER (R7). -/
def execDramTempRecover (isle : Nat) (s : State) : Host.Outcome State Fault Refusal :=
  .next (s.modIsle isle fun x => { x with refx2 := false })

/-! ## Telemetry (R320) -/

/-- TELEMETRY_REFRESH (R320): every 65,536 cycles of the isle's counter; the sensors' readings are free values
(log 5). -/
def execTelemetryRefresh (isle : Nat) (s : State) : Host.Outcome State Fault Refusal :=
  if (s.isle isle).counter % 65536 ≠ 0 then .next s
  else
    let (energy, s) := s.freeWord
    let (temps, s) := s.freeWord
    .next (s.modIsle isle fun x =>
      let x : Isle := { x with energy := energy, pwr := temps.setWidth 16, dramT := slice temps 16 8, dieT := slice temps 24 8 }
      { x with telemetry := x.block })

/-! ## The scrubber (R384, R393, R413, R414) -/

/-- The scrubber works on an isle (R414). -/
def State.scrubs (s : State) (isle : Nat) : Bool := !s.isleAbsent isle

/-- Watches on a physical line that has become poisoned wake with reason 1 (R385). -/
def State.wakePoisoned (s : State) (key : Nat) : State :=
  s.threads.foldl
    (fun (s : State) (p : Nat × Thread) =>
      match p.2.watch with
      | none => s
      | some w =>
        let here :=
          if 2 ^ 71 ≤ w.line then false
          else if 2 ^ 70 ≤ w.line then w.line - 2 ^ 70 == key / 64
          else
            match s.walkNow (s.part (s.partOf p.1)) (w.line / 2 ^ 50) (64 * (w.line % 2 ^ 50)) with
            | .leaf pte => dramKey pte (64 * (w.line % 2 ^ 50)) / 64 == key / 64
            | _ => false
        if w.space = .glb ∧ !w.overflow ∧ here then s.modThread p.1 fun th => th.watchEvent 1 else s) s

/-- Every line of a physical page poisoned (R393). -/
def State.poisonPage (s : State) (page : Nat) : State :=
  s.setMem { s.mem with
    poison := (s.mem.poison.filter fun l => l / 1024 != page) ++ (List.range 1024).map (· + 1024 * page)
    unscrubbed := s.mem.unscrubbed.filter fun u => u.page != page }

/-- A line whose tag or directory entry is lost: invalidated in every L1, its privatised and owned copies merged first
(Table 27-1). -/
def State.loseTag (s : State) (asid line : Nat) : State :=
  let part := (s.partOfAsid asid).getD 0
  let s := s.mergeOthers part asid line (2 ^ 64 - 1) none
  let s := (s.part part).cores.foldl
    (fun (s : State) c =>
      if ((s.core c).line? asid line).isNone then s
      else
        let s := s.dropLines c fun l => l.asid == asid && l.line == line
        (s.wake .glb (asid * 2 ^ 50 + line) 1 fun t => coreOf t == c).loseMarksOf asid line 1 fun t => coreOf t == c) s
  s.setMem { s.mem with
    l2 := s.mem.l2.filter fun e => !(e.asid == asid && e.line == line)
    dir := s.mem.dir.filter fun e => !(e.asid == asid && e.line == line) }

/-- A saved context changed. -/
def State.modSaved (s : State) (part : Nat) (f : Saved → Saved) : State :=
  s.modPart part fun (p : Partition) => { p with saved := p.saved.map f }

/-- An image of a saved context that lies at a line of DRAM is poisoned with it (R303, R408). -/
def Saved.spoil (x : Saved) (at_ : Nat × ContextUnit) : Saved :=
  match at_.2 with
  | .core k => { x with poisonedCores := addOnce x.poisonedCores (32 * at_.1 + k) }
  | .lagoon => { x with poisonedLagoon := x.poisonedLagoon || x.switch }
  | .isle => x

/-- The saved contexts whose areas hold a line of DRAM are poisoned there (R408). -/
def State.spoilContexts (s : State) (key : Nat) : State :=
  { s with parts := s.parts.map fun (p : Nat × Partition) =>
      match p.2.contextAt p.1 (key / 64 * 64) with
      | none => p
      | some u => (p.1, { p.2 with saved := p.2.saved.map fun x => x.spoil u }) }

/-- UNCORRECTABLE_ERROR (R384, R413): what Table 27-1 gives for the structure. DEDUCED: log 45. -/
def State.uncorrectable (s : State) : ScrubTarget → State
  | .reg t r => (s.modThread t fun th => { th with poison := addOnce th.poison r.toNat }).log 0x01 (.core (coreOf t)) (some (s.partOf t)) 0 0
  | .entry t n =>
    let spoil (e : PsqEntry) : PsqEntry := if e.seq = n then { e with poison := true } else e
    (s.modThread t fun th => { th with psq := th.psq.map spoil }).log 0x01 (.core (coreOf t)) (some (s.partOf t)) 0 0
  | .scratch g w => (s.setBankPoison (.scr g) (addOnce (s.bankPoison (.scr g)) w)).log 0x01 (.core (coreOf g)) none (16 * w) 0
  | .cluster c w => (s.setBankPoison (.clu c) (addOnce (s.bankPoison (.clu c)) w)).log 0x01 (.core c) none (16 * w) 0
  | .priv t w =>
    (s.modThread t fun th => { th with privPoison := addOnce th.privPoison w }).log 0x01 (.core (coreOf t)) (some (s.partOf t)) (16 * w) 0
  | .lagoon i w => (s.setBankPoison (.lag i) (addOnce (s.bankPoison (.lag i)) w)).log 0x01 (.bank i (w / 4 % 32)) none (16 * w) 0
  | .acc c n => (s.modCore c fun x => { x with accPoison := addOnce x.accPoison n }).log 0x01 (.core c) none 0 0
  | .matrix c m => (s.modCore c fun x => { x with macros := Tab.modify x.macros m fun y => { y with poison := true } }).log 0x01 (.core c) none 0 0
  | .l1 c a line =>
    let spoil (l : L1Line) : L1Line := if l.asid = a ∧ l.line = line then { l with poison := true } else l
    let s := s.modCore c fun x => { x with l1 := x.l1.map spoil }
    (s.wake .glb (a * 2 ^ 50 + line) 1 fun t => coreOf t == c).log 0x01 (.core c) none (64 * line) 0
  | .l2 n a line =>
    match s.mem.l2.find? fun e => e.slice == n && e.asid == a && e.line == line with
    | none => s
    | some e =>
      let key := dramKey e.pte (64 * line)
      ((s.poisonLine key).wakePoisoned key).log 0x01 (.slice n) none (64 * line) 0
  | .code c a line => s.modCore c fun x => { x with icache := x.icache.filter fun l => !(l.asid == a && l.line == line) }
  | .loop c =>
    let out (th : Thread) : Thread := { th with marks := { th.marks with inRun := false } }
    ({ s with threads := s.threads.map fun (p : Nat × Thread) => if coreOf p.1 = c then (p.1, out p.2) else p }).freeLoop c
  | .tlb i a va =>
    s.setMem { s.mem with tlb := s.mem.tlb.filter fun e =>
      !(e.isle == i && e.asid == a && e.va / pageBytes (ptePs e.pte) == va / pageBytes (ptePs e.pte)) }
  | .tag n a line => (s.loseTag a line).log 0x1C (.slice n) (s.partOfAsid a) (64 * line) 0
  | .control t =>
    let part := s.partOf t
    (s.stopBand t (stopRegs 0x12 0) false).log 0x1B (.core (coreOf t)) (some part) 0 0
  | .dram i key => (((s.poisonLine key).wakePoisoned key).spoilContexts key).log 0x01 (.frontEnd i) none (key / 64 * 64) 0
  | .replica a line die =>
    let part := (s.partOfAsid a).getD 0
    match s.walkNow (s.part part) a (64 * line) with
    | .leaf pte =>
      let r := s.replicaLine (s.part part) a line die pte (dramKey pte (64 * line))
      let rest := s.mem.replicas.filter fun x => !(x.asid == a && x.line == line && x.die == die)
      let s := s.setMem { s.mem with replicas := { asid := a, line := line, die := die, data := r.1, poison := true } :: rest }
      (s.wake .glb (a * 2 ^ 50 + line) 1 fun t => dieOf (coreOf t) == die).log 0x01 (.slice ((s.part part).replicaHome line die)) (some part) (64 * line) 0
    | _ => s
  | .unscrubbed i page =>
    if s.mem.unscrubbed.any fun u => u.page == page then (s.poisonPage page).log 0x0B (.frontEnd i) none (65536 * page) 0 else s
  | .coreImage p c => (s.modSaved p fun x => { x with poisonedCores := addOnce x.poisonedCores c }).log 0x01 (.frontEnd (isleOf c)) (some p) 0 0
  | .lagoonImage p i => (s.modSaved p fun x => { x with poisonedLagoon := true }).log 0x01 (.frontEnd i) (some p) 0 0

/-- SCRUB (R413, R414): a corrected error is counted, and an uncorrectable one handled. -/
def execScrub (target : ScrubTarget) (result : EccResult) (s : State) : Host.Outcome State Fault Refusal :=
  if !s.scrubs target.isle then .next s
  else
    match result with
    | .clean => .next s
    | .corrected =>
      .next (s.modIsle target.isle fun x =>
        if target.inDram then { x with decc := x.decc + 1#32 } else { x with cecc := x.cecc + 1#32 })
    | .uncorrectable => .next (s.uncorrectable target)

/-! ## Die warm reset (R417 to R420) -/

/-- A partition has an isle on a die. -/
def Partition.onDie (p : Partition) (die : Nat) : Bool := (islesOf die).any p.holdsIsle

/-- A paused partition becomes a switched one: its Lagoon is written and its caches emptied (R301, R417). -/
def State.switchPaused (s : State) (part : Nat) : State :=
  match (s.part part).saved with
  | none => s
  | some x =>
    if x.switch then s
    else
      let p := s.part part
      let lagoons := p.isles.map fun i => (i, ((s.isle i).lagoon, (s.isle i).lagPoison))
      let s := (s.emptyCaches part).modSaved part fun x => { x with switch := true, lagoons := lagoons }
      p.isles.foldl (fun (s : State) i => s.modIsle i fun y => { y with lagoon := [], lagPoison := [] }) s

/-- The bands of a continuing partition with a gang on the die stop (R419). -/
def State.stopOnDie (s : State) (part die : Nat) : State :=
  (s.gangs.filter fun (g : Nat × Gang) => s.gangIn part g.2 && dieOf (coreOf g.1) == die).foldl
    (fun (s : State) (g : Nat × Gang) =>
      match s.gang g.1 with
      | none => s
      | some x => if x.stopBand then s else s.stopBand g.1 (stopRegs 0x09 5) false) s

/-- Steps 1 and 2 of R417. -/
def State.beginReset (s : State) (die : Nat) (continuing : List Nat) : State :=
  let s := s.log 0x18 (.control die 0) none 0 die
  let on := (s.parts.filter fun (p : Nat × Partition) => p.2.valid && p.2.onDie die).map (·.1)
  let s := on.foldl (fun (s : State) p => s.emitUsage p 1) s
  on.foldl
    (fun (s : State) p =>
      if !(s.part p).resident then s.switchPaused p
      else if continuing.contains p then s.stopOnDie p die
      else s.preempt p true) s

/-- The die is quiet: no partition on it is being pre-empted, and no gang stands on its cores (R417 step 3). -/
def State.dieQuiet (s : State) (die : Nat) : Bool :=
  (s.parts.all fun (p : Nat × Partition) => p.2.halting.isNone || !p.2.onDie die)
    && s.gangs.all fun (g : Nat × Gang) => dieOf (coreOf g.1) != die

/-- Lines homed in the die's slices merged and invalidated (R417 step 4). -/
def State.emptyHomes (s : State) (die : Nat) : State :=
  let here (q : Partition) (line : Nat) : Bool := dieOf (q.home line) == die
  (s.parts.filter fun (p : Nat × Partition) => p.2.resident && p.2.onDie die).foldl
    (fun (s : State) (p : Nat × Partition) =>
      p.2.cores.foldl
        (fun (s : State) c =>
          let s := s.emptyWtq c
          let s := s.mergeWhere p.1 c fun l => here p.2 l.line
          let lost := (s.core c).l1.filter fun l => here p.2 l.line
          let s := s.dropLines c fun l => here p.2 l.line
          lost.foldl
            (fun (s : State) (l : L1Line) =>
              (s.wake .glb (l.asid * 2 ^ 50 + l.line) 1 fun t => coreOf t == c).loseMarksOf l.asid l.line 1 fun t => coreOf t == c) s) s) s

/-- Steps 3 to 6 of R417: the homes of the die empty, its replicas go, and its isles are reset. -/
def State.resetDie (s : State) (die : Nat) : State :=
  let s := s.emptyHomes die
  let s := s.setMem { s.mem with replicas := s.mem.replicas.filter fun r => r.die != die }
  let s := (islesOf die).foldl (fun (s : State) i => s.resetIsle i .off) s
  let restart (p : Nat × Partition) : Nat × Partition :=
    if dieOfIsle p.2.first = die then (p.1, { p.2 with slice := 0 }) else p
  let s := { s with parts := s.parts.map restart }
  s.setFw { s.fw with reset := addOnce s.fw.reset die }

/-- Updates that a rebuilt replica owes no more (R395, R417 step 8). -/
def State.rebuildReplicas (s : State) (die : Nat) : State :=
  let near (u : MirrorUpdate) : MirrorUpdate := { u with todo := without u.todo die, unacked := without u.unacked die }
  let s1 := s.setMem { s.mem with
    replicas := s.mem.replicas.filter fun r => r.die != die
    updates := s.mem.updates.map fun (u : Nat × MirrorUpdate) => (u.1, near u.2) }
  s.mem.updates.foldl (fun (s : State) (u : Nat × MirrorUpdate) => s.settleUpdate u.1) s1

/-- Step 8 of R417: the die is readmitted. -/
def State.readmitDie (s : State) (die : Nat) : State :=
  let s := s.setFw { s.fw with reset := without s.fw.reset die }
  let s := (islesOf die).foldl
    (fun (s : State) i =>
      if (s.isle i).outOf then s
      else s.modIsle i fun x => { x with power := if s.isHot i then .gated else .run }) s
  (s.rebuildReplicas die).log 0x19 (.control die 0) none 0 die

/-- Vector 0xFB for a lost die (R418). -/
def lostRecord (part die : Nat) : BitVec 128 := interruptRecord die 0 0 4 part 0xFB

/-- A partition with an isle on a die that stays out of service (R418): one switched out is destroyed without a further
save; a continuing one is told. -/
def State.settleLost (s : State) (die part : Nat) : State :=
  let p := s.part part
  if p.resident then s.postPrincipal part 0xFB (lostRecord part die)
  else
    let s := p.streams.foldl
      (fun (s : State) (x : Nat × Stream) =>
        match x.2.runtime with
        | none => s
        | some d => s.post d 0xFB (lostRecord part die)) s
    s.destroy part

/-- DIE_OUT_OF_SERVICE (R418). -/
def State.loseDie (s : State) (die : Nat) : State :=
  let s := s.setFw { s.fw with reset := without s.fw.reset die, dead := addOnce s.fw.dead die }
  let s := (islesOf die).foldl (fun (s : State) i => s.takeOut i) s
  let s := s.log 0x1D (.control die 0) none 0 die
  let on := (s.parts.filter fun (p : Nat × Partition) => p.2.valid && p.2.onDie die).map (·.1)
  on.foldl (fun (s : State) p => s.settleLost die p) s

/-- DETAIL of a repaired lane: the port, and the lane beside it (event 0x1A; log 6). -/
def laneDetail (p : Port) (lane : Nat) : Nat := Config.portNumber (4 + portDetail p) lane

/-- DIE_WARM_RESET (R417 to R419). -/
def execDieWarmReset (die : Nat) (stage : DieStage) (s : State) : Host.Outcome State Fault Refusal :=
  let under := s.fw.reset.contains die
  match stage with
  | .start continuing => .next (if under || s.fw.dead.contains die then s else s.beginReset die continuing)
  | .reset => .next (if under || !s.dieQuiet die then s else s.resetDie die)
  | .repaired port lane =>
    .next (if under then s.log 0x1A (.control die 0) none 0 (laneDetail port lane) else s)
  | .readmit => .next (if under then s.readmitDie die else s)
  | .fail => .next (if under then s.loseDie die else s)

end Sys2Proof.Machine
end

