-- ==== Sys2Proof/Machine/Schedule.lean ====
section
/-! DEFINITION. The model's own schedule (log 4): the agents' steps that fall due at the end of a cycle, the waits
tested again, and the wait-for records brought up to date (R270). What the firmware, the runtime, the debugger, a
peer or an error decides is not among them: those steps stand in the agenda from outside. -/

namespace Sys2Proof.Machine

/-! ## Steps that fall due -/

/-- The number of an agent's endpoint in the mesh: by row, column and endpoint of the router (R273). -/
def Agent.endpoint (a : Agent) : Nat := let (x, y, e) := a.place; 64 * y + 4 * x + e

/-- A step that sends a REQ flit, with the endpoint from which it comes. -/
abbrev ReqTurn := Nat × Turn

/-- A step placed among others by its source endpoint, behind those of the same one. -/
def placeReq (x : ReqTurn) : List ReqTurn → List ReqTurn
  | [] => [x]
  | y :: ys => if x.1 < y.1 then x :: y :: ys else y :: placeReq x ys

/-- REQ flits of one cycle in the order in which the homes take them: by the lowest source endpoint (R281). -/
def reqOrder (xs : List ReqTurn) : List Turn := (xs.foldl (fun l x => placeReq x l) []).map (·.2)

/-- The step of an outstanding access: a load binds, an atomic is performed (R93, R104). -/
def Outstanding.access (t : Nat) (o : Outstanding) : Option Turn :=
  match o.kind with
  | .load _ _ _ _ _ _ _ => some (.event (.loadBind t o.order))
  | .atomic _ _ _ _ _ => some (.event (.longLatencyComplete t o.order))
  | _ => none

/-- The step of an outstanding result computed at issue (R128). -/
def Outstanding.due (t : Nat) (o : Outstanding) : Option Turn :=
  match o.kind with
  | .result _ _ => some (.event (.longLatencyComplete t o.order))
  | _ => none

/-- The step that ends a thread's pause (R145). -/
def State.holdDue (s : State) (t : Nat) (th : Thread) : List Turn :=
  match th.hold with
  | .sleep wake => if wake ≤ s.clock t then [.event (.sleepExpiry t)] else []
  | .yield 0 => [.event (.yieldExpiry t)]
  | _ => []

/-- The step that ends an instruction in progress (R21, R186). -/
def Thread.stallDue (th : Thread) (t : Nat) : List Turn :=
  match th.hold with
  | .finishing _ => [.event (.stallingInstructionComplete t)]
  | .storeCheck _ => [.event (.storeCheckPass t)]
  | _ => []

/-- The threads whose entries a thread waits for: those that its next instruction inspects and cannot yet, or its own, where a
CINV of code does (R106, R190). -/
def State.forcedBy (s : State) (t : Nat) (th : Thread) : List Nat :=
  match th.hold with
  | .finishing (.cinv target _ _) => if target = 0 then [] else [t]
  | .none =>
    match s.fetch t th.pc with
    | .word w =>
      match decode (s.regCount t) w with
      | .ok i =>
        match Instr.inspection i with
        | some (g, _) => if s.inspectionMay t i || !th.guard (headerOf w) then [] else s.inspected t g
        | none => []
      | .error _ => []
    | _ => []
  | _ => []

/-- Entries forced by an instruction that waits for them (R106). -/
def State.forcedDue (s : State) : List Turn :=
  (dedup (s.threads.flatMap fun (p : Nat × Thread) => s.forcedBy p.1 p.2)).flatMap fun u =>
    match s.thread u with
    | none => []
    | some th => (th.psq.filter fun e => !e.tent).map fun e => .event (.psqEntryDrain u e.seq)

/-- The steps of a thread that fall due, beside its accesses (R89, R250, R364). -/
def State.threadDue (s : State) (p : Nat × Thread) : List Turn :=
  s.holdDue p.1 p.2 ++ p.2.longs.filterMap (Outstanding.due p.1)
    ++ (p.2.psq.filter (s.drainDue p.1)).map (fun e => .event (.drainAgeExpiry p.1 e.seq))
    ++ (if p.2.choice.cancel then [.event (.cancelTakeEffect p.1)] else [])
    ++ (if p.2.asyncs.isEmpty then [] else [.event (.asyncFaultDeliver p.1)])

/-- The steps of a core's threads and of its write-through queue that send REQ flits (R90, R93, R104, R186, R188). -/
def State.coreReqs (s : State) : List ReqTurn :=
  (s.threads.flatMap fun (p : Nat × Thread) =>
      (p.2.longs.filterMap (Outstanding.access p.1) ++ p.2.stallDue p.1).map fun x => ((Agent.core (coreOf p.1)).endpoint, x))
    ++ (s.cores.filter fun (c : Nat × Core) => !c.2.wtq.isEmpty).map fun c =>
      ((Agent.core c.1).endpoint, .event (.writeThroughPerform c.1))

/-- Inspections: cut points to take, and ends to test (R97, R98). -/
def State.inspDue (s : State) : List Turn :=
  s.insps.flatMap fun (q : Nat × Insp) =>
    q.2.todo.map (fun t => .event (.inspTargetCut q.1 t)) ++ (if q.2.todo.isEmpty then [.event (.inspComplete q.1)] else [])

/-- Merges that homes have demanded, which go before every other flit of their cycle (R281, R285). -/
def State.mergeDue (s : State) : List Turn :=
  s.mem.demands.map fun d => .event (.mergeReceive d.core (d.asid * 2 ^ 50 + d.line))

/-- Memory: Mirror updates, walks, of which a front end runs 64, and clears (R49, R61, R63, R65). -/
def State.memDue (s : State) : List Turn :=
  (s.mem.updates.flatMap fun (u : Nat × MirrorUpdate) =>
      (u.2.todo.filter fun d => !s.replicaHeld u.2.part d u.2.asid u.2.line).map (fun d => Turn.event (.mirrorPropagate u.1 d))
        ++ (u.2.unacked.filter fun d => !u.2.todo.contains d).map fun d => Turn.event (.mirrorReplicaAck u.1 d))
    ++ ((List.range 12).flatMap fun i => ((s.mem.walks.filter fun w => w.2.isle == i).take walkers).map fun w =>
      Turn.event (.translationWalkEnd w.1))
    ++ (s.mem.unscrubbed.filter fun u => u.started).map fun u => .event (.unscrubbedClear u.page)

/-- The first of `n` pieces from `tag` that a request has not performed. -/
def Request.nextOf (r : Request) (tag n : Nat) : Option Nat :=
  (((List.range (r.done.length + 1)).map (· + tag)).find? fun k => !r.done.contains k && decide (k < tag + n))

/-- The block of a request that is performed next. -/
def Request.nextBlock (r : Request) : Option Nat :=
  match r.body with
  | .copy c => r.nextOf 0 c.pieces
  | .kick _ _ [] => some 0
  | .kick _ _ items =>
    (List.range items.length).findSome? fun i =>
      match items[i]? with
      | none => none
      | some x => if x.bad || x.done.isSome then none else r.nextOf (itemPiece i) x.copy.pieces
  | .tilef desc image geom _ _ => r.nextOf 0 ((tileImageLines (Tile.of desc) (perLine image geom.toNat) + 63) / 64)
  | .fabx c _ _ _ => r.nextOf 0 c.lines
  | _ => none

/-- The items of a KICK that may complete. -/
def Request.itemsDue (r : Request) : List Nat :=
  match r.body with
  | .kick _ _ items =>
    (List.range items.length).filter fun i =>
      match items[i]? with
      | none => false
      | some x => x.done.isNone && (r.itemStatus i x).isSome
  | _ => []

/-- The completion of a request, or the next step of its own kind. -/
def State.endDue (s : State) (id : Nat) (r : Request) : List Turn :=
  match r.body with
  | .mloadb _ _ _ _ _ _ _ _ => [.event (.mloadbComplete id)]
  | .mma m => [.event (if m.kb < m.kLen / 32 then .mmaKBlock id else .mmaComplete id)]
  | .fmtset _ _ [] => [.event (.fmtsetComplete id none)]
  | .fmtset _ _ left => left.map fun c => .event (.fmtsetComplete id (some c))
  | _ => if (s.outcomeOf id r).isSome then [.event (.requestComplete id)] else []

/-- The requests that the engines work on. -/
def State.liveReqs (s : State) : List (Nat × Request) := s.reqs.filter fun r => !r.2.saved

/-- The blocks that engines move next, which send REQ flits (R217, R281). -/
def State.engineReqs (s : State) : List ReqTurn :=
  s.liveReqs.flatMap fun (r : Nat × Request) =>
    if s.mayWork r.2 then
      (r.2.nextBlock.toList).map fun k => ((Sys2Proof.Machine.senderOf (linkOf (s.senderOf r.2) 0)).endpoint, Turn.event (.copyBlock r.1 k))
    else []

/-- The ends of items and requests, and messages (R214, R225, R228, R232, R253). -/
def State.requestDue (s : State) : List Turn :=
  (s.liveReqs.flatMap fun (r : Nat × Request) =>
    r.2.itemsDue.map (fun i => Turn.event (.kickItemComplete r.1 i)) ++ s.endDue r.1 r.2)
    ++ s.msgs.map fun (m : Nat × Message) =>
      .event (if m.2.status.isSome then .msendAnswer m.1 else .messageArrival m.1)

/-- Placements, at most one on an isle (R263). -/
def State.placeDue (s : State) : List Turn :=
  (s.jobs.foldl
    (fun (w : List Turn × List Nat) (j : Nat × Job) =>
      match s.gangSpot j.1 j.2, s.bandSpots j.1 j.2 with
      | some (c, b), _ =>
        if w.2.contains (isleOf c) then w else (w.1 ++ [.event (.gangPlace j.1 c b)], isleOf c :: w.2)
      | none, some spots =>
        let isle := isleOf (spots.headD (0, 0)).1
        if w.2.contains isle then w else (w.1 ++ [.event (.bandPlace j.1 spots)], isle :: w.2)
      | none, none => w) ([], [])).1

/-- Jobs: cards, starts, placements, retirements and sinks (R32, R36, R37, R39, R261, R263). -/
def State.jobDue (s : State) : List Turn :=
  ((s.parts.filter fun (p : Nat × Partition) => p.2.resident && (s.nextHead p.2).isSome).map
      fun p => Turn.event (.cardAdmit p.2.first))
    ++ ((s.jobs.filter fun (j : Nat × Job) => j.2.phase == .admitted && j.2.waits.isEmpty).map
      fun j => Turn.event (.jobStart j.1))
    ++ s.placeDue
    ++ ((s.gangs.filter fun (g : Nat × Gang) => s.mayRetire g.1 g.2).map fun g => Turn.event (.gangRetire g.1))
    ++ (s.jobs.filter fun (j : Nat × Job) => s.jobOver j.1 j.2).map fun j => Turn.event (.jobSinkWrite j.1)

/-- What every isle's counter brings (R262, R267, R271, R320). -/
def State.isleDue (s : State) (isle : Nat) : List Turn :=
  let x := s.isle isle
  let at_ (n : Nat) (e : Instr) : List Turn := if x.counter % n = 0 then [.event e] else []
  if x.power = .off then []
  else
    at_ 4096 (.jobWaitReevaluate isle) ++ at_ 65536 (.budgetPeriodRefill isle) ++ at_ 65536 (.telemetryRefresh isle)
      ++ at_ (2 ^ 20) (.waitForWalk isle)

/-- What a partition brings: pre-emptions and destructions that go on, slices and usage records (R298, R302, R311,
R314, R404). An expired slice pre-empts as a pause (log 26). -/
def State.partDue (s : State) (p : Nat × Partition) : List Turn :=
  let now := s.partClock p.1
  (match p.2.halting with
    | none => []
    | some h => .event (.preempt p.1 h.1) :: (if h.2 + 2 ^ 24 ≤ now then [.event (.preemptStep3Bound p.1)] else []))
    ++ (if p.2.dying then [.event (.partitionDestroy p.1)] else [])
    ++ (if p.2.resident && p.2.sliceCycles != 0 && p.2.halting.isNone && decide (p.2.slice + p.2.sliceCycles ≤ now) then
        [.event (.timeSliceExpiry p.1 false)] else [])
    ++ (if p.2.valid && now % 2 ^ 24 == 0 then [.event (.usageRecordEmit p.1 0)] else [])
    ++ (if p.2.bring && (p.2.halting.isSome || !p.2.resident) then [.event .bringUpEnd] else [])

/-- The offsets in a window to which a request of this device contributes, with its lines. -/
def State.redOffsets (s : State) (r : Request) (c : CopyJob) : List Nat :=
  (List.range c.lines).filterMap fun k =>
    match s.engineAttrs r.part r.asid (c.lineRange k).1 with
    | .leaf pte => some (physOf pte (c.lineRange k).1 % 2 ^ 36)
    | _ => none

/-- The merged result of the whole generation is written: what this device holds of it is, and so is the range of its own
contribution, which says how far the generation extends (R294, R295). Where the device contributes nothing itself, the
acknowledgement stands in the agenda from outside. DEDUCED: log 37. -/
def State.redWritten (s : State) (x : Reduction) : Bool :=
  x.gen == s.generation x.part x.window && !x.parts.isEmpty && x.offsets.all x.merged.contains
    && s.reqs.any fun q => q.2.part == x.part && (match q.2.body with
        | .fabx c true (some w) g =>
          w == x.window && g == x.gen && q.2.piecesDone 0 c.lines && (s.redOffsets q.2 c).all x.merged.contains
        | _ => false)

/-- The network's timers and reductions (R279, R291, R294, R295). -/
def State.netDue (s : State) : List Turn :=
  ((s.net.links.filter fun (l : Nat × Link) => (l.2.resend.map fun n => decide (n ≤ s.net.cycle)).getD false).map
      fun l => Turn.event (.backoffExpiry l.1))
    ++ ((s.net.conns.filter fun (c : Nat × Conn) =>
        !c.2.failed && !c.2.sent.all (·.acked) && decide (c.2.since + resendSpan ≤ s.net.cycle)).map
      fun c => Turn.event (.causewayResendTimeout c.1))
    ++ ((s.net.reds.filter fun (r : Nat × Reduction) =>
        r.2.offsets.any fun o => !r.2.merged.contains o && (s.mergedAt r.2 o).isSome).map
      fun r => Turn.event (.mergedResultDeliver r.2.part r.2.window))
    ++ (s.net.reds.filter fun r => s.redWritten r.2).map fun r => .event (.reductionAck r.2.part r.2.window)

/-- A hot die whose isles still run. -/
def State.heatDue (s : State) : List Turn :=
  (s.fw.hot.filter fun d => (islesOf d).any fun i => (s.isle i).power == .run).map fun d => .event (.dieOvertemp d)

/-- The steps of agents that fall due (log 4): merges first, and REQ flits by their sources (R281). -/
def State.due (s : State) : List Turn :=
  s.mergeDue ++ s.memDue ++ s.threads.flatMap s.threadDue ++ s.forcedDue ++ s.inspDue
    ++ reqOrder (s.coreReqs ++ s.engineReqs) ++ s.requestDue ++ s.jobDue
    ++ (List.range 12).flatMap s.isleDue ++ s.parts.flatMap s.partDue ++ s.netDue ++ s.heatDue

/-! ## Waits -/

/-- The waits on objects, pipes and receives tested again (R204, R231, R234). -/
def State.retestWaits (s : State) : State :=
  s.threads.foldl (fun (s : State) (p : Nat × Thread) => ((s.retestBarw p.1).retestPipe p.1).retestMtest p.1) s

/-- A mask of lanes. -/
def maskOf (lanes : List Nat) : Nat := lanes.foldl (fun n l => n ||| 2 ^ l) 0

/-- The lanes that a JOIN of a lane still waits for, with the rejoin PC (R27, R270). -/
def State.joinMissing (s : State) (t : Nat) : Option (Nat × Nat) :=
  ((s.crew (crewOf t)).records.find? fun (r : Rejoin) => bitOf r.arrived (laneOf t)).map fun (r : Rejoin) =>
    (r.rejoin.toNat, (r.mask &&& ~~~r.arrived).toNat)

/-- The lanes that a collective still waits for (R29, R270). -/
def State.collMissing (s : State) (t : Nat) (pc : Addr56) : Nat :=
  let k := crewOf t
  maskOf ((s.liveLanes k).filter fun l =>
    match (s.crew k).arrivals.find? fun x => x.lane == l with
    | none => true
    | some x => x.pc != pc)

/-- The address of a watched line in its space: a VA, a physical address, or a window's. -/
def Watch.place (w : Watch) : Nat :=
  if 2 ^ 71 ≤ w.line then 64 * (w.line % 2 ^ 50) else if 2 ^ 70 ≤ w.line then 64 * (w.line - 2 ^ 70) else 64 * (w.line % 2 ^ 50)

/-- What a wait-for record says beside its waiter: KIND, OSPACE, OBJ, SIGK and SIG (Table 13-5). -/
structure WaitSays where
  kind   : Nat
  ospace : Nat
  obj    : Nat
  sigk   : Nat
  sig    : Nat
  deriving DecidableEq, Repr

/-- A wait with its signallers; where it has none, one record of SIGK 0. -/
def saysOf (kind ospace obj : Nat) (sigs : List (Nat × Nat)) : List WaitSays :=
  (if sigs.isEmpty then [(0, 0)] else sigs).map fun g => { kind := kind, ospace := ospace, obj := obj, sigk := g.1, sig := g.2 }

/-- Members other than this device have contributions missing from a generation (R399). -/
def State.othersMissing (s : State) (part window gen : Nat) : Bool :=
  match s.reduction? part window gen with
  | none => true
  | some (_, x) =>
    !x.parts.any (·.whole)
      && decide ((dedup (x.parts.map (·.member))).length + 1 < s.windowBits part window 64 16)

/-- The records of a wait for the reduction window of a request of `.red`: its signallers are the bands whose contributions are
held; where another device's are missing, one record has SIGK 0 (R270, R399). DEDUCED: log 36. -/
def State.redSays (s : State) (q : Nat × Request) : List WaitSays :=
  match q.2.body with
  | .fabx c true (some w) g =>
    let held := s.reqs.filterMap fun (x : Nat × Request) =>
      match x.2.body with
      | .fabx _ true (some w') g' =>
        if w' = w ∧ g' = g ∧ x.2.part = q.2.part then (s.gang x.2.gang).map fun y => (2, y.bandValue) else none
      | _ => none
    saysOf 7 4 c.dst.toNat (onceEach (held ++ if s.othersMissing q.2.part w g then [(0, 0)] else []))
  | _ => []

/-- The records of a member that waits for a reduction window: a request of `.red` whose sink it waits for is in flight
(R270). -/
def State.windowSays (s : State) (names : Request → SinkRef → Bool) : List WaitSays :=
  s.reqs.flatMap fun (q : Nat × Request) => if q.2.sinks.any (names q.2) then s.redSays q else []

/-- An instruction that takes an entry of the request-engine queue (R216). -/
def Instr.takesEntry : Instr → Bool
  | .copy _ _ => true
  | .kick _ _ => true
  | .tilef _ _ => true
  | .fabxWr _ _ => true
  | .fabxRed _ _ => true
  | _ => false

/-- The next instruction of a thread would take an entry of the request-engine queue. -/
def State.wantsEntry (s : State) (t : Nat) (th : Thread) : Bool :=
  th.hold == .none &&
    (match s.fetch t th.pc with
     | .word w =>
       (match decode (s.regCount t) w with
        | .ok i => Instr.takesEntry i && wordGuard th w
        | .error _ => false)
     | _ => false)

/-- A thread that a full queue stalls, every entry of which it could take being held by a FABX `.red`, counts as waiting for
the first such window (R402). -/
def State.stalledOnRed (s : State) (t : Nat) (th : Thread) : Option (Nat × Request) :=
  if s.engineRoom (coreOf t) th.gang || !s.wantsEntry t th then none
  else
    let held := s.reqs.filter fun (q : Nat × Request) =>
      q.2.core == coreOf t && !q.2.saved && (q.2.op == 0x90 || q.2.op == 0x91 || q.2.op == 0x93 || q.2.op == 0x95)
        && (q.2.shared || q.2.gang == th.gang)
    if held.all fun q => match q.2.body with | .fabx _ true _ _ => true | _ => false then held.head? else none

/-- What the records of a thread say that its wait derives: BARW, CWAIT, MWAIT, JOIN or a collective (Table 13-5), or a queue
full of reductions (R402). The requests that name what a thread waits for may be accepted while it waits (R208, R270). -/
def State.waitSays (s : State) (t : Nat) (th : Thread) : List WaitSays :=
  let part := s.partOf t
  match th.hold with
  | .wait (.barw acc _ _ _ _) =>
    let b := s.bankOf (coreOf t) part acc
    saysOf 0 acc.space.code.toNat (acc.issued.toNat % 2 ^ 32) (s.barwSigs b) ++ s.windowSays fun r k => s.sinkNames r b k
  | .wait (.cwait va _ _) =>
    let c := primaryForm (s.part part) (s.asidOf t) va
    saysOf 2 4 va (s.cwaitSigs part (s.asidOf t) va) ++ s.windowSays fun r k => r.part == part && s.sinkCounts r c k
  | .wait .join => ((s.joinMissing t).map fun x => saysOf 4 0 x.1 [(4, x.2)]).getD []
  | _ =>
    match s.waitingIn t th with
    | some o =>
      (match o.kind with
        | .mwait _ _ =>
          (match th.watch with
            | none => saysOf 3 4 0 []
            | some w => saysOf 3 w.space.code.toNat w.place [])
        | _ => saysOf 5 0 0 [(4, s.collMissing t o.pc)])
    | none => ((s.stalledOnRed t th).map s.redSays).getD []

/-- A thread waits at an end of a pipe. -/
def Thread.atPipe (th : Thread) : Bool :=
  match th.hold with
  | .wait (.qput _ _ _) => true
  | .wait (.qget _ _ _) => true
  | _ => false

/-- What the record of a parked gang says: it waits for the producer of the pipe on which it is parked (R35, R264). It stands
under the gang's handle, that of the thread in its first place. DEDUCED: log 36. -/
def State.parkSays (s : State) (g : Gang) : List WaitSays :=
  match g.parkedOn, s.band g.band with
  | some k, some b =>
    match b.pipes[k]? with
    | none => []
    | some p => saysOf 1 p.space.code.toNat p.base ((b.gangs.filter fun h =>
        ((s.gang h).map fun (x : Gang) => x.index == p.prod).getD false).map fun h => (1, h))
  | _, _ => []

/-- A record says this. -/
def WaitRec.says (w : WaitRec) (x : WaitSays) : Bool :=
  w.kind == x.kind && w.ospace == x.ospace && w.obj == x.obj && w.sigk == x.sigk && w.sig == x.sig

/-- A record that a wait derives, and that may change without the waiter's own step. -/
def WaitRec.derived (w : WaitRec) : Bool := w.kind != 1 && w.kind != 6

/-- Records of a waiter brought up to date: those that stand as they should keep their age (R271), and the others go or come
(R399 where the table has no room). -/
def State.settleSays (s : State) (t : Nat) (mine : WaitRec → Bool) (xs : List WaitSays) : State :=
  let isle := isleOf (coreOf t)
  let old := (s.isle isle).waits.filter fun w => w.waiter == t && mine w
  let gone (w : WaitRec) : Bool := w.waiter == t && mine w && !xs.any w.says
  let new := xs.filter fun x => !old.any fun w => w.says x
  let s := if old.any gone then s.modIsle isle fun x => { x with waits := x.waits.filter fun w => !gone w } else s
  new.foldl (fun (s : State) x => s.addWaits t x.kind x.ospace x.obj [(x.sigk, x.sig)]) s

/-- The records of one thread brought up to date. -/
def State.settleRecord (s : State) (t : Nat) (th : Thread) : State := s.settleSays t WaitRec.derived (s.waitSays t th)

/-- The record of a gang brought up to date, unless the thread of that handle waits at a pipe itself. -/
def State.settlePark (s : State) (h : Nat) (g : Gang) : State :=
  if ((s.thread h).map Thread.atPipe).getD false then s else s.settleSays h (fun w => w.kind == 1) (s.parkSays g)

/-- Every record that a wait derives brought up to date. -/
def State.settleAllRecords (s : State) : State :=
  let s := s.threads.foldl (fun (s : State) (p : Nat × Thread) => s.settleRecord p.1 p.2) s
  s.gangs.foldl (fun (s : State) (g : Nat × Gang) => s.settlePark g.1 g.2) s

/-! ## Gangs -/

/-- Placed gangs run from the next cycle on (R36), and a thread of a stopped band that has ended what it had in
progress goes (R367). -/
def State.settleGangs (s : State) : State :=
  let start (g : Gang) : Gang := if g.phase = .placed then { g with phase := .running } else g
  let s := { s with gangs := s.gangs.map fun (g : Nat × Gang) => (g.1, start g.2) }
  { s with threads := s.threads.map fun (p : Nat × Thread) =>
      if p.2.hold = .none ∧ s.bandStopped p.2 then (p.1, p.2.halt) else p }

end Sys2Proof.Machine
end

