-- ==== Sys2Proof/Machine/Cycle.lean ====
section
/-! DEFINITION. What reaches the machine from outside (R290, R308, R321), and the issue cycle: the cores' ports in turn (R22, R23), and what the end of a cycle does to
counters (R5), hint and YIELD counts (R127, R145), ages (R23) and credits (R264). -/

namespace Sys2Proof.Machine

/-! ## Inputs -/

/-- A runtime thread changed. -/
def State.modRuntime (s : State) (designator : Nat) (f : Runtime → Runtime) : State :=
  s.setFw { s.fw with runtimes := Tab.set s.fw.runtimes designator (f (Tab.getD s.fw.runtimes designator Runtime.empty)) }

/-- An input of the machine: a control core runs a runtime thread or takes it off, the thread takes records (R308), a tenant
lets a debugger at its partition (R321), the firmware sets the UDP port of Causeway frames (R290). -/
def State.input (s : State) : Input → State
  | .runtimeRuns d on => s.modRuntime d fun r => r.dispatch on
  | .runtimeTakes d n clear => s.modRuntime d fun r => r.take n clear
  | .authorise part on => s.modPart part fun (p : Partition) => { p with authorised := on }
  | .udpPort port => s.setNet { s.net with udp := port }

/-! ## The cycle -/

/-- Twelve isles (R2). -/
def isleCount : Nat := 12

/-- The counters of all isles advance, but for isles in OFF (R5, R318). -/
def State.tick (s : State) : State :=
  (List.range isleCount).foldl
    (fun s n => s.modIsle n fun x => if x.power = .off then x else { x with counter := x.counter + 1 }) s

/-- One issue cycle of a YIELD and of a YLD hint has passed (R127, R145). -/
def Thread.countYield (th : Thread) : Thread :=
  { th with
    hold := match th.hold with
      | .yield n => .yield (n - 1)
      | x => x
    marks := { th.marks with yld := th.marks.yld - 1 } }

/-- Ages at the end of a cycle (R23, R264): threads that were READY and offered and have not issued. DEDUCED: log 32. -/
def State.ageAll (s : State) : State :=
  { s with threads := s.threads.map fun (p : Nat × Thread) =>
      if s.sched.offered.contains p.1 && !s.sched.chosen.contains p.1 then
        (p.1, { p.2 with marks := { p.2.marks with age := p.2.marks.age + 1 } })
      else p }

/-- Credits whose holder has no READY thread on the core are forgotten, so that they start afresh (R264). -/
def State.settleCredits (s : State) : State :=
  { s with cores := s.cores.map fun (p : Nat × Core) =>
      if p.2.vcredit.isEmpty && p.2.scredit.isEmpty then p
      else
        let cs := s.cands p.1
        (p.1, { p.2 with vcredit := p.2.vcredit.filter fun v => cs.any fun c => c.vdev == v.1
                         scredit := p.2.scredit.filter fun v => cs.any fun c => c.strm == v.1 }) }

/-- The MWAITs whose limit has passed in the cycle that ends, and that no event of it has ended (R200). -/
def State.timeouts (s : State) : List Turn :=
  (s.threads.filter fun (p : Nat × Thread) => p.2.mwaitDue (s.clock p.1)).map fun p => .event (.mwaitTimeout p.1)

/-- The end of a cycle: the events of watches end their MWAITs (R200), the network runs at twice the isle clock (R275, R277),
the lines that the slices missed have come and the front ends have accepted what the reserves held (R280; DESIGN CHOICE:
log 40), and what waited for a budget is tried again before what falls due (R268). -/
def State.endCycle (s : State) : State :=
  let held := s.sched.waiting
  let s := s.ageAll.settleCredits.settleWatches
  let late := s.timeouts
  let s := s.tick.settleGangs.retestWaits.settleAllRecords
  let s := { s with threads := s.threads.map fun (p : Nat × Thread) => (p.1, p.2.countYield)
                    net := { s.net with cycle := s.net.cycle + 2 }
                    mem := { s.mem with misses := [], reserve := [] }
                    sched := { s.sched with waiting := [], core := 0, port := 0, pcs := 0, offered := [], chosen := [],
                                            issue := none } }
  s.later (late ++ held ++ s.due.filter fun x => !held.contains x)

/-- What the issue cycle does next: a fetch step, a group, or the end of the cycle. -/
inductive Next where
  | fetch (s : State)
  | group (iss : Issue) (s : State)
  | done (s : State)
  deriving DecidableEq, Repr

/-- The first port from `port` on that forms a group. -/
def State.tryPorts (s : State) (core port : Nat) : Nat → Next
  | 0 => .done s
  | n + 1 =>
    match s.form core port with
    | (some iss, s') => .group iss { s' with sched := { s'.sched with core := core, port := port + 1 } }
    | (none, s') => s'.tryPorts core (port + 1) n

/-- The cores in turn: at its first port a core fetches and counts its distinct PCs. -/
def State.tryCores (s : State) : List Nat → Next
  | [] => .done s
  | c :: cs =>
    if c < s.sched.core then s.tryCores cs
    else
      let port := if c = s.sched.core then s.sched.port else 0
      if port = 0 then
        match s.fetchNeed c with
        | some need => .fetch (s.fetchStep need)
        | none =>
          match { s with sched := { s.sched with pcs := s.readyPcs c } }.tryPorts c 0 4 with
          | .done s' => s'.tryCores cs
          | x => x
      else
        match s.tryPorts c port (4 - port) with
        | .done s' => s'.tryCores cs
        | x => x

/-- Cores that hold threads, lowest first. -/
def State.busyCores (s : State) : List Nat := dedup (s.threads.map fun p => coreOf p.1)

/-- The next issue of the cycle. -/
def State.nextIssue (s : State) : Next := s.tryCores s.busyCores

/-- A group that issues outside the issue cycle: the members that are not held otherwise and stand at the PC of
the first (R49, R322). -/
def State.latchGroup (s : State) (ts : List Nat) : Option Issue :=
  let free := ts.filterMap fun t => (s.thread t).bind fun th =>
    if th.hold = .none ∨ th.hold = .replay then some (t, th.pc) else none
  match free with
  | [] => none
  | (t, pc) :: _ =>
    match s.fetch t pc with
    | .word w => some { core := coreOf t, pc := pc, word := w, members := (free.filter fun x => x.2 == pc).map (·.1) }
    | _ => none

/-- Threads whose replay finds no word go back to READY, and fetch in the issue cycle. -/
def State.dropReplay (s : State) (ts : List Nat) : State :=
  ts.foldl (fun s t => s.modThread t fun th => if th.hold = .replay then { th with hold := .none } else th) s

end Sys2Proof.Machine
end

