-- ==== Sys2Proof/Machine/Predicate.lean ====
section
/-! DEFINITION. Compare and predicate logic, OP 30 to 33 (R154 to R156). -/

namespace Sys2Proof.Machine

/-- ICMP (R154): the predicate receives the comparison of X(a) with X(b) under CC. -/
def execIcmp (h : Hdr) (x : IcmpArgs) (s : State) : Host.Outcome State Fault Refusal :=
  perThread (.icmp h x) (threadOnly fun th =>
    th.setPred x.p (ccHolds x.cc (readTy x.ty (th.a32 x.a)) (readTy x.ty (th.b32 x.b)))) s

/-- The entry of PLOP's truth table (R155). -/
def plopIndex (a b c : Bool) : Nat := 4 * bit a + 2 * bit b + bit c

/-- PLOP (R155): pD := MOD[53 + 4 pA + 2 pB + pC]. -/
def execPlop (h : Hdr) (x : PlopArgs) (s : State) : Host.Outcome State Fault Refusal :=
  perThread (.plop h x) (threadOnly fun th =>
    th.setPred x.p (bitOf x.table (plopIndex (th.pred x.pa) (th.pred x.pb) (th.pred x.pc)))) s

/-- P2G (R156): gD[7:0] = p7 to p0, with p7 = 1. -/
def execP2g (h : Hdr) (x : DstArgs) (s : State) : Host.Outcome State Fault Refusal :=
  perThread (.p2g h x) (threadOnly fun th =>
    th.setReg x.d.toNat ((th.preds ||| 0x80#8).setWidth 32)) s

/-- G2P (R156): p_i := b[i] for every mask bit, i at most 6. -/
def execG2p (h : Hdr) (x : G2pArgs) (s : State) : Host.Outcome State Fault Refusal :=
  perThread (.g2p h x) (threadOnly fun th =>
    let b := th.reg x.b.toNat
    (maskPreds x.mask).foldl (fun th p => th.setPred p (bitOf b p.toNat)) th) s

end Sys2Proof.Machine
end

