-- ==== Sys2Proof/Machine/Dispatch.lean ====
section
/-! DEFINITION. One arm per constructor of Instr: a direct call of its meaning. -/

namespace Sys2Proof.Machine

/-- The effect of an instruction, or of a step of one of the machine's agents. -/
def exec (i : Instr) (s : State) : Host.Outcome State Fault Refusal :=
  match i with
  | .nop h => Sys2Proof.Machine.execNop h s
  | .bra h x => Sys2Proof.Machine.execBra h x s
  | .brx h x => Sys2Proof.Machine.execBrx h x s
  | .brt h x => Sys2Proof.Machine.execBrt h x s
  | .call h x => Sys2Proof.Machine.execCall h x s
  | .callx h x => Sys2Proof.Machine.execCallx h x s
  | .ret h => Sys2Proof.Machine.execRet h s
  | .exit h => Sys2Proof.Machine.execExit h s
  | .split h x => Sys2Proof.Machine.execSplit h x s
  | .join h => Sys2Proof.Machine.execJoin h s
  | .yield h x => Sys2Proof.Machine.execYield h x s
  | .sleep h x => Sys2Proof.Machine.execSleep h x s
  | .trap h x => Sys2Proof.Machine.execTrap h x s
  | .iret h x => Sys2Proof.Machine.execIret h x s
  | .bkpt h x => Sys2Proof.Machine.execBkpt h x s
  | .svc h x => Sys2Proof.Machine.execSvc h x s
  | .add h x => Sys2Proof.Machine.execAdd h x s
  | .sub h x => Sys2Proof.Machine.execSub h x s
  | .mul h x => Sys2Proof.Machine.execMul h x s
  | .mulh h x => Sys2Proof.Machine.execMulh h x s
  | .mad h x => Sys2Proof.Machine.execMad h x s
  | .madw h x => Sys2Proof.Machine.execMadw h x s
  | .div h x => Sys2Proof.Machine.execDiv h x s
  | .rem h x => Sys2Proof.Machine.execRem h x s
  | .min h x => Sys2Proof.Machine.execMin h x s
  | .max h x => Sys2Proof.Machine.execMax h x s
  | .abs h x => Sys2Proof.Machine.execAbs h x s
  | .neg h x => Sys2Proof.Machine.execNeg h x s
  | .addc h x => Sys2Proof.Machine.execAddc h x s
  | .lea h x => Sys2Proof.Machine.execLea h x s
  | .add64 h x => Sys2Proof.Machine.execAdd64 h x s
  | .sub64 h x => Sys2Proof.Machine.execSub64 h x s
  | .and h x => Sys2Proof.Machine.execAnd h x s
  | .or h x => Sys2Proof.Machine.execOr h x s
  | .xor h x => Sys2Proof.Machine.execXor h x s
  | .andn h x => Sys2Proof.Machine.execAndn h x s
  | .shl h x => Sys2Proof.Machine.execShl h x s
  | .shr h x => Sys2Proof.Machine.execShr h x s
  | .sar h x => Sys2Proof.Machine.execSar h x s
  | .rotl h x => Sys2Proof.Machine.execRotl h x s
  | .clz h x => Sys2Proof.Machine.execClz h x s
  | .popc h x => Sys2Proof.Machine.execPopc h x s
  | .brev h x => Sys2Proof.Machine.execBrev h x s
  | .bfx h x => Sys2Proof.Machine.execBfx h x s
  | .bfi h x => Sys2Proof.Machine.execBfi h x s
  | .prmb h x => Sys2Proof.Machine.execPrmb h x s
  | .mov h x => Sys2Proof.Machine.execMov h x s
  | .sel h x => Sys2Proof.Machine.execSel h x s
  | .icmp h x => Sys2Proof.Machine.execIcmp h x s
  | .plop h x => Sys2Proof.Machine.execPlop h x s
  | .p2g h x => Sys2Proof.Machine.execP2g h x s
  | .g2p h x => Sys2Proof.Machine.execG2p h x s
  | .shflIdx h x => Sys2Proof.Machine.execShflIdx h x s
  | .shflUp h x => Sys2Proof.Machine.execShflUp h x s
  | .shflDown h x => Sys2Proof.Machine.execShflDown h x s
  | .shflXor h x => Sys2Proof.Machine.execShflXor h x s
  | .voteAll h x => Sys2Proof.Machine.execVoteAll h x s
  | .voteAny h x => Sys2Proof.Machine.execVoteAny h x s
  | .voteBallot h x => Sys2Proof.Machine.execVoteBallot h x s
  | .voteCount h x => Sys2Proof.Machine.execVoteCount h x s
  | .cred h op x => Sys2Proof.Machine.execCred h op x s
  | .cscan h x => Sys2Proof.Machine.execCscan h x s
  | .matchLanes h x => Sys2Proof.Machine.execMatchLanes h x s
  | .elect h x => Sys2Proof.Machine.execElect h x s
  | .fadd h x => Sys2Proof.Machine.execFadd h x s
  | .fsub h x => Sys2Proof.Machine.execFsub h x s
  | .fmul h x => Sys2Proof.Machine.execFmul h x s
  | .fma h x => Sys2Proof.Machine.execFma h x s
  | .fmin h x => Sys2Proof.Machine.execFmin h x s
  | .fmax h x => Sys2Proof.Machine.execFmax h x s
  | .fcmp h x => Sys2Proof.Machine.execFcmp h x s
  | .fdiv h x => Sys2Proof.Machine.execFdiv h x s
  | .frcp h x => Sys2Proof.Machine.execFrcp h x s
  | .frsq h x => Sys2Proof.Machine.execFrsq h x s
  | .fsqrt h x => Sys2Proof.Machine.execFsqrt h x s
  | .fexp2 h x => Sys2Proof.Machine.execFexp2 h x s
  | .flog2 h x => Sys2Proof.Machine.execFlog2 h x s
  | .fsinp h x => Sys2Proof.Machine.execFsinp h x s
  | .fcosp h x => Sys2Proof.Machine.execFcosp h x s
  | .fscale h x => Sys2Proof.Machine.execFscale h x s
  | .fclass h x => Sys2Proof.Machine.execFclass h x s
  | .frint h x => Sys2Proof.Machine.execFrint h x s
  | .fcvt h x => Sys2Proof.Machine.execFcvt h x s
  | .ftoi h x => Sys2Proof.Machine.execFtoi h x s
  | .itof h x => Sys2Proof.Machine.execItof h x s
  | .dadd h x => Sys2Proof.Machine.execDadd h x s
  | .dmul h x => Sys2Proof.Machine.execDmul h x s
  | .dfma h x => Sys2Proof.Machine.execDfma h x s
  | .dcmp h x => Sys2Proof.Machine.execDcmp h x s
  | .hadd2 h x => Sys2Proof.Machine.execHadd2 h x s
  | .hmul2 h x => Sys2Proof.Machine.execHmul2 h x s
  | .hfma2 h x => Sys2Proof.Machine.execHfma2 h x s
  | .fdot2 h x => Sys2Proof.Machine.execFdot2 h x s
  | .fdot4 h x => Sys2Proof.Machine.execFdot4 h x s
  | .cmul h x => Sys2Proof.Machine.execCmul h x s
  | .ld h x => Sys2Proof.Machine.execLd h x s
  | .ldAfter h x => Sys2Proof.Machine.execLdAfter h x s
  | .st h x => Sys2Proof.Machine.execSt h x s
  | .ldf h x => Sys2Proof.Machine.execLdf h x s
  | .stf h x => Sys2Proof.Machine.execStf h x s
  | .pref h x => Sys2Proof.Machine.execPref h x s
  | .cinvD h x => Sys2Proof.Machine.execCinvD h x s
  | .cinvI h x => Sys2Proof.Machine.execCinvI h x s
  | .cinvIf h x => Sys2Proof.Machine.execCinvIf h x s
  | .atomAdd h x => Sys2Proof.Machine.execAtomAdd h x s
  | .atomMinS h x => Sys2Proof.Machine.execAtomMinS h x s
  | .atomMinN h x => Sys2Proof.Machine.execAtomMinN h x s
  | .atomMaxS h x => Sys2Proof.Machine.execAtomMaxS h x s
  | .atomMaxN h x => Sys2Proof.Machine.execAtomMaxN h x s
  | .atomAnd h x => Sys2Proof.Machine.execAtomAnd h x s
  | .atomOr h x => Sys2Proof.Machine.execAtomOr h x s
  | .atomXor h x => Sys2Proof.Machine.execAtomXor h x s
  | .atomExch h x => Sys2Proof.Machine.execAtomExch h x s
  | .atomFadd h x => Sys2Proof.Machine.execAtomFadd h x s
  | .atomFmin h x => Sys2Proof.Machine.execAtomFmin h x s
  | .atomFmax h x => Sys2Proof.Machine.execAtomFmax h x s
  | .atomcas h x => Sys2Proof.Machine.execAtomcas h x s
  | .red h x => Sys2Proof.Machine.execRed h x s
  | .atombInc h x => Sys2Proof.Machine.execAtombInc h x s
  | .atombDec h x => Sys2Proof.Machine.execAtombDec h x s
  | .inspT h x => Sys2Proof.Machine.execInspT h x s
  | .inspG h x => Sys2Proof.Machine.execInspG h x s
  | .inspB h x => Sys2Proof.Machine.execInspB h x s
  | .inspA h x => Sys2Proof.Machine.execInspA h x s
  | .inspS h x => Sys2Proof.Machine.execInspS h x s
  | .monitor h x => Sys2Proof.Machine.execMonitor h x s
  | .mwait h x => Sys2Proof.Machine.execMwait h x s
  | .barinit h x => Sys2Proof.Machine.execBarinit h x s
  | .bara h x => Sys2Proof.Machine.execBara h x s
  | .barw h x => Sys2Proof.Machine.execBarw h x s
  | .elide h x => Sys2Proof.Machine.execElide h x s
  | .elend h => Sys2Proof.Machine.execElend h s
  | .copy h x => Sys2Proof.Machine.execCopy h x s
  | .kick h x => Sys2Proof.Machine.execKick h x s
  | .tileh h x => Sys2Proof.Machine.execTileh h x s
  | .tilef h x => Sys2Proof.Machine.execTilef h x s
  | .cwait h x => Sys2Proof.Machine.execCwait h x s
  | .fabxWr h x => Sys2Proof.Machine.execFabxWr h x s
  | .fabxRed h x => Sys2Proof.Machine.execFabxRed h x s
  | .mma h x => Sys2Proof.Machine.execMma h x s
  | .mloadb h x => Sys2Proof.Machine.execMloadb h x s
  | .mread h x => Sys2Proof.Machine.execMread h x s
  | .mwrite h x => Sys2Proof.Machine.execMwrite h x s
  | .mzero h x => Sys2Proof.Machine.execMzero h x s
  | .qput h x => Sys2Proof.Machine.execQput h x s
  | .qget h x => Sys2Proof.Machine.execQget h x s
  | .qcount h x => Sys2Proof.Machine.execQcount h x s
  | .msend h x => Sys2Proof.Machine.execMsend h x s
  | .mpost h x => Sys2Proof.Machine.execMpost h x s
  | .mtest h x => Sys2Proof.Machine.execMtest h x s
  | .jspawn h x => Sys2Proof.Machine.execJspawn h x s
  | .jnext h x => Sys2Proof.Machine.execJnext h x s
  | .posti h x => Sys2Proof.Machine.execPosti h x s
  | .tryAlt h x => Sys2Proof.Machine.execTryAlt h x s
  | .fail h => Sys2Proof.Machine.execFail h s
  | .cut h x => Sys2Proof.Machine.execCut h x s
  | .mark h x => Sys2Proof.Machine.execMark h x s
  | .steal h x => Sys2Proof.Machine.execSteal h x s
  | .trailw h x => Sys2Proof.Machine.execTrailw h x s
  | .fmtset h x => Sys2Proof.Machine.execFmtset h x s
  | .fmtget h x => Sys2Proof.Machine.execFmtget h x s
  | .movs h x => Sys2Proof.Machine.execMovs h x s
  | .movsCycl h d => Sys2Proof.Machine.execMovsCycl h d s
  | .movsCych h d => Sys2Proof.Machine.execMovsCych h d s
  | .sets h x => Sys2Proof.Machine.execSets h x s
  | .setsTrb h d => Sys2Proof.Machine.execSetsTrb h d s
  | .setsFlg h d => Sys2Proof.Machine.execSetsFlg h d s
  | .setsFrm h d => Sys2Proof.Machine.execSetsFrm h d s
  | .inspTargetCut insp thread => Sys2Proof.Machine.execInspTargetCut insp thread s
  | .inspComplete insp => Sys2Proof.Machine.execInspComplete insp s
  | .elideSectionFail thread reason => Sys2Proof.Machine.execElideSectionFail thread reason s
  | .asyncFaultDeliver thread => Sys2Proof.Machine.execAsyncFaultDeliver thread s
  | .longLatencyComplete thread order => Sys2Proof.Machine.execLongLatencyComplete thread order s
  | .loadBind thread order => Sys2Proof.Machine.execLoadBind thread order s
  | .storeCheckPass thread => Sys2Proof.Machine.execStoreCheckPass thread s
  | .psqEntryDrain thread seq => Sys2Proof.Machine.execPsqEntryDrain thread seq s
  | .drainAgeExpiry thread seq => Sys2Proof.Machine.execDrainAgeExpiry thread seq s
  | .writeThroughPerform core => Sys2Proof.Machine.execWriteThroughPerform core s
  | .mergeDemand core line => Sys2Proof.Machine.execMergeDemand core line s
  | .mergeReceive core line => Sys2Proof.Machine.execMergeReceive core line s
  | .mirrorPropagate update die => Sys2Proof.Machine.execMirrorPropagate update die s
  | .mirrorReplicaAck update die => Sys2Proof.Machine.execMirrorReplicaAck update die s
  | .translationWalkEnd walk => Sys2Proof.Machine.execTranslationWalkEnd walk s
  | .parkedAccessResolved thread installed => Sys2Proof.Machine.execParkedAccessResolved thread installed s
  | .unscrubbedClear page => Sys2Proof.Machine.execUnscrubbedClear page s
  | .watchLossWake core line => Sys2Proof.Machine.execWatchLossWake core line s
  | .mwaitTimeout thread => Sys2Proof.Machine.execMwaitTimeout thread s
  | .sleepExpiry thread => Sys2Proof.Machine.execSleepExpiry thread s
  | .yieldExpiry thread => Sys2Proof.Machine.execYieldExpiry thread s
  | .copyBlock req block => Sys2Proof.Machine.execCopyBlock req block s
  | .requestComplete req => Sys2Proof.Machine.execRequestComplete req s
  | .kickItemComplete req item => Sys2Proof.Machine.execKickItemComplete req item s
  | .mloadbComplete req => Sys2Proof.Machine.execMloadbComplete req s
  | .mmaKBlock req => Sys2Proof.Machine.execMmaKBlock req s
  | .mmaComplete req => Sys2Proof.Machine.execMmaComplete req s
  | .fmtsetComplete req core => Sys2Proof.Machine.execFmtsetComplete req core s
  | .messageArrival msg => Sys2Proof.Machine.execMessageArrival msg s
  | .msendAnswer msg => Sys2Proof.Machine.execMsendAnswer msg s
  | .reqNackReceive link entry => Sys2Proof.Machine.execReqNackReceive link entry s
  | .backoffExpiry link => Sys2Proof.Machine.execBackoffExpiry link s
  | .causewayFrameReceive conn frame => Sys2Proof.Machine.execCausewayFrameReceive conn frame s
  | .causewayAckReceive conn ackseq => Sys2Proof.Machine.execCausewayAckReceive conn ackseq s
  | .causewayResendTimeout conn => Sys2Proof.Machine.execCausewayResendTimeout conn s
  | .connectionOpen part window entry => Sys2Proof.Machine.execConnectionOpen part window entry s
  | .mergedResultDeliver part window => Sys2Proof.Machine.execMergedResultDeliver part window s
  | .reductionAck part window => Sys2Proof.Machine.execReductionAck part window s
  | .windowAbort part window => Sys2Proof.Machine.execWindowAbort part window s
  | .cancelTakeEffect thread => Sys2Proof.Machine.execCancelTakeEffect thread s
  | .cardAdmit isle => Sys2Proof.Machine.execCardAdmit isle s
  | .jobWaitReevaluate isle => Sys2Proof.Machine.execJobWaitReevaluate isle s
  | .jobStart job => Sys2Proof.Machine.execJobStart job s
  | .gangPlace job core slot => Sys2Proof.Machine.execGangPlace job core slot s
  | .bandPlace job spots => Sys2Proof.Machine.execBandPlace job spots s
  | .gangRetire gang => Sys2Proof.Machine.execGangRetire gang s
  | .jobSinkWrite job => Sys2Proof.Machine.execJobSinkWrite job s
  | .budgetPeriodRefill isle => Sys2Proof.Machine.execBudgetPeriodRefill isle s
  | .timeSliceExpiry part away => Sys2Proof.Machine.execTimeSliceExpiry part away s
  | .preempt part away => Sys2Proof.Machine.execPreempt part away s
  | .preemptStep3Bound part => Sys2Proof.Machine.execPreemptStep3Bound part s
  | .resume part => Sys2Proof.Machine.execResume part s
  | .waitForWalk isle => Sys2Proof.Machine.execWaitForWalk isle s
  | .breakWait thread => Sys2Proof.Machine.execBreakWait thread s
  | .pagePurge asid va pte => Sys2Proof.Machine.execPagePurge asid va pte s
  | .remapRegister part pair => Sys2Proof.Machine.execRemapRegister part pair s
  | .keySlotLoad slot blob => Sys2Proof.Machine.execKeySlotLoad slot blob s
  | .partitionCreate part desc pages => Sys2Proof.Machine.execPartitionCreate part desc pages s
  | .partitionDestroy part => Sys2Proof.Machine.execPartitionDestroy part s
  | .replicaHoldSet part die line atStall => Sys2Proof.Machine.execReplicaHoldSet part die line atStall s
  | .replicaHoldRelease part die => Sys2Proof.Machine.execReplicaHoldRelease part die s
  | .debugStop gang => Sys2Proof.Machine.execDebugStop gang s
  | .singleStep gang pc => Sys2Proof.Machine.execSingleStep gang pc s
  | .packageReset boot => Sys2Proof.Machine.execPackageReset boot s
  | .bringUpEnd => Sys2Proof.Machine.execBringUpEnd s
  | .islePowerChange isle pstate => Sys2Proof.Machine.execIslePowerChange isle pstate s
  | .dieOvertemp die => Sys2Proof.Machine.execDieOvertemp die s
  | .dramOvertemp isle => Sys2Proof.Machine.execDramOvertemp isle s
  | .telemetryRefresh isle => Sys2Proof.Machine.execTelemetryRefresh isle s
  | .usageRecordEmit part kind => Sys2Proof.Machine.execUsageRecordEmit part kind s
  | .scrub target result => Sys2Proof.Machine.execScrub target result s
  | .dieWarmReset die stage => Sys2Proof.Machine.execDieWarmReset die stage s
  | .foreignProbeRefuse receiver part source thread order => Sys2Proof.Machine.execForeignProbeRefuse receiver part source thread order s
  | .svcReply thread value => Sys2Proof.Machine.execSvcReply thread value s
  | .stallingInstructionComplete thread => Sys2Proof.Machine.execStallingInstructionComplete thread s
  | .debugRelease gang => Sys2Proof.Machine.execDebugRelease gang s
  | .debugStopEnable gang on => Sys2Proof.Machine.execDebugStopEnable gang on s
  | .debugStateWrite gang write => Sys2Proof.Machine.execDebugStateWrite gang write s
  | .dieTempRecover die => Sys2Proof.Machine.execDieTempRecover die s
  | .dramTempRecover isle => Sys2Proof.Machine.execDramTempRecover isle s
  | .streamDescriptorWrite part write => Sys2Proof.Machine.execStreamDescriptorWrite part write s
  | .runtimeThreadRegister part threads streams principal => Sys2Proof.Machine.execRuntimeThreadRegister part threads streams principal s
  | .pteInstall asid va pte => Sys2Proof.Machine.execPteInstall asid va pte s
  | .macsecKeyLoad port keys => Sys2Proof.Machine.execMacsecKeyLoad port keys s
  | .runtimeCardPlace part vdev stream va => Sys2Proof.Machine.execRuntimeCardPlace part vdev stream va s

end Sys2Proof.Machine
end

