-- ==== Sys2Proof/Machine/Step.lean ====
section
/-! DEFINITION. One step of the machine: the turn at the head of the agenda (an agent's step, an input, or a group that
issues outside the issue cycle), or else what the issue cycle does next (log 4). -/

namespace Sys2Proof.Machine

/-- The group in the issue latch runs the instruction that its word decodes to under the register count of its
job (R120, R123); a word that decodes to none raises its fault (R363). -/
def State.run (s : State) (iss : Issue) : Host.Outcome State Fault Refusal :=
  match decode (s.regCount (iss.members.headD 0)) iss.word with
  | .ok i => exec i s
  | .error e => .next (s.illegalGroup e iss)

/-- The state with the first turn of the agenda taken off and the issue latch empty. -/
def State.popTurn (s : State) : State :=
  { s with sched := { s.sched with agenda := s.sched.agenda.drop 1, issue := none } }

/-- The state with a group in the issue latch; its members are not considered again in the cycle (R23). -/
def State.latch (s : State) (iss : Issue) : State :=
  { s with sched := { s.sched with issue := some iss, chosen := s.sched.chosen ++ iss.members } }

/-- The next step of the issue cycle. -/
def State.issueStep (s : State) : Host.Outcome State Fault Refusal :=
  match s.nextIssue with
  | .fetch s' => .next s'
  | .group iss s' => s'.run iss
  | .done s' => .next s'.endCycle

/-- One step of the machine. -/
def step (s : State) : Host.Outcome State Fault Refusal :=
  match s.sched.agenda with
  | .event e :: _ => exec e s.popTurn
  | .group ts :: _ =>
    match s.popTurn.latchGroup ts with
    | some iss => (s.popTurn.latch iss).run iss
    | none => .next (s.popTurn.dropReplay ts)
  | .input x :: _ => .next (s.popTurn.input x)
  | .stepEnd ts :: _ => .next (s.popTurn.endStep ts)
  | .issue :: _ => s.popTurn.issueStep
  | [] => { s with sched := { s.sched with issue := none } }.issueStep

/-- The code base, context and virtual device that `State.withFetchWord` uses: CODEBASE 1, so that code begins
at 2^16. -/
def fetchBase : Nat := 65536

/-- A card that declares 512 registers, one thread and the code base above (Table 2-6). -/
def fetchCard : BitVec 512 := BitVec.ofNat 512 (1 + 2 ^ 320 + 2 ^ 333 + 64 * 2 ^ 339 + 2 ^ 346)

/-- A thread as a placement leaves it (R20), with its PC at the code base. DESIGN CHOICE: log 3. -/
def fetchThread : Thread where
  gang := 0
  tid := 0
  pc := BitVec.ofNat 56 fetchBase
  regs := []
  preds := 0#8
  flg := 0#32
  frm := 0#32
  hnd := 0#64
  csp := 64#32
  cych := none
  choice := { cpd := 0#32, trb := 0#32, trp := 0#32, trl := 32#32, fser := 0#32, link := none, cancel := false,
              elide := none }
  faults := { fcause := 0#32, fpc := 0#64, fopc := 0#32, fopd := 0#32, fopa := 0#64, fopb := 0#64, fimm := 0#32,
              fmod := 0#32, faddrl := 0#32, faddrh := 0#32, fguard := 0#32, finfo := 0#32, inh := false }
  priv := []
  privPoison := []
  psq := []
  nextSeq := 0
  order := 0
  longs := []
  hold := .none
  watch := none
  tokens := []
  asyncs := []
  marks := { release := false, solo := false, yld := 0, age := 0, keepA := none, inRun := false }
  poison := []
  missed := none
  last := 0#96
  opa := 0#64
  opb := 0#64

/-- The gang of that thread. -/
def fetchGang : Gang where
  job := 0
  number := 0
  threads := 1
  slot := 0
  band := 0
  index := 0
  variant := 0
  argp := 0#64
  argn := 0#32
  argi := 0#32
  phase := .running
  scratch := []
  scrPoison := []
  debug := false
  stopped := false
  stopBand := false
  parkedOn := none
  halved := false

/-- The job of that gang, on stream 0 of virtual device 0 of partition 0. -/
def fetchJob : Job where
  part := 0
  vdev := 0
  stream := 0
  cardVa := 0
  card := fetchCard
  pipes := []
  waits := []
  phase := .running
  slots := 1
  next := 0
  started := 1
  fmt := []
  copies := []
  stop := none
  deps := []

/-- The state with an instruction where the next step fetches: a resident partition 0 with one stream, a job
with one gang of one thread at its code base, the word in the core's instruction cache, and the thread's turn
first (log 7). -/
def State.withFetchWord (s : State) (nbits w : Nat) : State :=
  let word : BitVec 96 := BitVec.ofNat 96 (w % 2 ^ nbits)
  let line : ICLine := { asid := 0, line := fetchBase / 64, data := word.setWidth 512, poison := false }
  let vdev : VDev := { desc := 1#192, asid := 0, root := 0 }
  let stream : Stream := { desc := 1#64, queue := [], last := some 0, runtime := some 0 }
  let p := s.part 0
  { s with
    parts := Tab.set s.parts 0 { p with desc := p.desc ||| 1#192, resident := true, vdevs := Tab.set p.vdevs 0 vdev,
                                        streams := Tab.set p.streams 0 stream }
    jobs := Tab.set s.jobs 0 fetchJob
    gangs := Tab.set s.gangs 0 fetchGang
    bands := Tab.set s.bands 0 { job := 0, gangs := [0], pipes := [], piped := false }
    threads := Tab.set s.threads 0 fetchThread
    cores := Tab.set s.cores 0 { s.core 0 with icache := [line], loop := none }
    sched := { s.sched with agenda := .group [0] :: s.sched.agenda } }

end Sys2Proof.Machine
end

