-- ==== Sys2Proof/Safety.lean ====
section
/-! DEFINITION. The terms in which the claims are stated: the invariant of the machine's data, a group that is ready
to have an instruction's own effect, and what an instruction that only computes leaves of a thread and of the machine. -/

namespace Sys2Proof.Machine

/-! ## The invariant -/

/-- A table of threads lists each thread once, and the registers and private bytes of each are in canonical form. -/
def threadsWf (ts : Tab Thread) : Bool := Tab.wf ts && ts.all fun p => Sparse.wf p.2.regs && Memory.wf p.2.priv

/-- The data of the machine are in canonical form: DRAM, and the registers and private bytes of every thread,
resident or saved; and CAPS is that of a package (R9). -/
structure State.Inv (s : State) : Prop where
  dram    : Memory.wf s.mem.dram = true
  threads : threadsWf s.threads = true
  saved   : ∀ p ∈ s.parts, ∀ x, p.2.saved = some x → threadsWf x.threads = true
  caps    : s.caps = 0x0000000F#32

/-! ## A group about to have its instruction's effect -/

/-- No completed token stands in a register that an instruction reads or writes (R213). -/
def Thread.untokened (th : Thread) (i : Instr) : Prop := ∀ p ∈ th.tokens, p.2 = Token.done → p.1 ∉ i.reads ++ i.writes

/-- A group is latched, its members are distinct threads, and each member whose guard holds passes the checks of R136
and R385 that come before the instruction's own effect. -/
structure Ready (i : Instr) (s : State) (iss : Issue) : Prop where
  latched  : s.sched.issue = some iss
  distinct : iss.members.Nodup
  passes   : ∀ t ∈ iss.members, ∃ th, s.thread t = some th ∧ Sparse.wf th.regs = true ∧
    (th.guard (headerOf iss.word) = true → precheck s t th i = none ∧ th.untokened i)

/-- A group of one thread whose guard holds, with that thread. -/
structure Single (i : Instr) (s : State) (iss : Issue) (t : Nat) (th : Thread) : Prop where
  table   : Tab.wf s.threads = true
  latched : s.sched.issue = some iss
  members : iss.members = [t]
  thread  : s.thread t = some th
  regs    : Sparse.wf th.regs = true
  guard   : th.guard (headerOf iss.word) = true
  checks  : precheck s t th i = none
  tokens  : th.untokened i

/-! ## What an instruction that only computes does to a thread -/

/-- The value that a partial update gives to a key. -/
def put {α : Type} (k : Nat) (v : α) : Nat → Option α := fun r => if r = k then some v else none

/-- A pair of registers given a 64-bit value (R123). -/
def putPair (d : Reg) (v : DWord) : Nat → Option Word :=
  fun r => if r = d.toNat then some (lo32 v) else if r = d.toNat + 1 then some (hi32 v) else none

/-- No register, no predicate. -/
def noReg : Nat → Option Word := fun _ => none

def noPred : BitVec 3 → Option Bool := fun _ => none

/-- A predicate given a value; p7 takes none (R123). -/
def putPred (p : BitVec 3) (v : Bool) : BitVec 3 → Option Bool := fun n => if n = p ∧ n ≠ 7#3 then some v else none

/-- What no instruction that only computes changes of a thread: who it is, its modes and addresses, its choice and
fault registers, its private bytes and pending stores, its watch, tokens and asynchronous faults. -/
structure SameRest (a b : Thread) : Prop where
  gang    : b.gang = a.gang
  tid     : b.tid = a.tid
  frm     : b.frm = a.frm
  hnd     : b.hnd = a.hnd
  csp     : b.csp = a.csp
  cych    : b.cych = a.cych
  choice  : b.choice = a.choice
  faults  : b.faults = a.faults
  priv    : b.priv = a.priv
  pbad    : b.privPoison = a.privPoison
  psq     : b.psq = a.psq
  watch   : b.watch = a.watch
  tokens  : b.tokens = a.tokens
  asyncs  : b.asyncs = a.asyncs

/-- Thread `b` has the registers, predicates and flags of `a`, and its rest. -/
structure SameData (a b : Thread) : Prop where
  regs  : b.regs = a.regs
  preds : b.preds = a.preds
  flg   : b.flg = a.flg
  rest  : SameRest a b

/-- Thread `b` is thread `a` after an instruction at `pc` that writes the registers `w` and the predicates `p`, raises
the flags `f`, starts the long-latency work `l`, and changes nothing else (R122, R129, R133). -/
structure Computed (pc : Addr56) (w : Nat → Option Word) (f : Nat) (p : BitVec 3 → Option Bool) (l : List LongKind)
    (a b : Thread) : Prop where
  pc    : b.pc = pc + 12#56
  regs  : ∀ r, b.reg r = (w r).getD (a.reg r)
  flg   : b.flg = a.flg ||| BitVec.ofNat 32 (f % 64)
  preds : ∀ n, b.pred n = (p n).getD (a.pred n)
  longs : b.longs.map (·.kind) = a.longs.map (·.kind) ++ l
  rest  : SameRest a b

/-- Every ready group of an instruction completes, where the condition `c` holds of each member whose guard holds; such
a member is changed as the given functions of the state and of it say, each other member only passes the instruction
(R122), and nothing else of the machine changes. -/
def ComputesIf (i : Instr) (c : State → Nat → Prop) (w : State → Nat → Thread → Nat → Option Word)
    (f : State → Nat → Thread → Nat) (p : State → Nat → Thread → BitVec 3 → Option Bool)
    (l : State → Nat → Thread → List LongKind) : Prop :=
  ∀ s iss, Ready i s iss →
    (∀ t ∈ iss.members, ∀ a, s.thread t = some a → a.guard (headerOf iss.word) = true → c s t) →
    ∃ s', exec i s = .next s' ∧ { s' with threads := s.threads } = s ∧
      (∀ t, t ∉ iss.members → s'.thread t = s.thread t) ∧
      ∀ t ∈ iss.members, ∀ a, s.thread t = some a → ∃ b, s'.thread t = some b ∧
        if a.guard (headerOf iss.word) = true then Computed iss.pc (w s t a) (f s t a) (p s t a) (l s t a) a b
        else Computed iss.pc noReg 0 noPred [] a b

/-- An instruction whose effect on a thread is one of the thread alone. -/
def Computes (i : Instr) (w : Thread → Nat → Option Word) (f : Thread → Nat) (p : Thread → BitVec 3 → Option Bool)
    (l : Thread → List LongKind) : Prop :=
  ComputesIf i (fun _ _ => True) (fun _ _ => w) (fun _ _ => f) (fun _ _ => p) (fun _ _ => l)

/-- An instruction that writes one register. -/
def WritesReg (i : Instr) (d : Reg) (v : Thread → Word) : Prop :=
  Computes i (fun a => put d.toNat (v a)) (fun _ => 0) (fun _ => noPred) (fun _ => [])

/-- An instruction that writes one register and raises flags. -/
def WritesRegFlags (i : Instr) (d : Reg) (v : Thread → Word) (f : Thread → Nat) : Prop :=
  Computes i (fun a => put d.toNat (v a)) f (fun _ => noPred) (fun _ => [])

/-- An instruction that writes a pair. -/
def WritesPair (i : Instr) (d : Reg) (v : Thread → DWord) : Prop :=
  Computes i (fun a => putPair d (v a)) (fun _ => 0) (fun _ => noPred) (fun _ => [])

/-- An instruction that writes a pair and raises flags. -/
def WritesPairFlags (i : Instr) (d : Reg) (v : Thread → DWord) (f : Thread → Nat) : Prop :=
  Computes i (fun a => putPair d (v a)) f (fun _ => noPred) (fun _ => [])

/-- An instruction that writes one predicate and raises flags. -/
def WritesPred (i : Instr) (p : BitVec 3) (v : Thread → Bool) (f : Thread → Nat) : Prop :=
  Computes i (fun _ => noReg) f (fun a => putPred p (v a)) (fun _ => [])

/-- An instruction that starts long-latency work, whose writes and flags are known when it starts (R128). -/
def StartsResult (i : Instr) (w : Thread → List (Nat × Word)) (f : Thread → Nat) : Prop :=
  Computes i (fun _ => noReg) (fun _ => 0) (fun _ => noPred) (fun a => [.result (w a) (f a)])

/-! ## Instructions of a single thread -/

/-- A thread that has issued an instruction, its operands as it read them: marks and windows (R127, R129, R360). -/
def Thread.began (th : Thread) (i : Instr) (iss : Issue) : Thread :=
  { th.issued (headerOf iss.word) with
    last := iss.word
    opa := th.fopa i (Fields.ofWord iss.word).body
    opb := th.fopb i (Fields.ofWord iss.word).body }

/-- A thread at issue, past its guard: the PC at the next instruction (R122, R133). -/
def Thread.passed (th : Thread) (i : Instr) (iss : Issue) (run : Bool) : Thread :=
  { th.began i iss with
    pc := nextPc iss.pc, hold := .none, marks := { (th.began i iss).marks with inRun := run } }

/-- The state in which an instruction's own effect begins on a lane. -/
def State.entered (s : State) (i : Instr) (t : Nat) (th : Thread) (iss : Issue) : State :=
  s.setThread t ((th.passed i iss (th.marks.inRun || s.inLoop t iss.pc)).keepOperand (headerOf iss.word)
    (Fields.ofWord iss.word).body)

/-- An instruction whose effect on a ready thread, under a condition, is exactly the given change of the state in which
its own effect begins: the thread has issued and stands at the next instruction, and all else is as it was (R122,
R133). -/
def Acts (i : Instr) (c : State → Nat → Thread → Addr56 → Prop) (f : State → Nat → Thread → Addr56 → State) : Prop :=
  ∀ s iss t th, Single i s iss t th → c (s.entered i t th iss) t th iss.pc →
    exec i s = .next (f (s.entered i t th iss) t th iss.pc)

/-- Nothing but the thread `t` has changed. -/
structure OnlyThread (t : Nat) (s s' : State) : Prop where
  rest   : { s' with threads := s.threads } = s
  others : ∀ u, u ≠ t → s'.thread u = s.thread u

/-- Thread `a` goes on at `target` with its data as they were; beside its marks only the loop buffer of a core may have
changed (R139, R324). -/
structure WentTo (s s' : State) (t : Nat) (a : Thread) (target : Addr56) : Prop where
  thread : ∃ b, s'.thread t = some b ∧ b.pc = target ∧ SameData a b ∧ b.longs.map (·.kind) = a.longs.map (·.kind)
  others : ∀ u, u ≠ t → s'.thread u = s.thread u
  rest   : { s' with threads := s.threads, cores := s.cores } = s
  cores  : ∀ c, { s'.core c with loop := (s.core c).loop } = s.core c

/-- The machine without its threads, the loop buffers and the wait-for records is as it was. -/
structure SameButWaits (t : Nat) (s s' : State) : Prop where
  others : ∀ u, u ≠ t → s'.thread u = s.thread u
  rest   : { s' with threads := s.threads, cores := s.cores, isles := s.isles } = s
  cores  : ∀ c, { s'.core c with loop := (s.core c).loop } = s.core c
  isles  : ∀ n, { s'.isle n with waits := (s.isle n).waits } = s.isle n

/-- The fault registers at handler entry for a decoded instruction (Tables 23-1 and 23-2), from its word. -/
def ruleFaultRegs (code : Nat) (word : BitVec 96) (pc : Addr56) (opa opb : DWord) (info : Word) (addr : DWord) :
    FaultRegs where
  fcause := BitVec.ofNat 32 code
  fpc := pc.setWidth 64
  fopc := (word.setWidth 12).setWidth 32
  fopd := (word.extractLsb' 16 27).setWidth 32
  fopa := opa
  fopb := opb
  fimm := word.extractLsb' 64 32
  fmod := (word.extractLsb' 53 11).setWidth 32
  faddrl := addr.setWidth 32
  faddrh := addr.extractLsb' 32 32
  fguard := (word.extractLsb' 12 4).setWidth 32
  finfo := info
  inh := true

/-- Nothing holds up the delivery of a fault to a thread (R359): it has not exited, its band has not stopped, and
nothing that delivery waits for is outstanding, no cancel stands before it (R369), and no MWAIT would end with it. -/
structure Deliverable (s : State) (th : Thread) : Prop where
  live  : th.hold ≠ .exited
  clear : th.longs = []
  calm  : th.choice.cancel = false
  band  : s.bandStopped th = false
  out   : th.faults.inh = false
  hnd   : th.hnd ≠ 0#64

/-- Thread `a` has entered its handler with the given fault registers; its registers, predicates and flags and all
that R359 does not name are as they were. -/
structure EnteredHandler (s s' : State) (t : Nat) (a : Thread) (r : FaultRegs) : Prop where
  thread : ∃ b, s'.thread t = some b ∧ b.pc = a.hnd.setWidth 56 ∧ b.faults = r ∧ b.regs = a.regs ∧ b.preds = a.preds ∧
    b.flg = a.flg ∧ b.hold = .none ∧ SameRest { a with faults := r } b
  rest   : SameButWaits t s s'

/-- The value that a list of writes, made in order, gives a register. -/
def lastWrite (ws : List (Nat × Word)) (r : Nat) : Option Word := (ws.reverse.find? fun w => w.1 == r).map (·.2)

/-- Thread `b` is thread `a` after its outstanding instruction `order` has completed with the given writes and flags
(R128): it leaves the list, and nothing else changes. -/
structure Finished (order : Nat) (ws : List (Nat × Word)) (f : Nat) (a b : Thread) : Prop where
  regs  : ∀ r, b.reg r = (lastWrite ws r).getD (a.reg r)
  flg   : b.flg = a.flg ||| BitVec.ofNat 32 (f % 64)
  preds : b.preds = a.preds
  pc    : b.pc = a.pc
  hold  : b.hold = a.hold
  longs : b.longs = a.longs.filter fun o => o.order != order
  rest  : SameRest a b

/-! ## Addresses and bytes as the rules give them -/

/-- The base of an address (R184). -/
def ruleBase (th : Thread) (sp : Space) : SrcA → DWord
  | .zero => 0#64
  | .reg r => if sp = .glb then th.pair r.toNat else (th.reg r.toNat).setWidth 64

/-- The effective address: 64 bits for `.glb`, modulo 2^32 elsewhere (R42, R184). -/
def ruleEa (th : Thread) (sp : Space) (a : SrcA) (off : Word) : DWord :=
  if sp = .glb then ruleBase th sp a + off.signExtend 64
  else ((ruleBase th sp a).setWidth 32 + off).setWidth 64

/-- An address lies outside its space (Table 3-1, R184). -/
def Outside (s : State) (t : Nat) (sp : Space) (ea : Nat) : Prop :=
  match sp with
  | .priv => s.privBytes t ≤ ea
  | .scr => ea / 2 ^ 28 ≠ 0 ∨ s.scratchBytes t ≤ ea % 2 ^ 19 ∨ s.scrGang t ea = none
  | .clu => 8 * (s.part (s.partOf t)).lend ≤ ea
  | .lag => (s.part (s.partOf t)).size * 2 ^ 27 ≤ ea
  | .glb => 2 ^ 56 ≤ ea

/-- Byte `i` of a number. -/
def byteOf (v i : Nat) : Nat := v / 256 ^ i % 256

/-- Byte `i` of what ST writes: gD and the registers behind it (R186). -/
def storeByte (th : Thread) (d : Reg) (i : Nat) : Nat := byteOf (th.reg (d.toNat + i / 4)).toNat (i % 4)

/-! ## Values as the rules give them -/

/-- X(v) of R149. -/
def ruleX (ty : IntTy) (v : Word) : Int := if ty = .s32 then v.toInt else v.toNat

/-- The range of TY (R149). -/
def ruleLow (ty : IntTy) : Int := if ty = .s32 then -2 ^ 31 else 0

def ruleHigh (ty : IntTy) : Int := if ty = .s32 then 2 ^ 31 - 1 else 2 ^ 32 - 1

/-- An instruction whose destination receives Res of an exact value, with SATURATED (FLG bit 5) where a clamp changes
it (R81, R149). -/
def WritesRes (i : Instr) (d : Reg) (ty : IntTy) (sat : Bool) (v : Thread → Int) : Prop :=
  WritesRegFlags i d
    (fun a => BitVec.ofInt 32 (if sat then max (ruleLow ty) (min (v a) (ruleHigh ty)) else v a))
    (fun a => if sat = true ∧ (v a < ruleLow ty ∨ ruleHigh ty < v a) then 32 else 0)

end Sys2Proof.Machine
end

