-- ==== Sys2Proof/Certificates/Slice0/Obligations.lean ====
section
/-! DEFINITION. The statements for the provers, each from the numbered rules of the spec, in the terms of Safety. -/

section

open Sys2Proof Sys2Proof.Machine

/-- ADD, SUB, MUL, MAD, ABS and NEG (Table 8-4): Res of the exact value, for every form and every ready group. -/
def IntegerSumsWrapOrClampClause : Prop :=
  ∀ h : Hdr,
    (∀ x, WritesRes (.add h x) x.d x.ty x.sat fun a => ruleX x.ty (a.a32 x.a) + ruleX x.ty (a.b32 x.b)) ∧
    (∀ x, WritesRes (.sub h x) x.d x.ty x.sat fun a => ruleX x.ty (a.a32 x.a) - ruleX x.ty (a.b32 x.b)) ∧
    (∀ x, WritesRes (.mul h x) x.d x.ty x.sat fun a => ruleX x.ty (a.a32 x.a) * ruleX x.ty (a.b32 x.b)) ∧
    (∀ x, WritesRes (.mad h x) x.d x.ty x.sat fun a =>
      ruleX x.ty (a.reg x.a.toNat) * ruleX x.ty (a.b32 x.b) + ruleX x.ty (a.reg x.d.toNat)) ∧
    (∀ x, WritesRes (.abs h x) x.d .s32 x.sat fun a => |(a.reg x.b.toNat).toInt|) ∧
    (∀ x, WritesRes (.neg h x) x.d .s32 x.sat fun a => -(a.reg x.b.toNat).toInt)

/-- MULH, MADW, MIN, MAX, ADDC, LEA, ADD64 and SUB64 (Table 8-4). -/
def IntegerWideAndOrderResultsClause : Prop :=
  ∀ h : Hdr,
    (∀ x, WritesReg (.mulh h x) x.d fun a =>
      (BitVec.ofInt 64 (ruleX x.ty (a.reg x.a.toNat) * ruleX x.ty (a.b32 x.b))).extractLsb' 32 32) ∧
    (∀ x, WritesPair (.madw h x) x.d fun a =>
      BitVec.ofInt 64 ((a.pair x.d.toNat).toInt + ruleX x.ty (a.reg x.a.toNat) * ruleX x.ty (a.b32 x.b))) ∧
    (∀ x, WritesReg (.min h x) x.d fun a =>
      if ruleX x.ty (a.a32 x.a) < ruleX x.ty (a.b32 x.b) then a.a32 x.a else a.b32 x.b) ∧
    (∀ x, WritesReg (.max h x) x.d fun a =>
      if ruleX x.ty (a.a32 x.a) < ruleX x.ty (a.b32 x.b) then a.b32 x.b else a.a32 x.a) ∧
    (∀ x, WritesReg (.addc h x) x.d fun a =>
      let v := ruleX x.ty (a.a32 x.a) + ruleX x.ty (a.b32 x.b)
      if v < ruleLow x.ty ∨ ruleHigh x.ty < v then 1#32 else 0#32) ∧
    (∀ x, WritesPair (.lea h x) x.d fun a =>
      BitVec.ofInt 64 ((a.a64 x.a).toInt + ruleX x.ty (a.reg x.b.toNat) * 2 ^ x.sh.toNat)) ∧
    (∀ x, WritesPair (.add64 h x) x.d fun a => a.pair x.a.toNat + a.b64 x.b) ∧
    (∀ x, WritesPair (.sub64 h x) x.d fun a => a.pair x.a.toNat - a.b64 x.b)

/-- The integer arithmetic instructions (Table 8-4). -/
def Obligations.IntegerArithmeticResults : Prop :=
  IntegerSumsWrapOrClampClause ∧ IntegerWideAndOrderResultsClause

/-- The logical, shift, bit-field, byte-select and move instructions (Table 8-4). -/
def Obligations.BitFieldAndMoveResults : Prop :=
  ∀ h : Hdr,
    (∀ x, WritesReg (.and h x) x.d fun a => a.a32 x.a &&& a.b32 x.b) ∧
    (∀ x, WritesReg (.or h x) x.d fun a => a.a32 x.a ||| a.b32 x.b) ∧
    (∀ x, WritesReg (.xor h x) x.d fun a => a.a32 x.a ^^^ a.b32 x.b) ∧
    (∀ x, WritesReg (.andn h x) x.d fun a => a.a32 x.a &&& ~~~(a.b32 x.b)) ∧
    (∀ x, WritesReg (.shl h x) x.d fun a =>
      if 32 ≤ (a.b32 x.b).toNat then 0#32 else a.a32 x.a <<< (a.b32 x.b).toNat) ∧
    (∀ x, WritesReg (.shr h x) x.d fun a =>
      if 32 ≤ (a.b32 x.b).toNat then 0#32 else a.a32 x.a >>> (a.b32 x.b).toNat) ∧
    (∀ x, WritesReg (.sar h x) x.d fun a => (a.a32 x.a).sshiftRight (min (a.b32 x.b).toNat 31)) ∧
    (∀ x, WritesReg (.rotl h x) x.d fun a => (a.a32 x.a).rotateLeft ((a.b32 x.b).toNat % 32)) ∧
    (∀ x, WritesReg (.clz h x) x.d fun a => (a.reg x.b.toNat).clz) ∧
    (∀ x, WritesReg (.popc h x) x.d fun a => (a.reg x.b.toNat).cpop) ∧
    (∀ x, WritesReg (.brev h x) x.d fun a => (a.reg x.b.toNat).reverse) ∧
    (∀ x, ∃ v : Thread → Word, WritesReg (.bfx h x) x.d v ∧ ∀ a,
      let pos := (a.b32 x.b).toNat % 32
      let len := min ((a.b32 x.b).toNat / 256 % 64) (32 - pos)
      ∀ i, i < 32 → (v a).getLsbD i =
        if i < len then (a.a32 x.a).getLsbD (pos + i)
        else decide (x.ty = .s32 ∧ 0 < len) && (a.a32 x.a).getLsbD (pos + len - 1)) ∧
    (∀ x, ∃ v : Thread → Word, WritesReg (.bfi h x) x.d v ∧ ∀ a,
      let pos := (a.b32 x.b).toNat % 32
      let len := min ((a.b32 x.b).toNat / 256 % 64) (32 - pos)
      ∀ i, i < 32 → (v a).getLsbD i =
        if pos ≤ i ∧ i < pos + len then (a.a32 x.a).getLsbD (i - pos) else (a.reg x.d.toNat).getLsbD i) ∧
    (∀ x, ∃ v : Thread → Word, WritesReg (.prmb h x) x.d v ∧ ∀ a,
      ∀ i, i < 4 → (v a).toNat / 256 ^ i % 256 =
        let n := x.pick.toNat / 16 ^ i % 16
        let y := (if n % 8 < 4 then (a.a32 x.a).toNat else (a.reg x.b.toNat).toNat) / 256 ^ (n % 4) % 256
        if 8 ≤ n then (if 128 ≤ y then 255 else 0) else y) ∧
    (∀ x, WritesReg (.mov h x) x.d fun a => a.b32 x.b) ∧
    (∀ x, WritesReg (.sel h x) x.d fun a => if a.pred x.p = !x.neg then a.a32 x.a else a.reg x.b.toNat)

/-- Comparison under CC (R131). -/
def ruleCc (cc : Cc) (a b : Int) : Bool :=
  match cc with
  | .eq => decide (a = b)
  | .ne => decide (a ≠ b)
  | .lt => decide (a < b)
  | .le => decide (a ≤ b)
  | .gt => decide (b < a)
  | .ge => decide (b ≤ a)

/-- ICMP (R154), for every form, every operand selection included, and every ready group. -/
def Obligations.CompareWritesThePredicate : Prop :=
  ∀ (h : Hdr) (x : IcmpArgs),
    WritesPred (.icmp h x) x.p (fun a => ruleCc x.cc (ruleX x.ty (a.a32 x.a)) (ruleX x.ty (a.b32 x.b))) fun _ => 0

/-- The mode of an instruction's rounding field on a thread (R75). -/
def ruleMode (m : Round) (a : Thread) : Round := resolveMode m a.frm

/-- An instruction that writes an FP32 result with the flags of its rounding. -/
def WritesFp (i : Instr) (d : Reg) (v : Thread → Flagged Nat) : Prop :=
  WritesRegFlags i d (fun a => BitVec.ofNat 32 (v a).val) fun a => (v a).flags

/-- The modified source of an FP32 instruction (R164). -/
def ruleVal (v : Word) (neg abs : Bool) : Val := (fp32.decode v.toNat).mods neg abs

/-- FP32 arithmetic (R164 to R168, R172, R174, R176). -/
def Obligations.Fp32ArithmeticResults : Prop :=
  ∀ h : Hdr,
    (∀ x, WritesFp (.fadd h x) x.d fun a => fp32.satIf x.sat
      (fp32.add (ruleMode x.rnd a) (ruleVal (a.a32 x.a) x.na x.aa) (ruleVal (a.b32 x.b) x.nb x.ab))) ∧
    (∀ x, WritesFp (.fsub h x) x.d fun a => fp32.satIf x.sat
      (fp32.add (ruleMode x.rnd a) (ruleVal (a.a32 x.a) x.na x.aa) (ruleVal (a.b32 x.b) x.nb x.ab).neg)) ∧
    (∀ x, WritesFp (.fmul h x) x.d fun a => fp32.satIf x.sat
      (fp32.mul (ruleMode x.rnd a) (ruleVal (a.a32 x.a) x.na x.aa) (ruleVal (a.b32 x.b) x.nb x.ab))) ∧
    (∀ x, WritesFp (.fma h x) x.d fun a => fp32.satIf x.sat
      (fp32.fma (ruleMode x.rnd a) (ruleVal (a.a32 x.a) x.na x.aa) (ruleVal (a.b32 x.b) x.nb x.ab)
        (fp32.decode (a.reg x.d.toNat).toNat))) ∧
    (∀ x, WritesFp (.fscale h x) x.d fun a => fp32.satIf x.sat
      (fscaleVal (ruleMode x.rnd a) (ruleVal (a.reg x.a.toNat) x.na x.aa) (a.b32 x.b).toInt)) ∧
    (∀ x, WritesFp (.frint h x) x.d fun a =>
      frintVal (ruleMode x.rnd a) (mods32 (a.b32 x.b) x.nb x.ab)) ∧
    (∀ x, WritesFp (.ftoi h x) x.d fun a =>
      (intEntry x.ty).convert (fp32.decode (a.reg x.b.toNat).toNat) (ruleMode x.rnd a)) ∧
    (∀ x, WritesFp (.itof h x) x.d fun a =>
      fp32.convert ((intEntry x.ty).decode (a.b32 x.b).toNat) (ruleMode x.rnd a))

/-- Whether x lies at or below y, -0 below +0, for values that are no NaN. -/
def ruleBelow (x y : Val) : Bool :=
  match cmpVals x y with
  | .lt => true
  | .gt => false
  | .eq => !x.isZero || x.sign || !y.sign

/-- What R169 asks of a result r of FMIN (`greater` false) or FMAX (`greater` true) of the bits p and q. -/
def ruleMinMax (greater : Bool) (p q r : Nat) : Prop :=
  let x := fp32.decode p
  let y := fp32.decode q
  if x.isNan ∧ y.isNan then r = 0x7FC00000
  else if x.isNan then r = q
  else if y.isNan then r = p
  else (r = p ∨ r = q) ∧ (if greater then ruleBelow x (fp32.decode r) ∧ ruleBelow y (fp32.decode r)
    else ruleBelow (fp32.decode r) x ∧ ruleBelow (fp32.decode r) y)

/-- FMIN and FMAX (R169). -/
def Obligations.MinMaxOrderAndNan : Prop :=
  ∀ (h : Hdr) (x : FminArgs),
    (∃ v : Thread → Nat, WritesRegFlags (.fmin h x) x.d (fun a => BitVec.ofNat 32 (v a))
        (fun a => if (ruleVal (a.a32 x.a) x.na x.aa).signals ∨ (ruleVal (a.b32 x.b) x.nb x.ab).signals then 1 else 0) ∧
      ∀ a, ruleMinMax false (mods32 (a.a32 x.a) x.na x.aa) (mods32 (a.b32 x.b) x.nb x.ab) (v a)) ∧
    (∃ v : Thread → Nat, WritesRegFlags (.fmax h x) x.d (fun a => BitVec.ofNat 32 (v a))
        (fun a => if (ruleVal (a.a32 x.a) x.na x.aa).signals ∨ (ruleVal (a.b32 x.b) x.nb x.ab).signals then 1 else 0) ∧
      ∀ a, ruleMinMax true (mods32 (a.a32 x.a) x.na x.aa) (mods32 (a.b32 x.b) x.nb x.ab) (v a))

/-- The class of FP32 bits (R173). -/
def ruleClass (v : Word) : Nat :=
  let minus : Bool := decide (2 ^ 31 ≤ v.toNat)
  let e := v.toNat / 2 ^ 23 % 256
  let f := v.toNat % 2 ^ 23
  if e = 255 then
    if f = 0 then (if minus then 0 else 7) else if f < 2 ^ 22 then 8 else 9
  else if e = 0 then
    if f = 0 then (if minus then 3 else 4) else if minus then 2 else 5
  else if minus then 1 else 6

/-- FCLASS (R173). -/
def Obligations.ClassifyNamesOneClass : Prop :=
  ∀ (h : Hdr) (x : UnArgs),
    WritesReg (.fclass h x) x.d fun a => BitVec.ofNat 32 (2 ^ ruleClass (a.reg x.b.toNat))

/-- PLOP, P2G and G2P (R155, R156). -/
def PredicateLogicAndMovesClause : Prop :=
  ∀ h : Hdr,
    (∀ x, WritesPred (.plop h x) x.p
      (fun a => x.table.getLsbD ((if a.pred x.pa then 4 else 0) + (if a.pred x.pb then 2 else 0) + if a.pred x.pc then 1 else 0))
      fun _ => 0) ∧
    (∀ x, ∃ v : Thread → Word, WritesReg (.p2g h x) x.d v ∧ ∀ a i, i < 32 →
      (v a).getLsbD i = if i < 8 then a.pred (BitVec.ofNat 3 i) else false) ∧
    (∀ x, Computes (.g2p h x) (fun _ => noReg) (fun _ => 0)
      (fun a n => if n ≠ 7#3 ∧ x.mask.getLsbD n.toNat = true then some ((a.reg x.b.toNat).getLsbD n.toNat) else none)
      fun _ => [])

/-- Table 9-4 (R170). -/
def ruleFcmp (cc : FCc) (x y : Val) : Bool :=
  let unordered := x.isNan || y.isNan
  match cc with
  | .eq => !unordered && cmpVals x y == .eq
  | .ne => unordered || cmpVals x y != .eq
  | .lt => !unordered && cmpVals x y == .lt
  | .le => !unordered && cmpVals x y != .gt
  | .gt => !unordered && cmpVals x y == .gt
  | .ge => !unordered && cmpVals x y != .lt
  | .un => unordered
  | .ord => !unordered

/-- The INVALID flag of Table 9-4. -/
def ruleFcmpFlag (cc : FCc) (x y : Val) : Nat :=
  let loud := cc = .lt ∨ cc = .le ∨ cc = .gt ∨ cc = .ge
  if x.signals ∨ y.signals ∨ (loud ∧ (x.isNan ∨ y.isNan)) then 1 else 0

/-- FCMP and DCMP (R170, R177). -/
def FloatCompareConditionsClause : Prop :=
  ∀ h : Hdr,
    (∀ x, WritesPred (.fcmp h x) x.p
      (fun a => ruleFcmp x.cc (ruleVal (a.a32 x.a) x.na x.aa) (ruleVal (a.b32 x.b) x.nb x.ab))
      (fun a => ruleFcmpFlag x.cc (ruleVal (a.a32 x.a) x.na x.aa) (ruleVal (a.b32 x.b) x.nb x.ab))) ∧
    (∀ x, WritesPred (.dcmp h x) x.p
      (fun a => ruleFcmp x.cc ((fp64.decode (a.a64 x.a).toNat).mods x.na x.aa) ((fp64.decode (a.bFp64 x.b).toNat).mods x.nb x.ab))
      (fun a => ruleFcmpFlag x.cc ((fp64.decode (a.a64 x.a).toNat).mods x.na x.aa)
        ((fp64.decode (a.bFp64 x.b).toNat).mods x.nb x.ab)))

/-- The instructions on predicates (R155, R156, R170, R177). -/
def Obligations.PredicateInstructions : Prop :=
  PredicateLogicAndMovesClause ∧ FloatCompareConditionsClause

/-- The quotient and remainder of R150. -/
def ruleDivRem (ty : IntTy) (a b : Word) : Word × Word :=
  if ty = .n32 then
    if b.toNat = 0 then (0xFFFFFFFF#32, a)
    else (BitVec.ofNat 32 (a.toNat / b.toNat), BitVec.ofNat 32 (a.toNat % b.toNat))
  else if b.toInt = 0 then (if a.toInt < 0 then 1#32 else 0xFFFFFFFF#32, a)
  else if a.toInt = -2 ^ 31 ∧ b.toInt = -1 then (a, 0#32)
  else (BitVec.ofInt 32 (a.toInt.tdiv b.toInt), BitVec.ofInt 32 (a.toInt - b.toInt * a.toInt.tdiv b.toInt))

/-- DIV and REM start (R128, R150), and LONG_LATENCY_COMPLETE writes what an outstanding instruction computed. -/
def DivisionStartsAndCompletesClause : Prop :=
  (∀ (h : Hdr) (x : IntTyArgs),
    StartsResult (.div h x) (fun a => [(x.d.toNat, (ruleDivRem x.ty (a.a32 x.a) (a.b32 x.b)).1)]) (fun _ => 0) ∧
    StartsResult (.rem h x) (fun a => [(x.d.toNat, (ruleDivRem x.ty (a.a32 x.a) (a.b32 x.b)).2)]) (fun _ => 0)) ∧
  ∀ (s : State) (t order : Nat) (a : Thread) (o : Outstanding) (ws : List (Nat × Word)) (f : Nat),
    s.thread t = some a → Sparse.wf a.regs = true → a.outstanding order = some o → o.kind = .result ws f →
    (∀ r, a.hold ≠ .faulting r) →
    ∃ b, exec (.longLatencyComplete t order) s = .next (s.setThread t b) ∧ Finished order ws f a b

/-- An instruction that starts an FP32 result (R128, R171). -/
def StartsFp (i : Instr) (d : Reg) (v : Thread → Flagged Nat) : Prop :=
  StartsResult i (fun a => [(d.toNat, BitVec.ofNat 32 (v a).val)]) fun a => (v a).flags

/-- FDIV and the functions (R167, R171), with the special operands of Table 9-5 that set DIVZERO. -/
def FloatFunctionsStartClause : Prop :=
  (∀ h : Hdr,
    (∀ x, StartsFp (.fdiv h x) x.d fun a => fp32.satIf x.sat
      (fdivVal (ruleMode x.rnd a) (ruleVal (a.a32 x.a) x.na x.aa) (ruleVal (a.b32 x.b) x.nb x.ab))) ∧
    (∀ x, StartsFp (.frcp h x) x.d fun a => fp32.satIf x.sat (frcpVal (ruleMode x.rnd a) (ruleVal (a.b32 x.b) x.nb x.ab))) ∧
    (∀ x, StartsFp (.frsq h x) x.d fun a => fp32.satIf x.sat (frsqVal (ruleMode x.rnd a) (ruleVal (a.b32 x.b) x.nb x.ab))) ∧
    (∀ x, StartsFp (.fsqrt h x) x.d fun a => fp32.satIf x.sat (fsqrtVal (ruleMode x.rnd a) (ruleVal (a.b32 x.b) x.nb x.ab))) ∧
    (∀ x, StartsFp (.fexp2 h x) x.d fun a => fp32.satIf x.sat (fexp2Val (ruleMode x.rnd a) (ruleVal (a.b32 x.b) x.nb x.ab))) ∧
    (∀ x, StartsFp (.flog2 h x) x.d fun a => fp32.satIf x.sat (flog2Val (ruleMode x.rnd a) (ruleVal (a.b32 x.b) x.nb x.ab))) ∧
    (∀ x, StartsFp (.fsinp h x) x.d fun a => fp32.satIf x.sat (fsinpVal (ruleMode x.rnd a) (ruleVal (a.b32 x.b) x.nb x.ab))) ∧
    (∀ x, StartsFp (.fcosp h x) x.d fun a => fp32.satIf x.sat (fcospVal (ruleMode x.rnd a) (ruleVal (a.b32 x.b) x.nb x.ab)))) ∧
  (∀ (m : Round) (x : Val) (s : Bool) (q r : Int) (n : Nat) (z : Bool), 0 < n →
    fdivVal m (.fin s n q) (.fin z 0 r) = ⟨fp32.infPattern (Bool.xor s z), Flag.divzero⟩ ∧
    frcpVal m (.fin z 0 r) = ⟨fp32.infPattern z, Flag.divzero⟩ ∧
    frsqVal m (.fin z 0 r) = ⟨fp32.infPattern z, Flag.divzero⟩ ∧
    flog2Val m (.fin z 0 r) = ⟨fp32.infPattern true, Flag.divzero⟩ ∧
    fsqrtVal m (.fin true n q) = ⟨0x7FC00000, Flag.invalid⟩ ∧
    (x.isNan = true → fdivVal m x (.fin z 0 r) = ⟨0x7FC00000, if x.signals then Flag.invalid else 0⟩))

/-- Long-latency arithmetic: start and completion (R128, R150, R167, R171). -/
def Obligations.LongLatencyArithmetic : Prop :=
  DivisionStartsAndCompletesClause ∧ FloatFunctionsStartClause

/-- One half of a packed operand (R178). -/
def ruleHalf (e : Entry) (v : Word) (i : Nat) : Val := e.decode (v.toNat / 2 ^ (16 * i) % 2 ^ e.width)

/-- A packed instruction under an entry (R178). -/
def PackedResult (i : Instr) (x : PackedArgs) (f : Entry → Round → Val → Val → Val → Flagged Nat) : Prop :=
  let one (s : State) (t : Nat) (a : Thread) (k : Nat) : Flagged Nat :=
    let e := s.entry t x.e.toNat
    e.satIf x.sat (f e (ruleMode x.rnd a) ((ruleHalf e (a.a32 x.a) k).mods x.na x.aa)
      ((ruleHalf e (a.reg x.b.toNat) k).mods x.nb x.ab) (ruleHalf e (a.reg x.d.toNat) k))
  ComputesIf i (fun s t => (s.entry t x.e.toNat).packable = true)
    (fun s t a => put x.d.toNat (BitVec.ofNat 32 ((one s t a 0).val + 65536 * (one s t a 1).val)))
    (fun s t a => (one s t a 0).flags ||| (one s t a 1).flags) (fun _ _ _ => noPred) (fun _ _ _ => [])

/-- A dot product of n elements at a spacing of `gap` bits (R179). -/
def DotResult (i : Instr) (x : FdotArgs) (n gap : Nat) : Prop :=
  let legal (e : Entry) : Prop := e.v = true ∧ e.blk = 0 ∧ e.width ≤ gap
  let sum (s : State) (t : Nat) (a : Thread) : Flagged Nat :=
    exactSum (a.reg x.d.toNat).toNat ((List.range n).map fun k =>
      ⟨(s.entry t x.ea.toNat).decode ((a.reg x.a.toNat).toNat / 2 ^ (gap * k) % 2 ^ (s.entry t x.ea.toNat).width),
       (s.entry t x.eb.toNat).decode ((a.reg x.b.toNat).toNat / 2 ^ (gap * k) % 2 ^ (s.entry t x.eb.toNat).width), false⟩)
  ComputesIf i (fun s t => legal (s.entry t x.ea.toNat) ∧ legal (s.entry t x.eb.toNat))
    (fun s t a => put x.d.toNat (BitVec.ofNat 32 (sum s t a).val)) (fun s t a => (sum s t a).flags)
    (fun _ _ _ => noPred) (fun _ _ _ => [])

/-- An FP64 instruction (R177). -/
def WritesFp64 (i : Instr) (d : Reg) (v : Thread → Flagged Nat) : Prop :=
  WritesPairFlags i d (fun a => BitVec.ofNat 64 (v a).val) fun a => (v a).flags

/-- The modified source of an FP64 instruction (R164). -/
def ruleVal64 (v : DWord) (neg abs : Bool) : Val := (fp64.decode v.toNat).mods neg abs

/-- FCVT, the packed, dot-product, FP64 and complex instructions (R175, R177 to R180). -/
def Obligations.FormatsPackedAndWideResults : Prop :=
  ∀ h : Hdr,
    (∀ x : FcvtArgs,
      let r (s : State) (t : Nat) (a : Thread) : Flagged Nat :=
        (s.entry t x.ed.toNat).convert
          ((s.entry t x.es.toNat).decode (if x.es = 3#5 then (a.pair x.a.toNat).toNat else (a.reg x.a.toNat).toNat))
          (ruleMode x.rnd a)
      ComputesIf (.fcvt h x)
        (fun s t => (s.entry t x.es.toNat).v = true ∧ (s.entry t x.ed.toNat).v = true ∧
          (s.entry t x.es.toNat).blk = 0 ∧ (s.entry t x.ed.toNat).blk = 0)
        (fun s t a => if x.ed = 3#5 then putPair x.d (BitVec.ofNat 64 (r s t a).val)
          else put x.d.toNat (BitVec.ofNat 32 (r s t a).val))
        (fun s t a => (r s t a).flags) (fun _ _ _ => noPred) (fun _ _ _ => [])) ∧
    (∀ x, PackedResult (.hadd2 h x) x fun e m p q _ => e.add m p q) ∧
    (∀ x, PackedResult (.hmul2 h x) x fun e m p q _ => e.mul m p q) ∧
    (∀ x, PackedResult (.hfma2 h x) x fun e m p q r => e.fma m p q r) ∧
    (∀ x, DotResult (.fdot2 h x) x 2 16) ∧
    (∀ x, DotResult (.fdot4 h x) x 4 8) ∧
    (∀ x, WritesFp64 (.dadd h x) x.d fun a => fp64.satIf x.sat
      (fp64.add (ruleMode x.rnd a) (ruleVal64 (a.a64 x.a) x.na x.aa) (ruleVal64 (a.bFp64 x.b) x.nb x.ab))) ∧
    (∀ x, WritesFp64 (.dmul h x) x.d fun a => fp64.satIf x.sat
      (fp64.mul (ruleMode x.rnd a) (ruleVal64 (a.a64 x.a) x.na x.aa) (ruleVal64 (a.bFp64 x.b) x.nb x.ab))) ∧
    (∀ x, WritesFp64 (.dfma h x) x.d fun a => fp64.satIf x.sat
      (fp64.fma (ruleMode x.rnd a) (ruleVal64 (a.a64 x.a) x.na x.aa) (ruleVal64 (a.bFp64 x.b) x.nb x.ab)
        (fp64.decode (a.pair x.d.toNat).toNat))) ∧
    (∀ x : Pair3Args,
      let v (a : Thread) (r : Reg) (k : Nat) : Val := fp32.decode (a.reg (r.toNat + k)).toNat
      let re (a : Thread) : Flagged Nat := exactSum (a.reg x.d.toNat).toNat
        [⟨v a x.a 0, v a x.b 0, false⟩, ⟨v a x.a 1, v a x.b 1, true⟩]
      let im (a : Thread) : Flagged Nat := exactSum (a.reg (x.d.toNat + 1)).toNat
        [⟨v a x.a 0, v a x.b 1, false⟩, ⟨v a x.a 1, v a x.b 0, false⟩]
      WritesPairFlags (.cmul h x) x.d (fun a => pair64 (BitVec.ofNat 32 (re a).val) (BitVec.ofNat 32 (im a).val))
        fun a => (re a).flags ||| (im a).flags)

/-- Decode then Convert is the identity on FP32 (R72, R77, R80). -/
def Obligations.Fp32FormatRoundTrips : Prop :=
  ∀ (b : Word) (m : Round),
    if (fp32.decode b.toNat).isNan = true then
      fp32.convert (fp32.decode b.toNat) m
        = ⟨0x7FC00000, if (fp32.decode b.toNat).signals = true then Flag.invalid else 0⟩
    else fp32.convert (fp32.decode b.toNat) m = ⟨b.toNat, 0⟩

/-- NOP, YIELD, SLEEP and the steps that end a pause (R127, R145). -/
def Obligations.PacingHoldsAndWakes : Prop :=
  (∀ h, Computes (.nop h) (fun _ => noReg) (fun _ => 0) (fun _ => noPred) fun _ => []) ∧
  (∀ h x s iss t th, Single (.yield h x) s iss t th → ∃ b, exec (.yield h x) s = .next (s.setThread t b) ∧
    Computed iss.pc noReg 0 noPred [] th b ∧ b.hold = .yield (max 1 x.n.toNat + 1)) ∧
  (∀ h x s iss t th, Single (.sleep h x) s iss t th → ∃ b, exec (.sleep h x) s = .next (s.setThread t b) ∧
    Computed iss.pc noReg 0 noPred [] th b ∧
    b.hold = if (th.b32 x.b).toNat = 0 then .none
      else .sleep ((s.isle (isleOf (coreOf t))).counter + (th.b32 x.b).toNat)) ∧
  (∀ (s : State) (t w : Nat) (a : Thread), s.thread t = some a → a.hold = .sleep w →
    exec (.sleepExpiry t) s = .next (if w ≤ (s.isle (isleOf (coreOf t))).counter
      then s.setThread t { a with hold := .none } else s)) ∧
  (∀ (s : State) (t n : Nat) (a : Thread), s.thread t = some a → a.hold = .yield n →
    ∃ s', exec (.yieldExpiry t) s = .next s' ∧ OnlyThread t s s' ∧
      s'.thread t = some (if n = 0 then { a with hold := .none } else a))

/-- The target of a relative branch, counted in instructions from the next one (R133). -/
def ruleTarget (pc : Addr56) (off : Word) : Addr56 := BitVec.ofInt 56 (((pc + 12#56).toNat : Int) + 12 * off.toInt)

/-- A single thread whose instruction fails the check `code` enters its handler (R359). -/
def Raises (i : Instr) (c : State → Nat → Thread → Addr56 → Prop) (code : Nat) (info : Word)
    (addr : State → Nat → Thread → Addr56 → DWord) : Prop :=
  ∀ s iss t th, Single i s iss t th → Deliverable s th → c s t th iss.pc →
    ∃ s', exec i s = .next s' ∧ EnteredHandler s s' t th (ruleFaultRegs code iss.word iss.pc
      (th.fopa i (Fields.ofWord iss.word).body) (th.fopb i (Fields.ofWord iss.word).body) info (addr s t th iss.pc))

/-- What a load that binds as its instruction issues costs a thread, and what it finds once that is paid (R140, R205). -/
def bindCost (e : State) (t : Nat) (th : Thread) (acc : Access) (pte : DWord) : Budget :=
  e.loadCost t acc (some pte) (gatherOwn (th.ownBytes acc)).2

def bindRes (e : State) (t : Nat) (th : Thread) (acc : Access) (pte : DWord) : LoadRes :=
  (e.payFor t (bindCost e t th acc pte)).loadNow t acc (some pte) true

/-- Such a load binds: its line is not locked (R63), its home has room (R280), its budget affords it (R268), and it meets no
poison (R385). -/
structure BindsNow (e : State) (t : Nat) (th : Thread) (acc : Access) (pte : DWord) : Prop where
  free  : e.loadStalled t acc = false
  room  : e.loadRoom t acc (some pte) = true
  pays  : e.affordsFor t (bindCost e t th acc pte) = true
  clean : (bindRes e t th acc pte).poison = none

/-- The target that the table at `tb` gives with the loaded value (R140, R243). -/
def tableTarget (tb : Nat) (r : LoadRes) : Addr56 := BitVec.ofInt 56 ((tb : Int) + 4 * (BitVec.ofNat 32 r.value).toInt)

/-- Entry `i` of the table at `tb` is readable, and names a code address (R140, R243). -/
structure TableEntry (e : State) (t : Nat) (th : Thread) (tb i : Nat) (acc : Access) (pte : DWord) : Prop where
  addr  : e.checkAddr t .glb (BitVec.ofNat 64 (tb + 4 * i)) 4 = .ok acc
  page  : e.checkGlb t .load acc = .ok pte
  sect  : e.sectionLoadFails t acc (some pte) 0#2 = false
  binds : BindsNow e t th acc pte
  code  : (bindRes e t th acc pte).after.isCode t (tableTarget tb (bindRes e t th acc pte)).toNat = true

/-- BRA, BRX and BRT (R133, R139, R140). -/
def BranchesGoToTheirTargetsClause : Prop :=
  (∀ h x s iss t th, Single (.bra h x) s iss t th → s.isCode t (ruleTarget iss.pc x.off).toNat = true →
    ∃ s', exec (.bra h x) s = .next s' ∧ WentTo s s' t th (ruleTarget iss.pc x.off)) ∧
  (∀ h x, Raises (.bra h x) (fun s t _ pc => s.isCode t (ruleTarget pc x.off).toNat = false) 0x08 0
    fun _ _ _ pc => (ruleTarget pc x.off).setWidth 64) ∧
  (∀ h x s iss t th, Single (.brx h x) s iss t th → s.isCode t (th.pair x.b.toNat).toNat = true →
    ∃ s', exec (.brx h x) s = .next s' ∧ WentTo s s' t th ((th.pair x.b.toNat).setWidth 56)) ∧
  (∀ h x, Raises (.brx h x) (fun s t th _ => s.isCode t (th.pair x.b.toNat).toNat = false) 0x08 0
    fun _ _ th _ => th.pair x.b.toNat) ∧
  (∀ h x acc pte, Acts (.brt h x)
    (fun e t th pc => (th.reg x.a.toNat).toNat < x.count.toNat ∧
      TableEntry e t th (tableStart pc x.off) (th.reg x.a.toNat).toNat acc pte)
    (fun e t th pc => ((bindRes e t th acc pte).after.markLoad t acc).jump t pc
      (tableTarget (tableStart pc x.off) (bindRes e t th acc pte)))) ∧
  (∀ h x, Raises (.brt h x) (fun _ _ th _ => x.count.toNat ≤ (th.reg x.a.toNat).toNat) 0x07 0 fun _ _ _ _ => 0)

/-- What a call or return leaves of a thread beside its PC, CSP, private bytes and choice registers. -/
structure SameRegs (a b : Thread) : Prop where
  regs   : b.regs = a.regs
  preds  : b.preds = a.preds
  flg    : b.flg = a.flg
  gang   : b.gang = a.gang
  tid    : b.tid = a.tid
  frm    : b.frm = a.frm
  hnd    : b.hnd = a.hnd
  cych   : b.cych = a.cych
  faults : b.faults = a.faults
  psq    : b.psq = a.psq
  watch  : b.watch = a.watch
  tokens : b.tokens = a.tokens
  asyncs : b.asyncs = a.asyncs

/-- A call by a ready thread, with `x` its private store of the return address. -/
def Called (s s' : State) (t : Nat) (a x : Thread) (pc target : Addr56) : Prop :=
  (∃ b, s'.thread t = some b ∧ b.pc = target ∧ b.csp = BitVec.ofNat 32 (a.csp.toNat - 8) ∧ b.priv = x.priv ∧
    b.choice = x.choice ∧ SameRegs a b ∧
    (Memory.wf a.priv = true → Memory.readNat b.priv (a.csp.toNat - 8) 8 = (pc + 12#56).toNat) ∧
    (a.cpd = 0 → ∀ n, n < a.csp.toNat - 8 ∨ a.csp.toNat ≤ n → Memory.read b.priv n = Memory.read a.priv n)) ∧
  (∀ u, u ≠ t → s'.thread u = s.thread u) ∧
  { s' with threads := s.threads, cores := s.cores } = s ∧
  ∀ c, { s'.core c with loop := (s.core c).loop } = s.core c

/-- CALL, CALLX and RET (R139, R141). -/
def CallPushesAndReturnPopsClause : Prop :=
  (∀ h x s iss t th st, Single (.call h x) s iss t th → s.isCode t (ruleTarget iss.pc x.off).toNat = true →
    th.csp.toNat % 8 = 0 → th.trl + 8 ≤ th.csp.toNat →
    (th.privStore (th.csp.toNat - 8) 8 (iss.pc + 12#56).toNat) = some st →
    ∃ s', exec (.call h x) s = .next s' ∧ Called s s' t th st iss.pc (ruleTarget iss.pc x.off)) ∧
  (∀ h x s iss t th st, Single (.callx h x) s iss t th → s.isCode t (th.pair x.b.toNat).toNat = true →
    th.csp.toNat % 8 = 0 → th.trl + 8 ≤ th.csp.toNat →
    (th.privStore (th.csp.toNat - 8) 8 (iss.pc + 12#56).toNat) = some st →
    ∃ s', exec (.callx h x) s = .next s' ∧ Called s s' t th st iss.pc ((th.pair x.b.toNat).setWidth 56)) ∧
  (∀ h s iss t th, Single (.ret h) s iss t th → th.csp.toNat % 8 = 0 → th.csp.toNat + 8 ≤ s.privBytes t →
    th.privPoison.contains (th.csp.toNat / 16) = false →
    s.isCode t (Memory.readNat th.priv th.csp.toNat 8) = true →
    ∃ s', exec (.ret h) s = .next s' ∧
      (∃ b, s'.thread t = some b ∧ b.pc = BitVec.ofNat 56 (Memory.readNat th.priv th.csp.toNat 8) ∧
        b.csp = BitVec.ofNat 32 (th.csp.toNat + 8) ∧ b.priv = th.priv ∧ b.choice = th.choice ∧ SameRegs th b) ∧
      (∀ u, u ≠ t → s'.thread u = s.thread u) ∧
      { s' with threads := s.threads, cores := s.cores } = s) ∧
  (∀ h x, Raises (.call h x) (fun s t th pc => s.isCode t (ruleTarget pc x.off).toNat = true ∧ th.csp.toNat % 8 = 0 ∧
    th.csp.toNat < th.trl + 8) 0x14 0 fun _ _ _ _ => 0) ∧
  (∀ h, Raises (.ret h) (fun s t th _ => th.csp.toNat % 8 = 0 ∧ s.privBytes t < th.csp.toNat + 8) 0x14 1
    fun _ _ _ _ => 0)

/-- BRA, BRX, BRT, CALL, CALLX and RET (R137 to R141). -/
def Obligations.BranchesCallsAndReturns : Prop :=
  BranchesGoToTheirTargetsClause ∧ CallPushesAndReturnPopsClause

/-- The lanes of a group whose guard holds. -/
def takingLanes (s : State) (iss : Issue) : BitVec 32 :=
  iss.members.foldl (fun m t => match s.thread t with
    | some th => if th.guard (headerOf iss.word) = true then m ||| (1#32 <<< laneOf t) else m
    | none => m) 0#32

/-- SPLIT (R26). -/
def Obligations.SplitRecordsTheGroup : Prop :=
  ∀ h x s iss k, Ready (.split h x) s iss → (∀ t ∈ iss.members, crewOf t = k) →
    (∀ t ∈ iss.members, s.isCode t (ruleTarget iss.pc x.off).toNat = true) →
    let top := (s.crew k).records.head?
    let same := top.any fun r => r.split == iss.pc && r.rejoin == ruleTarget iss.pc x.off && r.arrived == 0#32
    (same = true ∨ (s.crew k).records.length < 8) →
    ∃ s', exec (.split h x) s = .next s' ∧
      { s' with threads := s.threads, crews := s.crews } = s ∧
      (∀ j, j ≠ k → s'.crew j = s.crew j) ∧
      (s'.crew k).arrivals = (s.crew k).arrivals ∧
      (s'.crew k).records = (if takingLanes s iss = 0#32 then (s.crew k).records
        else if same = true then (s.crew k).records.modifyHead fun r => { r with mask := r.mask ||| takingLanes s iss }
        else ⟨iss.pc, ruleTarget iss.pc x.off, takingLanes s iss, 0#32⟩ :: (s.crew k).records) ∧
      (∀ t, t ∉ iss.members → s'.thread t = s.thread t) ∧
      ∀ t ∈ iss.members, ∀ a, s.thread t = some a → ∃ b, s'.thread t = some b ∧ Computed iss.pc noReg 0 noPred [] a b

/-- JOIN (R27, R143). -/
def JoinWaitsForItsRecordClause : Prop :=
  (∀ h s iss t th, Single (.join h) s iss t th →
    (∀ r, (s.crew (crewOf t)).records.head? = some r → r.rejoin ≠ iss.pc ∨ r.mask.getLsbD (laneOf t) = false) →
    ∃ b, exec (.join h) s = .next (s.setThread t b) ∧ Computed iss.pc noReg 0 noPred [] th b) ∧
  (∀ h s iss t th r rest, Single (.join h) s iss t th → (s.crew (crewOf t)).records = r :: rest →
    r.rejoin = iss.pc → r.mask.getLsbD (laneOf t) = true → (∀ q ∈ rest, q.arrived ≠ q.mask) →
    let arrived := r.arrived ||| (1#32 <<< laneOf t)
    ∃ s' b, exec (.join h) s = .next s' ∧ s'.thread t = some b ∧ b.regs = th.regs ∧ b.preds = th.preds ∧ b.flg = th.flg ∧
      s'.mem = s.mem ∧
      if arrived = r.mask then
        (s'.crew (crewOf t)).records = rest ∧ b.pc = iss.pc + 12#56 ∧ b.marks.release = true ∧
        ∀ u a, crewOf u = crewOf t → u ≠ t → s.thread u = some a → r.arrived.getLsbD (laneOf u) = true → a.hold = .wait .join →
          ∃ c, s'.thread u = some c ∧ c.hold = .none ∧ c.pc = a.pc + 12#56 ∧ c.marks.release = true ∧ c.regs = a.regs
      else
        (s'.crew (crewOf t)).records = { r with arrived := arrived } :: rest ∧ b.hold = .wait .join ∧ b.pc = iss.pc ∧
        ∀ u, u ≠ t → s'.thread u = s.thread u)

/-- EXIT (R28, R144). -/
def ExitEndsTheThreadClause : Prop :=
  ∀ h s iss t th, Single (.exit h) s iss t th →
    ∃ s' b, exec (.exit h) s = .next s' ∧ s'.thread t = some b ∧ b.hold = .exited ∧ b.tokens = [] ∧ b.watch = none ∧
      b.asyncs = [] ∧ b.choice.elide = none ∧ b.choice.cancel = false ∧ b.faults.inh = false ∧
      b.regs = th.regs ∧ b.preds = th.preds ∧ s'.mem = s.mem ∧
      (∀ r ∈ (s'.crew (crewOf t)).records, r.mask.getLsbD (laneOf t) = false ∧ r.arrived.getLsbD (laneOf t) = false) ∧
      ∀ u, crewOf u ≠ crewOf t → s'.thread u = s.thread u

/-- JOIN and EXIT (R27, R28, R143, R144). -/
def Obligations.JoinAndExit : Prop :=
  JoinWaitsForItsRecordClause ∧ ExitEndsTheThreadClause

/-- TRAP, BKPT and IRET (R146, R148, R359, R360, R365). -/
def Obligations.FaultEntryAndReturn : Prop :=
  (∀ h x, Raises (.trap h x) (fun _ _ _ _ => True) 0x18 0 fun _ _ _ _ => 0) ∧
  (∀ h x, Raises (.bkpt h x) (fun s _ th _ => (s.gang th.gang).any (·.debug) = false) 0x19 0 fun _ _ _ _ => 0) ∧
  (∀ h x s iss t th g, Single (.bkpt h x) s iss t th → s.gang th.gang = some g → g.debug = true →
    ∃ b, exec (.bkpt h x) s = .next ((s.setThread t b).setGang th.gang { g with stopped := true }) ∧
      Computed iss.pc noReg 0 noPred [] th b) ∧
  (∀ h x s iss t th, Single (.iret h x) s iss t th → th.faults.inh = true → th.choice.cancel = false → th.missed = none →
    s.isCode t (iretTarget th x.b) = true →
    ∃ s' b, exec (.iret h x) s = .next s' ∧ s'.thread t = some b ∧ b.pc = BitVec.ofNat 56 (iretTarget th x.b) ∧
      b.faults = { th.faults with inh := false } ∧ b.csp = th.csp ∧ b.priv = th.priv ∧ b.choice = th.choice ∧
      SameRegs { th with faults := { th.faults with inh := false } } b ∧
      (∀ u, u ≠ t → s'.thread u = s.thread u) ∧ { s' with threads := s.threads, cores := s.cores } = s) ∧
  (∀ h x, Raises (.iret h x) (fun _ _ _ _ => True) 0x04 0 fun _ _ _ _ => 0)

/-- BAND_STOP (R359, R367, R368), taken by TRAP. -/
def Obligations.BandStopsWithoutAHandler : Prop :=
  ∀ h x s iss t th g j, Single (.trap h x) s iss t th → th.hold ≠ .exited → th.longs = [] → s.bandStopped th = false →
    (th.choice.cancel = false ∨ th.faults.inh = true) → (th.hnd = 0#64 ∨ th.faults.inh = true) → s.gang th.gang = some g → s.job g.job = some j → j.stop = none →
    ∃ s', exec (.trap h x) s = .next s' ∧ s'.mem = s.mem ∧
      (∀ n ∈ s.bandGangs th.gang, ∀ y, s.gang n = some y → s'.gang n = some y.stop) ∧
      (∀ u a, s.thread u = some a → a.gang ∈ s.bandGangs th.gang → u ≠ t → s'.thread u = some a.halt) ∧
      (∀ u a, s.thread u = some a → a.gang ∉ s.bandGangs th.gang → s'.thread u = some a) ∧
      (∃ b, s'.thread t = some b ∧ b.hold = .exited ∧ b.regs = th.regs) ∧
      s'.job g.job = some { j with phase := .draining, stop := some (0x18, th.faults.inh) } ∧
      (s'.part j.part).stops = (s.part j.part).stops ++
        [{ thread := t, fcause := 0x18#32, fpc := iss.pc.setWidth 64, fopc := (iss.word.setWidth 12).setWidth 32, finfo := 0#32 }]

/-- SVC and SVC_REPLY (R147). -/
def Obligations.ServiceCallWaitsForItsReply : Prop :=
  (∀ h x j, Acts (.svc h x)
    (fun e t th _ => th.inSection = false ∧ e.jobOf t = some j ∧ e.inspectable t .none 5 = true)
    (fun e t _ pc =>
      ((((e.inspectFor t .none 5).postStream j.part j.vdev j.stream 0xFA
        (interruptRecord x.n.toNat t 0x0F 0 j.part 0xFA)).modThread t
          fun b => { b with hold := .wait (.svc x.d), pc := pc }).dropWaits t).addWaits t 6 0 0
            ((((e.inspectFor t .none 5).postStream j.part j.vdev j.stream 0xFA
              (interruptRecord x.n.toNat t 0x0F 0 j.part 0xFA)).modThread t
                fun b => { b with hold := .wait (.svc x.d), pc := pc }).runtimeSig j))) ∧
  (∀ (s : State) (t : Nat) (v : Word) (a : Thread) (d : Reg), s.thread t = some a → a.hold = .wait (.svc d) →
    Sparse.wf a.regs = true →
    ∃ s' b, exec (.svcReply t v) s = .next s' ∧ s'.thread t = some b ∧ b.reg d.toNat = v ∧
      (∀ r, r ≠ d.toNat → b.reg r = a.reg r) ∧ b.preds = a.preds ∧ b.flg = a.flg ∧ b.hold = .none ∧ b.pc = a.pc + 12#56 ∧
      (∀ l ∈ (s'.core (coreOf t)).l1, l.owned = true) ∧ (∀ u, u ≠ t → s'.thread u = s.thread u) ∧
      ((∀ l ∈ (s.core (coreOf t)).l1, l.grant = 0#64) → s'.mem.dram = s.mem.dram))

/-- The contributors of a group: for each lane, the member there whose guard is true (R157). -/
def contrib (s : State) (iss : Issue) (lane : Nat) : Option Thread :=
  (iss.members.find? fun t => laneOf t == lane && ((s.thread t).any fun th => th.guard (headerOf iss.word))).bind s.thread

/-- A ready group that is a whole crew: its members are the threads of crew `k` that have not exited, none has an
arrival pending, and program order has not been used up (R29). -/
structure WholeCrew (i : Instr) (s : State) (iss : Issue) (k : Nat) : Prop where
  ready   : Ready i s iss
  table   : Tab.wf s.threads = true
  crew    : ∀ t, t ∈ iss.members ↔ crewOf t = k ∧ ∃ th, s.thread t = some th ∧ th.hold ≠ .exited
  inhabited : iss.members ≠ []
  pending : (s.crew k).arrivals = []
  order   : ∀ t ∈ iss.members, ∀ a, s.thread t = some a → ∀ o ∈ a.longs, o.order ≤ a.order

/-- A collective of a whole crew performs at once: each contributor `a` at lane `l` receives the given writes, flags and
predicates, computed from the contributors; the others receive nothing. -/
def Collects (i : Instr) (w : (Nat → Option Thread) → Nat → Thread → Nat → Option Word)
    (f : (Nat → Option Thread) → Nat → Thread → Nat)
    (p : (Nat → Option Thread) → Nat → Thread → BitVec 3 → Option Bool) : Prop :=
  ∀ s iss k, WholeCrew i s iss k → ∃ s', exec i s = .next s' ∧
    { s' with threads := s.threads, crews := s.crews } = s ∧
    (s'.crew k).arrivals = [] ∧ (s'.crew k).records = (s.crew k).records ∧
    (∀ t, t ∉ iss.members → s'.thread t = s.thread t) ∧
    ∀ t ∈ iss.members, ∀ a, s.thread t = some a → ∃ b, s'.thread t = some b ∧
      if a.guard (headerOf iss.word) = true then
        Computed iss.pc (w (contrib s iss) (laneOf t) a) (f (contrib s iss) (laneOf t) a) (p (contrib s iss) (laneOf t) a) [] a b
      else Computed iss.pc noReg 0 noPred [] a b

/-- A collective that writes one register and no flag. -/
def CollectsReg (i : Instr) (d : Reg) (v : (Nat → Option Thread) → Nat → Thread → Word) : Prop :=
  Collects i (fun c l a => put d.toNat (v c l a)) (fun _ _ _ => 0) (fun _ _ _ => noPred)

/-- SHFL (R158). -/
def Obligations.ShuffleReadsTheSourceLane : Prop :=
  ∀ (h : Hdr) (x : ShflArgs),
    CollectsReg (.shflIdx h x) x.d (fun c _ a => ((c ((a.b32 x.b).toNat % 32)).getD a).reg x.a.toNat) ∧
    CollectsReg (.shflUp h x) x.d (fun c l a =>
      ((c (if (a.b32 x.b).toNat ≤ l then l - (a.b32 x.b).toNat else l)).getD a).reg x.a.toNat) ∧
    CollectsReg (.shflDown h x) x.d (fun c l a =>
      ((c (if l + (a.b32 x.b).toNat ≤ 31 then l + (a.b32 x.b).toNat else l)).getD a).reg x.a.toNat) ∧
    CollectsReg (.shflXor h x) x.d (fun c l a => ((c (l ^^^ (a.b32 x.b).toNat % 32)).getD a).reg x.a.toNat)

/-- A collective that writes one predicate. -/
def CollectsPred (i : Instr) (p : BitVec 3) (v : (Nat → Option Thread) → Nat → Thread → Bool) : Prop :=
  Collects i (fun _ _ _ => noReg) (fun _ _ _ => 0) (fun c l a => putPred p (v c l a))

/-- The word with the bits of the lanes that a test admits. -/
def laneWord (f : Nat → Bool) : Word := (List.range 32).foldl (fun w l => if f l then w ||| (1#32 <<< l) else w) 0#32

/-- VOTE (R159). -/
def Obligations.VoteCombinesThePredicates : Prop :=
  ∀ h : Hdr,
    (∀ x, CollectsPred (.voteAll h x) x.p fun c _ _ => (List.range 32).all fun l => (c l).all fun b => b.pred x.pa) ∧
    (∀ x, CollectsPred (.voteAny h x) x.p fun c _ _ => (List.range 32).any fun l => (c l).any fun b => b.pred x.pa) ∧
    (∀ x, CollectsReg (.voteBallot h x) x.d fun c _ _ => laneWord fun l => (c l).any fun b => b.pred x.pa) ∧
    (∀ x, CollectsReg (.voteCount h x) x.d fun c _ _ =>
      BitVec.ofNat 32 ((List.range 32).filter fun l => (c l).any fun b => b.pred x.pa).length)

/-- The pairwise tree of R160 over 2^n lanes from `l`; an absent lane computes nothing. -/
def ruleTree (f : Word → Word → Flagged Word) (v : Nat → Option Word) (l : Nat) : Nat → Option (Flagged Word)
  | 0 => (v l).map fun x => ⟨x, 0⟩
  | n + 1 =>
    match ruleTree f v l n, ruleTree f v (l + 2 ^ n) n with
    | none, y => y
    | x, none => x
    | some x, some y => some ⟨(f x.val y.val).val, (f x.val y.val).flags ||| (x.flags ||| y.flags)⟩

/-- The fold of R161 over the lanes from 0 to `l`. -/
def ruleScan (f : Word → Word → Flagged Word) (v : Nat → Option Word) (l : Nat) : Option (Flagged Word) :=
  (List.range (l + 1)).foldl (fun acc k =>
    match acc, v k with
    | none, y => y.map fun y => ⟨y, 0⟩
    | some x, none => some x
    | some x, some y => some ⟨(f x.val y).val, (f x.val y).flags ||| (x.flags ||| 0)⟩) none

/-- A flagged collective result. -/
def CollectsFlagged (i : Instr) (d : Reg) (v : (Nat → Option Thread) → Nat → Thread → Flagged Word) : Prop :=
  Collects i (fun c l a => put d.toNat (v c l a).val) (fun c l a => (v c l a).flags) (fun _ _ _ => noPred)

/-- CRED, CSCAN, MATCH and ELECT (R160 to R162). -/
def Obligations.ReduceScanMatchElect : Prop :=
  ∀ h : Hdr,
    (∀ op x, CollectsFlagged (.cred h op x) x.d fun c _ _ =>
      (ruleTree (credFold op x.ty) (fun l => (c l).map fun b => b.b32 x.b) 0 5).getD ⟨0#32, 0⟩) ∧
    (∀ x, CollectsFlagged (.cscan h x) x.d fun c l _ =>
      (ruleScan (scanFold x.op x.ty) (fun k => (c k).map fun b => b.b32 x.b) l).getD ⟨0#32, 0⟩) ∧
    (∀ x, CollectsReg (.matchLanes h x) x.d fun c _ a =>
      laneWord fun l => (c l).any fun b => b.reg x.b.toNat == a.reg x.b.toNat) ∧
    (∀ x, CollectsPred (.elect h x) x.p fun c l _ => (List.range l).all fun k => (c k).isNone)

/-- The address operand of an instruction: its space, base, offset and access size (R184). -/
def operandAddress : Instr → Option (Space × SrcA × Word × Nat)
  | .ld _ x | .ldAfter _ x | .st _ x => some (x.space, x.a, x.off, x.width.bytes)
  | .atomAdd _ x | .atomMinS _ x | .atomMinN _ x | .atomMaxS _ x | .atomMaxN _ x | .atomAnd _ x | .atomOr _ x
  | .atomXor _ x | .atomExch _ x | .atomFadd _ x | .atomFmin _ x | .atomFmax _ x | .atomcas _ x =>
    some (x.space, x.a, x.off, x.width.bytes)
  | .red _ x => some (x.space, x.a, x.off, x.width.bytes)
  | .atombInc _ x | .atombDec _ x => some (x.space, x.a, x.off, 4)
  | .monitor _ x => some (x.space, x.a, x.off, 1)
  | .ldf _ x | .stf _ x => some (.glb, .reg x.a, 0#32, 64)
  | .barinit _ x => some (x.space, .reg x.a, 0#32, 16)
  | .bara _ x => some (x.space, .reg x.a, 0#32, 16)
  | .barw _ x => some (x.space, .reg x.a, 0#32, 16)
  | _ => none

/-- BOUNDS and MISALIGNED (R184, R209). -/
def Obligations.AddressChecksRaiseTheirFaults : Prop :=
  ∀ i sp a off n, operandAddress i = some (sp, a, off, n) →
    Raises i (fun s t th _ => th.inSection = false ∧ Outside s t sp (ruleEa th sp a off).toNat) 0x06 0
      (fun _ _ th _ => ruleEa th sp a off) ∧
    Raises i (fun s t th _ => th.inSection = false ∧ ¬ Outside s t sp (ruleEa th sp a off).toNat ∧
      (ruleEa th sp a off).toNat % n ≠ 0) 0x05 0 (fun _ _ th _ => ruleEa th sp a off)

/-- The newest of a thread's entries that covers byte `i` of a line (R88). -/
def newestCover (th : Thread) (sp : Space) (region line i : Nat) : Option PsqEntry :=
  (th.psq.filter fun e => e.space == sp && e.region == region && e.block == 4 * line + i / 16
    && e.mask.getLsbD (i % 16)).getLast?

/-- Bytes of a line under a mask are those that the thread has of its own. -/
def HoldsOwn (th : Thread) (acc : Access) (own : BitVec 512) (mask : Nat) : Prop :=
  ∀ i, i < 64 →
    if acc.space = .priv then
      mask.testBit i = decide (acc.addr % 64 ≤ i ∧ i < acc.addr % 64 + acc.size) ∧
        (mask.testBit i = true → byteOf own.toNat i = (Memory.read th.priv (acc.addr / 64 * 64 + i)).toNat)
    else
      match newestCover th acc.space acc.region (acc.addr / 64) i with
      | none => mask.testBit i = false
      | some e => mask.testBit i = true ∧ byteOf own.toNat i = byteOf e.data.toNat (i % 16)

/-- A load has issued: it is outstanding, with the thread's own bytes, each from an entry of its PSQ, or, for lane-private
memory, fixed. -/
def LoadIssued (i : Instr) (s : State) (iss : Issue) (t : Nat) (th : Thread) (acc : Access) (w : Width) (d : Reg)
    (after alloc : Bool) (form : LoadForm) : Prop :=
  ∃ own b, HoldsOwn th acc (gatherOwn own).1 (gatherOwn own).2 ∧
    (∀ y ∈ own, if acc.space = .priv then y.seq = none else ∃ e ∈ th.psq, y.seq = some e.seq) ∧
    exec i s = .next (s.setThread t b) ∧
    Computed iss.pc noReg 0 noPred [.load acc w d after alloc form own]
      (if acc.space = .glb then th.mark (markOf (s.asidOf t) acc.addr) else th) b

/-- The checks of a load pass (R184, R50, R385), and its section, if any, can hold the line (R205). -/
def LoadPasses (i : Instr) (s : State) (iss : Issue) (t : Nat) (th : Thread) (sp : Space) (ea : DWord) (n : Nat)
    (hint : BitVec 2) (acc : Access) (pte : Option DWord) : Prop :=
  let e := s.entered i t th iss
  e.checkAddr t sp ea n = .ok acc ∧
  (if sp = .glb then ∃ p, pte = some p ∧ e.checkGlb t .load acc = .ok p else pte = none) ∧
  e.sectionLoadFails t acc pte hint = false ∧
  (e.loadStalled t acc = true ∨ (e.loadNow t acc pte (hint != 2#2)).poison = none)

/-- LD, LD.after and LDF (R63, R88, R185, R187). -/
def LoadsTakeTheThreadsOwnBytesClause : Prop :=
  (∀ h x s iss t th acc pte, Single (.ld h x) s iss t th →
    LoadPasses (.ld h x) s iss t th x.space (ruleEa th x.space x.a x.off) x.width.bytes x.hint acc pte →
    LoadIssued (.ld h x) s iss t th acc x.width x.d false (x.hint != 2#2) .raw) ∧
  (∀ h x s iss t th acc pte, Single (.ldAfter h x) s iss t th →
    LoadPasses (.ldAfter h x) s iss t th x.space (ruleEa th x.space x.a x.off) x.width.bytes x.hint acc pte →
    LoadIssued (.ldAfter h x) s iss t th acc x.width x.d true (x.hint != 2#2) .raw) ∧
  (∀ h x s iss t th acc pte j, Single (.ldf h x) s iss t th → s.jobOf t = some j →
    LoadPasses (.ldf h x) s iss t th .glb (th.pair x.a.toNat) 64 0#2 acc (some pte) →
    elementFault (entryOf (j.image (coreOf t) (pteFmt pte))) (pteGeom pte).toNat x.e.toNat acc.issued = none →
    LoadIssued (.ldf h x) s iss t th acc x.width x.d false true
      (.element (j.image (coreOf t) (pteFmt pte)) (pteGeom pte) x.e.toNat))

/-- An outstanding raw load of a thread may bind now. -/
structure Binds (s : State) (t : Nat) (th : Thread) (o : Outstanding) (acc : Access) (w : Width) (d : Reg)
    (after alloc : Bool) (own : List OwnBytes) : Prop where
  thread : s.thread t = some th
  found  : th.outstanding o.order = some o
  kind   : o.kind = .load acc w d after alloc .raw own
  size   : acc.size = w.bytes
  align  : acc.addr % acc.size = 0
  order  : th.mayPerform o acc after = true
  hold   : ∀ f, th.hold ≠ .faulting f
  regs   : Sparse.wf th.regs = true

/-- A value whose bytes are the own ones under the mask, and the given ones elsewhere. -/
def MixedBytes (acc : Access) (own : BitVec 512) (mask : Nat) (mem : Nat → Nat) (v : Nat) : Prop :=
  ∀ i, i < acc.size →
    byteOf v i = if mask.testBit (acc.addr % 64 + i) = true then byteOf own.toNat (acc.addr % 64 + i) else mem i

/-- The bytes of `.glb` memory as a page reads them at the place `key` (R65, R306). -/
def pageByte (s : State) (pte : DWord) (key i : Nat) : Nat :=
  if s.lineUnscrubbed key = true then 0
  else if Sparse.get s.mem.domains (key / 64) = 0#512 ∨ Sparse.get s.mem.domains (key / 64) = s.keyFor pte then
    (Memory.read s.mem.dram (key + i)).toNat
  else byteOf (Config.decrypt (Sparse.get s.mem.domains (key / 64)) (s.keyFor pte) (key / 64)
    (Memory.readBits s.mem.dram (key / 64 * 64) 64 512)).toNat (key % 64 + i)

/-- LOAD_BIND (R88, R93, R185, R306): of what the thread had of its own, the bytes of the entries that still stand. -/
def LoadsBindTheirBytesClause : Prop :=
  ∀ s t th o acc w d after alloc stores own mask, Binds s t th o acc w d after alloc stores →
    own = (th.ownStanding stores).1 → mask = (th.ownStanding stores).2 →
    (acc.space = .scr ∨ acc.space = .clu ∨ acc.space = .lag → s.accessAbsent t acc none true = false →
      s.bankPoisoned (s.bankOf (coreOf t) (s.partOf t) acc).1 (s.bankOf (coreOf t) (s.partOf t) acc).2 acc.size = false →
      s.affordsFor t (s.loadCost t acc none mask) = true →
      ∃ v b, MixedBytes acc own mask (fun i => (Memory.read (s.bankMem (s.bankOf (coreOf t) (s.partOf t) acc).1)
          ((s.bankOf (coreOf t) (s.partOf t) acc).2 + i)).toNat) v ∧
        exec (.loadBind t o.order) s = .next ((s.payFor t (s.loadCost t acc none mask)).setThread t b) ∧
        Finished o.order (dataWrites w d (BitVec.ofNat 128 v)) 0 th b) ∧
    (acc.space = .priv → (∀ i, i < acc.size → mask.testBit (acc.addr % 64 + i) = true) →
      ∃ v b, MixedBytes acc own mask (fun _ => 0) v ∧ exec (.loadBind t o.order) s = .next (s.setThread t b) ∧
        Finished o.order (dataWrites w d (BitVec.ofNat 128 v)) 0 th b) ∧
    (∀ pte l, acc.space = .glb → s.accessAttrs t acc = some (some pte) → s.loadStalled t acc = false →
      s.accessAbsent t acc (some pte) true = false → cacheable (s.part (s.partOf t)) (s.asidOf t) acc.addr pte = true →
      s.reqSent (.load t o.order) = false → (s.core (coreOf t)).line? (s.asidOf t) (acc.addr / 64) = some l → l.poison = false →
      ∃ v b, MixedBytes acc own mask (fun i => byteOf
          ((s.core (coreOf t)).overlay (s.asidOf t) (acc.addr / 64) l.data).toNat (acc.addr % 64 + i)) v ∧
        exec (.loadBind t o.order) s = .next (s.setThread t b) ∧
        Finished o.order (dataWrites w d (BitVec.ofNat 128 v)) 0 th b) ∧
    (∀ pte, acc.space = .glb → s.accessAttrs t acc = some (some pte) → s.loadStalled t acc = false →
      s.accessAbsent t acc (some pte) true = false → uncached pte = true → pteTier pte ≠ 2 →
      s.linePoisoned (dramKey pte acc.addr) = false → s.affordsFor t (s.loadCost t acc (some pte) mask) = true →
      ∃ s' v b, MixedBytes acc own mask (pageByte s pte (dramKey pte acc.addr)) v ∧
        exec (.loadBind t o.order) s = .next s' ∧ s'.thread t = some b ∧
        Finished o.order (dataWrites w d (BitVec.ofNat 128 v)) 0 th b ∧
        (∀ u, u ≠ t → s'.thread u = s.thread u) ∧ s'.mem.dram = s.mem.dram ∧
        { s' with threads := s.threads, mem := s.mem, parts := s.parts } =
          { s.payFor t (s.loadCost t acc (some pte) mask) with parts := s.parts })

/-- Loads, from issue to binding (R88, R184 to R186). -/
def Obligations.LoadsTakeAndBindTheirBytes : Prop :=
  LoadsTakeTheThreadsOwnBytesClause ∧ LoadsBindTheirBytesClause

/-- What a private store of `n` bytes trails: kind, address and size of each word (R242). -/
def ruleTrail (a n : Nat) : List (Nat × Nat × Nat) :=
  if n ≤ 4 then [(0, a / 4 * 4, 4)] else if n = 8 then [(1, a, 8)] else [(1, a, 8), (1, a + 8, 8)]

/-- ST to `.priv` (R46, R186, R242). -/
def PrivateStoresWriteAtOnceClause : Prop :=
  ∀ h x, x.space = .priv →
    (∀ s iss t th, Single (.st h x) s iss t th → Memory.wf th.priv = true →
      let ea := (ruleEa th .priv x.a x.off).toNat
      let n := x.width.bytes
      let k := (ruleTrail ea n).length
      ¬ Outside s t .priv ea → ea % n = 0 →
      (th.cpd = 0 ∨ th.trp + 16 * k + 32 * th.cpd ≤ th.trl) →
      ∃ b, exec (.st h x) s = .next (s.setThread t b) ∧
        Computed iss.pc noReg 0 noPred [] { th with priv := b.priv, privPoison := b.privPoison, choice := b.choice } b ∧
        (∀ i, i < n → (Memory.read b.priv (ea + i)).toNat = storeByte th x.d i) ∧
        (∀ a, a < ea ∨ ea + n ≤ a → th.cpd = 0 ∨ a < th.trp ∨ th.trp + 16 * k ≤ a →
          Memory.read b.priv a = Memory.read th.priv a) ∧
        (th.cpd = 0 → b.choice = th.choice) ∧
        (th.cpd ≠ 0 → b.choice = { th.choice with trp := BitVec.ofNat 32 (th.trp + 16 * k) } ∧
          (ea / 16 * 16 + 16 ≤ th.trp ∨ th.trp + 16 * k ≤ ea / 16 * 16 →
            ∀ j, j < k → ∀ w, (ruleTrail ea n)[j]? = some w →
              Memory.readNat b.priv (th.trp + 16 * j) 16
                = Memory.readNat th.priv w.2.1 w.2.2 * 2 ^ 64 + w.1 * 2 ^ 62 + w.2.1 % 2 ^ 18))) ∧
    Raises (.st h x) (fun s t th _ =>
      let ea := (ruleEa th .priv x.a x.off).toNat
      ¬ Outside s t .priv ea ∧ ea % x.width.bytes = 0 ∧ th.cpd ≠ 0 ∧
      th.trl < th.trp + 16 * (ruleTrail ea x.width.bytes).length + 32 * th.cpd) 0x0E 0 fun _ _ _ _ => 0

/-- An entry holds the bytes of a store and, under them, those of an older entry. -/
def HoldsStore (old : Option PsqEntry) (e : PsqEntry) (a n : Nat) (byte : Nat → Nat) : Prop :=
  ∀ k, k < 16 →
    if a % 16 ≤ k ∧ k < a % 16 + n then
      e.mask.getLsbD k = true ∧ byteOf e.data.toNat k = byte (k - a % 16)
    else e.mask.getLsbD k = (old.any fun o => o.mask.getLsbD k) ∧
      ∀ o, old = some o → byteOf e.data.toNat k = byteOf o.data.toNat k

/-- The queue of a thread after a store (R86, R242), which `may` merge into the newest entry: where nothing outstanding
waits for that (log 19). -/
def Queued (now : Nat) (th : Thread) (order : Nat) (acc : Access) (may : Bool) (byte : Nat → Nat) (psq : List PsqEntry) :
    Prop :=
  match th.mergeInto acc may with
  | some o => ∃ e, psq = th.psq.dropLast ++ [e] ∧ HoldsStore (some o) e acc.addr acc.size byte ∧
      { e with data := o.data, mask := o.mask, order := o.order } = o
  | none => ∃ e, psq = th.psq ++ [e] ∧ HoldsStore none e acc.addr acc.size byte ∧ e.space = acc.space ∧
      e.region = acc.region ∧ e.block = acc.addr / 16 ∧ e.born = now ∧ e.order = order ∧
      e.tent = decide (th.cpd ≠ 0) ∧
      (e.tent = true → e.frame = (th.frame th.cpd).ser) ∧ e.forced = false ∧ e.poison = false

/-- ST to a shared space, and STORE_CHECK_PASS (R46, R86, R87, R186, R242). -/
def SharedStoresEnterTheQueueClause : Prop :=
  (∀ h x s iss t th acc, Single (.st h x) s iss t th → x.space ≠ .priv →
    let e := s.entered (.st h x) t th iss
    e.checkAddr t x.space (ruleEa th x.space x.a x.off) x.width.bytes = .ok acc →
    (x.space = .glb → ∃ pte, e.checkGlb t .store acc = .ok pte) →
    (th.mergeInto acc (s.mayMerge t th) = none → e.psqRoom t th = true ∧ (th.cpd = 0 ∨ th.tentative.length < 32)) →
    ∃ b, exec (.st h x) s = .next (s.setThread t b) ∧
      Computed iss.pc noReg 0 noPred [] { th with psq := b.psq } b ∧
      if x.space = .glb ∧ e.l1Hit (coreOf t) (e.asidOf t) acc.addr = false then
        b.psq = th.psq ∧ b.hold = .storeCheck { acc := acc, data := th.data x.width x.d }
      else Queued (s.clock t) th (th.order + 1) acc (s.mayMerge t th) (storeByte th x.d) b.psq) ∧
  (∀ (s : State) t th st pte, s.thread t = some th → th.hold = .storeCheck st → st.acc.addr % 16 + st.acc.size ≤ 16 →
    s.drainAttrs (coreOf t) (s.part (s.partOf t)) (s.asidOf t) st.acc.addr = some pte →
    s.permit (s.partOf t) (coreOf t) .store (s.asidOf t) st.acc.addr pte = none →
    (th.mergeInto st.acc (s.mayMerge t th) = none → s.psqRoom t th = true) →
    ∃ b, exec (.storeCheckPass t) s = .next (s.setThread t b) ∧
      { b with psq := th.psq, nextSeq := th.nextSeq, hold := th.hold } = th ∧ b.hold = .none ∧
      Queued (s.clock t) th th.order st.acc (s.mayMerge t th) (byteOf st.data.toNat) b.psq) ∧
  (∀ h x, x.space ≠ .priv → Raises (.st h x) (fun s t th _ => ∃ acc,
    s.checkAddr t x.space (ruleEa th x.space x.a x.off) x.width.bytes = .ok acc ∧
    (x.space = .glb → ∃ pte, s.checkGlb t .store acc = .ok pte) ∧ th.inSection = false ∧ th.cpd ≠ 0 ∧
    th.mergeInto acc (s.mayMerge t th) = none ∧ 32 ≤ th.tentative.length) 0x0F 0 fun _ _ _ _ => 0)

/-- ST (R86, R87, R186). -/
def Obligations.StoresWriteOrEnterTheQueue : Prop :=
  PrivateStoresWriteAtOnceClause ∧ SharedStoresEnterTheQueueClause

/-- A memory whose 16 bytes from `base` are replaced by data under a mask, and nothing else. -/
def ReplacesBlock (m m' : Memory) (base : Nat) (data : BitVec 128) (mask : BitVec 16) : Prop :=
  ∀ a, Memory.read m' a =
    if base ≤ a ∧ a < base + 16 ∧ mask.getLsbD (a - base) = true then BitVec.ofNat 8 (byteOf data.toNat (a - base))
    else Memory.read m a

/-- An entry of a thread that may drain now (R89). -/
structure Drains (s : State) (t : Nat) (th : Thread) (e : PsqEntry) : Prop where
  table  : Tab.wf s.threads = true
  thread : s.thread t = some th
  entry  : th.entry? e.seq = some e
  may    : s.mayDrain t th e = true
  first  : th.olderOverlap e = false
  clean  : e.poison = false
  afford : s.affordsFor t (s.drainCost t e false) = true
  room   : s.entryRoom t e = true

/-- No thread that a CWAIT holds stands on a core with privatised lines: where one ends, its core merges them (R97, R219,
R285). -/
def NoMergeOnWake (s : State) : Prop :=
  ∀ t a, s.thread t = some a → (∃ va v d, a.hold = .wait (.cwait va v d)) → ∀ l ∈ (s.core (coreOf t)).l1, l.grant = 0#64

/-- The home slice of a line of an ordinary page holds it, or has room for it (R4, R269). -/
def SliceTakes (s : State) (p : Partition) (asid line : Nat) : Prop :=
  s.l2Holds p asid line 0 = true ∨ (s.mem.l2.filter fun x => x.slice == p.home line).length < 65536

/-- A page table entry under which a core may write a `.glb` block of its own form (R50, R58). -/
structure DrainsUnder (s : State) (t : Nat) (va : Nat) (pte : DWord) : Prop where
  attrs  : s.drainAttrs (coreOf t) (s.part (s.partOf t)) (s.asidOf t) va = some pte
  allow  : s.permit (s.partOf t) (coreOf t) .store (s.asidOf t) va pte = none
  leaf   : classify (s.part (s.partOf t)) (s.asidOf t) va pte = .leaf pte
  own    : remapOf (s.part (s.partOf t)) (s.asidOf t) va = none
  tier   : pteTier pte ≠ 2

/-- PSQ_ENTRY_DRAIN, DRAIN_AGE_EXPIRY and WRITE_THROUGH_PERFORM (R89, R90). -/
def Obligations.EntriesDrainToTheirBytes : Prop :=
  (∀ s t th e, Drains s t th e → e.space = .scr ∨ e.space = .clu ∨ e.space = .lag →
    let b := s.bankOf (coreOf t) (s.partOf t)
      { space := e.space, region := e.region, addr := 16 * e.block, size := 16, issued := 0#64 }
    (e.space = .scr → (s.gang e.region).isSome = true) → Memory.wf (s.bankMem b.1) = true →
    ∃ s' x, exec (.psqEntryDrain t e.seq) s = .next s' ∧ s'.mem = s.mem ∧ s'.thread t = some x ∧
      x.psq = th.psq.filter (fun y => y.seq != e.seq) ∧
      ReplacesBlock (s.bankMem b.1) (s'.bankMem b.1) b.2 e.data e.mask ∧
      ∀ c, c ≠ b.1 → s'.bankMem c = s.bankMem c) ∧
  (∀ s t th e pte, Drains s t th e → e.space = .glb → DrainsUnder s t (16 * e.block) pte → uncached pte = true →
    s.lineUnscrubbed (dramKey pte (16 * e.block)) = false → s.inDomain pte (dramKey pte (16 * e.block)) = true →
    NoMergeOnWake s → Memory.wf s.mem.dram = true →
    ∃ s' x, exec (.psqEntryDrain t e.seq) s = .next s' ∧ s'.thread t = some x ∧
      x.psq = th.psq.filter (fun y => y.seq != e.seq) ∧
      ReplacesBlock s.mem.dram s'.mem.dram (dramKey pte (16 * e.block)) e.data e.mask) ∧
  (∀ s t th e pte, Drains s t th e → e.space = .glb → DrainsUnder s t (16 * e.block) pte → uncached pte = false →
    isMirror (s.part (s.partOf t)) pte = false →
    (∀ l, (s.core (coreOf t)).line? (s.asidOf t) (e.block / 4) = some l → l.grant = 0#64) →
    ∃ s', exec (.psqEntryDrain t e.seq) s = .next s' ∧ s'.mem = s.mem ∧
      s'.thread t = some { th with psq := th.psq.filter fun y => y.seq != e.seq } ∧
      (∀ u, u ≠ t → s'.thread u = s.thread u) ∧
      (s'.core (coreOf t)).wtq = (s.core (coreOf t)).wtq ++
        [{ asid := s.asidOf t, block := e.block, pte := pte, data := e.data, mask := e.mask, thread := t,
           vdev := s.vdevOf t, poison := false, second := false }] ∧
      ∀ l, (s.core (coreOf t)).line? (s.asidOf t) (e.block / 4) = some l →
        ∃ l', (s'.core (coreOf t)).line? (s.asidOf t) (e.block / 4) = some l' ∧ ∀ i, i < 64 → byteOf l'.data.toNat i =
          if i / 16 = e.block % 4 ∧ e.mask.getLsbD (i % 16) = true then byteOf e.data.toNat (i % 16)
          else byteOf l.data.toNat i) ∧
  (∀ (s : State) core e rest, (s.core core).wtq = e :: rest → e.poison = false → uncached e.pte = false →
    isMirror (s.part (s.partOf e.thread)) e.pte = false →
    remapOf (s.part (s.partOf e.thread)) e.asid (16 * e.block) = none →
    s.dir? e.asid (e.block / 4) = none → s.lineUnscrubbed (dramKey e.pte (16 * e.block)) = false →
    s.inDomain e.pte (dramKey e.pte (16 * e.block)) = true → NoMergeOnWake s → Memory.wf s.mem.dram = true →
    SliceTakes s (s.part (s.partOf e.thread)) e.asid (e.block / 4) →
    s.queueAffords core e = true → (s.reachHome core (.head core) (s.part (s.partOf e.thread)) e.asid (16 * e.block) e.pte
      (blockInLine e.block e.data e.mask).2 0 (some core)).1 = true →
    ∃ s', exec (.writeThroughPerform core) s = .next s' ∧ (s'.core core).wtq = rest ∧
      ReplacesBlock s.mem.dram s'.mem.dram (dramKey e.pte (16 * e.block)) e.data e.mask) ∧
  (∀ (s : State) t th e, s.thread t = some th → th.entry? e.seq = some e →
    exec (.drainAgeExpiry t e.seq) s =
      if e.tent = false ∧ (s.part (s.partOf t)).drainAge ≤ s.clock t - e.born then exec (.psqEntryDrain t e.seq) s
      else .next s)

/-- The cores other than one that the directory counts among a line's sharers and that hold it privatised. -/
def OtherHolders (s : State) (core asid line : Nat) : List Nat :=
  match s.dir? asid line with
  | none => []
  | some e => e.sharers.filter fun c => c != core && s.grantOf c asid line != 0#64

/-- What a merge of a holder's copy leaves at a byte of DRAM: nothing, but for the bytes of its grant. -/
def MergedByte (l : L1Line) (va a : Nat) : Option Byte :=
  let base := dramKey l.pte va
  if base ≤ a ∧ a < base + 64 ∧ l.grant.getLsbD (a - base) = true then some (BitVec.ofNat 8 (byteOf l.data.toNat (a - base)))
  else none

/-- MERGE_DEMAND, MERGE_RECEIVE, MIRROR_PROPAGATE, MIRROR_REPLICA_ACK, WATCH_LOSS_WAKE (R61 to R63, R200, R285). -/
def Obligations.CoherenceStepsMoveOneLine : Prop :=
  (∀ (s : State) core asid line l, line < 2 ^ 50 → (s.core core).line? asid line = some l →
    exec (.mergeDemand core (asid * 2 ^ 50 + line)) s = .next
      (if l.grant = 0#64 ∨ (⟨core, asid, line⟩ : Demand) ∈ s.mem.demands then s
       else { s with mem := { s.mem with demands := s.mem.demands ++ [⟨core, asid, line⟩] } })) ∧
  (∀ (s : State) core asid line l, line < 2 ^ 50 → (⟨core, asid, line⟩ : Demand) ∈ s.mem.demands →
    (s.core core).line? asid line = some l → l.grant ≠ 0#64 →
    s.reserveRoom (s.partOfIsle (isleOf core)) line = true →
    s.lineUnscrubbed (dramKey l.pte (64 * line)) = false → s.inDomain l.pte (dramKey l.pte (64 * line)) = true →
    NoMergeOnWake s → Memory.wf s.mem.dram = true →
    ∃ s', exec (.mergeReceive core (asid * 2 ^ 50 + line)) s = .next s' ∧
      (⟨core, asid, line⟩ : Demand) ∉ s'.mem.demands ∧
      (∀ x, (s'.core core).line? asid line = some x → x.grant = 0#64) ∧
      ((OtherHolders s core asid line).length ≠ 1 → ∀ a, Memory.read s'.mem.dram a =
        (MergedByte l (64 * line) a).getD (Memory.read s.mem.dram a)) ∧
      (∀ c y, OtherHolders s core asid line = [c] → (s.core c).line? asid line = some y → y.pte = l.pte →
        (∀ x, (s'.core c).line? asid line = some x → x.grant = 0#64) ∧ ∀ a, Memory.read s'.mem.dram a =
          (MergedByte y (64 * line) a).getD ((MergedByte l (64 * line) a).getD (Memory.read s.mem.dram a)))) ∧
  (∀ (s : State) core asid line, line < 2 ^ 50 → (⟨core, asid, line⟩ : Demand) ∈ s.mem.demands →
    s.grantOf core asid line = 0#64 → NoMergeOnWake s →
    ∃ s', exec (.mergeReceive core (asid * 2 ^ 50 + line)) s = .next s' ∧
      (⟨core, asid, line⟩ : Demand) ∉ s'.mem.demands ∧ s'.mem.dram = s.mem.dram) ∧
  (∀ (s : State) k die u, Tab.get? s.mem.updates k = some u → die ∈ u.todo →
    s.replicaHeld u.part die u.asid u.line = false → s.oldestUpdate u die = some k → die ∉ s.fw.reset → die ∉ s.fw.dead →
    ∃ s', exec (.mirrorPropagate k die) s = .next s' ∧ s'.mem.dram = s.mem.dram ∧
      (∀ x, Tab.get? s'.mem.updates k = some x → x = { u with todo := without u.todo die }) ∧
      ((∃ y ∈ s'.mem.updates, y.2.asid = u.asid ∧ y.2.line = u.line ∧ die ∈ y.2.todo) →
        ∃ r, s'.mem.replicas.find? (fun r => r.asid == u.asid && r.line == u.line && r.die == die) = some r ∧
          r.data = u.data ∧ r.poison = u.poison)) ∧
  (∀ (s : State) k die u, Tab.get? s.mem.updates k = some u → die ∉ u.todo →
    ∃ s', exec (.mirrorReplicaAck k die) s = .next s' ∧ { s' with mem := s.mem } = s ∧
      { s'.mem with updates := s.mem.updates } = s.mem ∧
      (∀ x, Tab.get? s'.mem.updates k = some x → x = { u with unacked := without u.unacked die }) ∧
      ∀ j, j ≠ k → Tab.get? s'.mem.updates j = Tab.get? s.mem.updates j) ∧
  (∀ (s : State) core asid line l, line < 2 ^ 50 → (s.core core).line? asid line = some l → l.grant = 0#64 →
    Tab.wf s.threads = true →
    ∃ s', exec (.watchLossWake core (asid * 2 ^ 50 + line)) s = .next s' ∧ (s'.core core).line? asid line = none ∧
      s'.mem.dram = s.mem.dram ∧
      ∀ t th w, s.thread t = some th → coreOf t = core → th.watch = some w → w.space = .glb →
        w.line = asid * 2 ^ 50 + line → w.overflow = false →
        s'.thread t = some { th with watch := some { w with events := addOnce w.events 1 } })

/-- A thread that waits for a walk. -/
def WaitsForWalk (th : Thread) (k va : Nat) (fetch : Bool) : Prop := th.hold = .walking k va fetch

/-- TRANSLATION_WALK_END, PARKED_ACCESS_RESOLVED, UNSCRUBBED_CLEAR (R49, R52, R65, R366). -/
def Obligations.WalksEndInLeafParkOrStop : Prop :=
  (∀ (s : State) k w, Tab.get? s.mem.walks k = some w →
    (∀ pte, s.walkLeaf w = some pte → physExists s.caps pte w.va = true →
      let p := s.part w.part
      let page (x : Walk) : Bool :=
        x.isle == w.isle && x.asid == w.asid && x.va / pageBytes (ptePs pte) == w.va / pageBytes (ptePs pte)
      ∃ s', exec (.translationWalkEnd k) s = .next s' ∧
        (isMirror p pte = false → s'.tlb? w.isle w.asid w.va = some pte) ∧
        (isMirror p pte = true → ∀ d ∈ p.dies,
          s'.tlb? (isleOf (p.replicaHome ((primaryForm p w.asid w.va).2 / 64) d)) w.asid w.va = some pte) ∧
        s'.mem.walks = s.mem.walks.filter (fun x => !page x.2) ∧ s'.mem.dram = s.mem.dram ∧
        (∀ j x t th va f, (j, x) ∈ s.mem.walks → page x = true → s.thread t = some th → t ∈ x.waiters →
          WaitsForWalk th j va f →
          s'.thread t = some { th with hold := .replay } ∧ Turn.group [t] ∈ s'.sched.agenda) ∧
        (∀ t, (∀ y ∈ s.mem.walks, page y.2 = true → t ∉ y.2.waiters) → s'.thread t = s.thread t)) ∧
    (s.walkLeaf w = none →
      ∃ s', exec (.translationWalkEnd k) s = .next s' ∧ Tab.get? s'.mem.walks k = none ∧ s'.mem.dram = s.mem.dram ∧
        (∀ t th va f, s.thread t = some th → t ∈ w.waiters → WaitsForWalk th k va f →
          s'.thread t = some { th with hold := .parked va f }) ∧
        (∀ t, t ∉ w.waiters → s'.thread t = s.thread t)) ∧
    (∀ pte, s.walkLeaf w = some pte → physExists s.caps pte w.va = false →
      exec (.translationWalkEnd k) s = .fault (.noSuchMemory (physOf pte w.va)))) ∧
  (∀ (s : State) t th va f, s.thread t = some th → th.hold = .parked va f →
    exec (.parkedAccessResolved t true) s =
      .next ((s.setThread t { th with hold := .replay }).later [.group [t]])) ∧
  (∀ (s : State) t th va, s.thread t = some th → th.hold = .parked va false → Deliverable s th →
    ∃ s', exec (.parkedAccessResolved t false) s = .next s' ∧ EnteredHandler s s' t th
      (ruleFaultRegs 0x09 th.last th.pc th.opa th.opb 6#32 (BitVec.ofNat 64 va))) ∧
  (∀ (s : State) page u, s.mem.unscrubbed.find? (fun u => u.page == page && u.started) = some u →
    Memory.wf s.mem.dram = true →
    ∃ m, exec (.unscrubbedClear page) s = .next (s.setMem m) ∧
      (∀ a, Memory.read m.dram a =
        if a / 65536 = page ∧ a / 64 ∉ u.lines then 0#8 else Memory.read s.mem.dram a) ∧
      (∀ l ∈ m.poison, ¬ (l / 1024 = page ∧ l ∉ u.lines)) ∧ (∀ x ∈ m.unscrubbed, x.page ≠ page))

/-- A CINV and its target (R190). -/
def CinvOf (h : Hdr) (x : CinvArgs) : Nat → Instr
  | 0 => .cinvD h x
  | 1 => .cinvI h x
  | _ => .cinvIf h x

/-- The encoding of an STF's source into element `n` of a line (R76, R79, R188). -/
def stfBits (e : Entry) (n : Nat) (frm : Word) (source : DWord) (wide : Bool) (line : Nat) : Flagged Nat :=
  let v := if wide then fp64.decode source.toNat else fp32.decode (source.toNat % 2 ^ 32)
  if e.blk = 1 then e.encodeBfp (line / 2 ^ blockStart e n % 2 ^ 16) v (modeOfCode e.rnd frm)
  else e.convert v (modeOfCode e.rnd frm)

/-- STF, PREF, CINV and STALLING_INSTRUCTION_COMPLETE (R187 to R190). -/
def Obligations.FormattedStoresAndCacheInstructions : Prop :=
  (∀ h x s iss t th acc pte j, Single (.stf h x) s iss t th → th.inSection = false → s.jobOf t = some j →
    (s.entered (.stf h x) t th iss).checkAddr t .glb (th.pair x.a.toNat) 64 = .ok acc →
    (s.entered (.stf h x) t th iss).checkGlb t .store acc = .ok pte →
    let image := j.image (coreOf t) (pteFmt pte)
    elementFault (entryOf image) (pteGeom pte).toNat x.e.toNat acc.issued = none →
    (pteTier pte = 2 ∨ s.linePoisoned (dramKey pte acc.addr) = false) →
    ∃ b, exec (.stf h x) s = .next (s.setThread t b) ∧ Computed iss.pc noReg 0 noPred [] th b ∧
      b.hold = .finishing (.stf acc image (pteGeom pte) x.e.toNat
        (if x.width = .w64 then th.pair x.d.toNat else (th.reg x.d.toNat).setWidth 64) (x.width == .w64))) ∧
  (∀ (s : State) t th acc image geom n source wide pte, Tab.wf s.threads = true → s.thread t = some th →
    th.hold = .finishing (.stf acc image geom n source wide) → s.accessAttrs t acc = some (some pte) →
    uncached pte = true → pteTier pte ≠ 2 → th.longs = [] → th.psq = [] → (s.core (coreOf t)).wtq = [] →
    s.accessLocked t acc = false → s.stfSent t = false → s.accessAbsent t acc (some pte) false = false →
    s.affordsFor t (s.accessCost t acc (some pte) false) = true →
    s.linePoisoned (dramKey pte acc.addr) = false → s.lineUnscrubbed (dramKey pte acc.addr) = false →
    NoMergeOnWake s → Memory.wf s.mem.dram = true → elementFault (entryOf image) geom.toNat n acc.issued = none →
    let key := dramKey pte acc.addr
    let old := s.lineFor pte key
    let r := stfBits (entryOf image) n th.frm source wide old.toNat
    let used := if (entryOf image).blk = 1 then 2 ^ geom.toNat * (16 + 32 * (entryOf image).width) else 512
    ∃ s' b, exec (.stallingInstructionComplete t) s = .next s' ∧ s'.thread t = some b ∧ b.hold = .none ∧
      b.regs = th.regs ∧ b.flg = th.flg ||| BitVec.ofNat 32 (r.flags % 64) ∧
      (∀ k, k < 512 → (s'.dramLine key).getLsbD k =
        let lo := elementBit (entryOf image) n
        if lo ≤ k ∧ k < lo + (entryOf image).width then r.val.testBit (k - lo)
        else decide (k < used) && old.getLsbD k) ∧
      (∀ a, a / 64 ≠ key / 64 → Memory.read s'.mem.dram a = Memory.read s.mem.dram a)) ∧
  (∀ h x k, k < 3 → Raises (CinvOf h x k) (fun _ _ th _ => th.inSection = false ∧ 2 ^ 56 ≤ (th.pair x.a.toNat).toNat)
    0x06 0 fun _ _ th _ => th.pair x.a.toNat) ∧
  (∀ h x k s iss t th, k < 3 → Single (CinvOf h x k) s iss t th → th.inSection = false →
    (th.pair x.a.toNat).toNat < 2 ^ 56 →
    ∃ b, exec (CinvOf h x k) s = .next (s.setThread t b) ∧ Computed iss.pc noReg 0 noPred [] th b ∧
      ((th.b32 x.len).toNat ≠ 0 → b.hold = .finishing (.cinv k (th.pair x.a.toNat).toNat (th.b32 x.len).toNat))) ∧
  (∀ (s : State) t th k base len, Tab.wf s.threads = true → s.thread t = some th → th.hold = .finishing (.cinv k base len) →
    (k ≠ 0 → s.forceable t = true ∧ th.psq = [] ∧ (s.core (coreOf t)).wtq = [] ∧ s.mem.updates = []) →
    ∃ s' b, exec (.stallingInstructionComplete t) s = .next s' ∧ s'.thread t = some b ∧ b.hold = .none ∧
      if k = 0 then
        b = { th with hold := .none } ∧ ((∀ l ∈ (s.core (coreOf t)).l1, l.grant = 0#64) → s'.mem.dram = s.mem.dram) ∧
        ∀ l ∈ (s'.core (coreOf t)).l1, l.owned = true ∨ l.asid ≠ s.asidOf t ∨ lineIn l.line base len = false
      else
        ∀ c ∈ (s.part (s.partOf t)).cores,
          (∀ l ∈ (s'.core c).icache, (s.part (s.partOf t)).codeIn l.asid l.line base len = false) ∧ (k = 2 → (s'.core c).loop = none)) ∧
  (∀ h x s iss t th, Single (.pref h x) s iss t th →
    let e := s.entered (.pref h x) t th iss
    let p := s.part (s.partOf t)
    let c := coreOf t
    ((∃ f, e.checkAddr t .glb (ruleEa th .glb x.a x.off) 1 = .fault f) →
      ∃ b, exec (.pref h x) s = .next (s.setThread t b) ∧ Computed iss.pc noReg 0 noPred [] th b) ∧
    (∀ acc, e.checkAddr t .glb (ruleEa th .glb x.a x.off) 1 = .ok acc →
      (e.drainAttrs c p (s.asidOf t) acc.addr = none ∨ (∃ pte, e.drainAttrs c p (s.asidOf t) acc.addr = some pte ∧
        (e.permit (s.partOf t) c .load (s.asidOf t) acc.addr pte ≠ none ∨
          classify p (s.asidOf t) acc.addr pte = .synonym pte ∨ cacheable p (s.asidOf t) acc.addr pte = false))) →
      ∃ b, exec (.pref h x) s = .next (s.setThread t b) ∧ Computed iss.pc noReg 0 noPred [] th b) ∧
    (∀ acc pte, e.checkAddr t .glb (ruleEa th .glb x.a x.off) 1 = .ok acc →
      e.drainAttrs c p (s.asidOf t) acc.addr = some pte → e.permit (s.partOf t) c .load (s.asidOf t) acc.addr pte = none →
      classify p (s.asidOf t) acc.addr pte = .leaf pte → cacheable p (s.asidOf t) acc.addr pte = true →
      e.loadStalled t acc = false → e.loadRoom t acc (some pte) = true →
      e.affordsFor t (e.accessCost t acc (some pte) true) = true →
      ∃ s' b, exec (.pref h x) s = .next s' ∧ s'.thread t = some b ∧ b.pc = iss.pc + 12#56 ∧ b.regs = th.regs ∧
        b.preds = th.preds ∧ b.flg = th.flg ∧ b.psq = th.psq ∧
        if x.hint = 2#2 then s'.l2Holds p (s.asidOf t) (acc.addr / 64) (dieOf c) = true
        else ((s'.core c).line? (s.asidOf t) (acc.addr / 64)).isSome = true))

/-- An atomic with its space, width, scope, address, operand register, operation and destination. -/
structure AtomicForm where
  sp    : Space
  width : Width
  scope : BitVec 3
  a     : SrcA
  b     : Reg
  off   : Word
  fn    : Thread → AtomFn
  d     : Option Reg

/-- ATOM's form. -/
def atomForm (o : AtomOp) (x : AtomArgs) : AtomicForm := ⟨x.space, x.width, x.scope, x.a, x.b, x.off, fun _ => .op o, some x.d⟩

/-- The form of every atomic (R192 to R195). -/
def atomicForm : Instr → Option AtomicForm
  | .atomAdd _ x => some (atomForm .add x)
  | .atomMinS _ x => some (atomForm .minS x)
  | .atomMinN _ x => some (atomForm .minN x)
  | .atomMaxS _ x => some (atomForm .maxS x)
  | .atomMaxN _ x => some (atomForm .maxN x)
  | .atomAnd _ x => some (atomForm .and x)
  | .atomOr _ x => some (atomForm .or x)
  | .atomXor _ x => some (atomForm .xor x)
  | .atomExch _ x => some (atomForm .exch x)
  | .atomFadd _ x => some (atomForm .fadd x)
  | .atomFmin _ x => some (atomForm .fmin x)
  | .atomFmax _ x => some (atomForm .fmax x)
  | .atomcas _ x => some ⟨x.space, x.width, x.scope, x.a, x.b, x.off,
      fun th => .cas (if x.width = .w64 then th.pair x.d.toNat else (th.reg x.d.toNat).setWidth 64), some x.d⟩
  | .red _ x => some ⟨x.space, x.width, x.scope, x.a, x.b, x.off, fun _ => .op x.op, none⟩
  | .atombInc _ x => some ⟨x.space, .w32, x.scope, x.a, x.b, x.off, fun _ => .inc, some x.d⟩
  | .atombDec _ x => some ⟨x.space, .w32, x.scope, x.a, x.b, x.off, fun _ => .dec, some x.d⟩
  | _ => none

/-- ATOM, ATOMCAS, RED and ATOMB at issue (R191 to R195, R207). -/
def AtomicsStartOutstandingClause : Prop :=
  ∀ i f, atomicForm i = some f → f.width = .w32 ∨ f.width = .w64 →
    (∀ s iss t th acc pte, Single i s iss t th → th.inSection = false →
      let e := s.entered i t th iss
      e.checkAddr t f.sp (ruleEa th f.sp f.a f.off) f.width.bytes = .ok acc →
      (if f.sp = .glb then ∃ p, pte = some p ∧ e.checkGlb t .atomic acc = .ok p else pte = none) →
      e.atomicPoison t acc pte = none →
      ∃ b, exec i s = .next (s.setThread t b) ∧ Computed iss.pc noReg 0 noPred
        [.atomic acc (f.fn th) (if f.width = .w64 then th.pair f.b.toNat else (th.reg f.b.toNat).setWidth 64) f.scope f.d] th b) ∧
    (∀ s iss t th x, Single i s iss t th → th.choice.elide = some x → th.hold = .none → th.longs = [] →
      ∃ s' b, exec i s = .next s' ∧ s'.mem = s.mem ∧ s'.thread t = some b ∧ b.choice.elide = none ∧
        b.faults.finfo = 5#32 ∧ b.pc = BitVec.ofNat 56 (th.frame ((th.elideDepth 0).getD 1)).aux ∧
        (∀ u, u ≠ t → s'.thread u = s.thread u))

/-- A word of `n` bytes as two's complement. -/
def signedWord (n v : Nat) : Int := if v < 2 ^ (8 * n - 1) then v else (v : Int) - 2 ^ (8 * n)

/-- What an atomic leaves in the word it finds, and its flags (R192, R193, R195). -/
def ruleAtomic (f : AtomFn) (n old b : Nat) : Nat × Nat :=
  match f with
  | .op .add => ((old + b) % 2 ^ (8 * n), 0)
  | .op .minS => (if signedWord n old ≤ signedWord n b then old else b, 0)
  | .op .minN => (min old b, 0)
  | .op .maxS => (if signedWord n b ≤ signedWord n old then old else b, 0)
  | .op .maxN => (max old b, 0)
  | .op .and => (old &&& b, 0)
  | .op .or => (old ||| b, 0)
  | .op .xor => (old ^^^ b, 0)
  | .op .exch => (b, 0)
  | .op .fadd => ((faddWord (BitVec.ofNat 32 old) (BitVec.ofNat 32 b)).val.toNat, (faddWord (BitVec.ofNat 32 old) (BitVec.ofNat 32 b)).flags)
  | .op .fmin => ((fminmaxWord false (BitVec.ofNat 32 old) (BitVec.ofNat 32 b)).val.toNat, (fminmaxWord false (BitVec.ofNat 32 old) (BitVec.ofNat 32 b)).flags)
  | .op .fmax => ((fminmaxWord true (BitVec.ofNat 32 old) (BitVec.ofNat 32 b)).val.toNat, (fminmaxWord true (BitVec.ofNat 32 old) (BitVec.ofNat 32 b)).flags)
  | .cas e => (if old = e.toNat then b else old, 0)
  | .inc => (if b ≤ old then 0 else old + 1, 0)
  | .dec => (if old = 0 ∨ b < old then b else old - 1, 0)

/-- An outstanding atomic of a thread with nothing before it (R89, R104). -/
structure Performs (s : State) (t : Nat) (th : Thread) (o : Outstanding) (acc : Access) (fn : AtomFn) (operand : DWord)
    (scope : BitVec 3) (d : Option Reg) : Prop where
  table  : Tab.wf s.threads = true
  thread : s.thread t = some th
  found  : th.outstanding o.order = some o
  kind   : o.kind = .atomic acc fn operand scope d
  size   : acc.size = 4 ∨ acc.size = 8
  align  : acc.addr % acc.size = 0
  order  : th.mayPerform o acc false = true
  quiet  : th.psq = [] ∧ (s.core (coreOf t)).wtq = []
  hold   : ∀ f, th.hold ≠ .faulting f
  regs   : Sparse.wf th.regs = true
  watch  : ∀ u a, s.thread u = some a → a.watch = none

/-- The registers that an old word of `n` bytes goes to. -/
def oldWrites (n : Nat) (d : Option Reg) (old : Nat) : List (Nat × Word) :=
  match d with
  | none => []
  | some r => if n = 8 then [(r.toNat, BitVec.ofNat 32 old), (r.toNat + 1, BitVec.ofNat 32 (old / 2 ^ 32))]
    else [(r.toNat, BitVec.ofNat 32 old)]

/-- LONG_LATENCY_COMPLETE (R104, R128, R191 to R195). -/
def AtomicsReadAndWriteOnceClause : Prop :=
  (∀ s t th o acc fn operand scope d, Performs s t th o acc fn operand scope d →
    let arg := operand.toNat % 2 ^ (8 * acc.size)
    (acc.space = .scr ∨ acc.space = .clu ∨ acc.space = .lag → s.accessAbsent t acc none false = false →
      let b := s.bankOf (coreOf t) (s.partOf t) acc
      s.bankPoisoned b.1 b.2 acc.size = false → Memory.wf (s.bankMem b.1) = true →
      (acc.space = .scr → (s.gang acc.region).isSome = true) →
      s.affordsFor t (s.atomicCost t o.order acc none) = true →
      let old := Memory.readNat (s.bankMem b.1) b.2 acc.size
      ∃ s' a, exec (.longLatencyComplete t o.order) s = .next s' ∧ s'.thread t = some a ∧
        Finished o.order (oldWrites acc.size d old) (ruleAtomic fn acc.size old arg).2 th a ∧
        Memory.readNat (s'.bankMem b.1) b.2 acc.size = (ruleAtomic fn acc.size old arg).1 ∧
        (∀ x, x < b.2 ∨ b.2 + acc.size ≤ x → Memory.read (s'.bankMem b.1) x = Memory.read (s.bankMem b.1) x) ∧
        (∀ c, c ≠ b.1 → s'.bankMem c = s.bankMem c) ∧ s'.mem.dram = s.mem.dram) ∧
    (∀ pte, acc.space = .glb → s.accessAttrs t acc = some (some pte) → uncached pte = true → pteTier pte ≠ 2 →
      s.accessLocked t acc = false → s.accessAbsent t acc (some pte) false = false →
      s.linePoisoned (dramKey pte acc.addr) = false → s.lineUnscrubbed (dramKey pte acc.addr) = false →
      s.affordsFor t (s.atomicCost t o.order acc (some pte)) = true →
      s.inDomain pte (dramKey pte acc.addr) = true → NoMergeOnWake s →
      Memory.wf s.mem.dram = true → (∀ va x r, th.hold ≠ .wait (.cwait va x r)) →
      let key := dramKey pte acc.addr
      let old := Memory.readNat s.mem.dram key acc.size
      ∃ s' a, exec (.longLatencyComplete t o.order) s = .next s' ∧ s'.thread t = some a ∧
        Finished o.order (oldWrites acc.size d old) (ruleAtomic fn acc.size old arg).2 th a ∧
        Memory.readNat s'.mem.dram key acc.size = (ruleAtomic fn acc.size old arg).1 ∧
        ∀ x, x < key ∨ key + acc.size ≤ x → Memory.read s'.mem.dram x = Memory.read s.mem.dram x)) ∧
  (∀ (s : State) t th o ws f, s.thread t = some th → th.outstanding o.order = some o → o.kind = .result ws f →
    (∀ g, th.hold ≠ .faulting g) → Sparse.wf th.regs = true →
    ∃ b, exec (.longLatencyComplete t o.order) s = .next (s.setThread t b) ∧ Finished o.order ws f th b)

/-- The atomics (R192 to R195). -/
def Obligations.AtomicsStartAndPerform : Prop :=
  AtomicsStartOutstandingClause ∧ AtomicsReadAndWriteOnceClause

/-- The narrowest scope that holds an observer and a thread of another gang on a core (R95, R96). -/
def ruleScope (t core : Nat) : Nat :=
  if core / 8 = coreOf t / 8 then 2 else if core / 96 = coreOf t / 96 then 3 else 4

/-- An inspection has begun, whose targets are the threads that `target` names. -/
def InspBegins (i : Instr) (s : State) (iss : Issue) (t : Nat) (th : Thread) (d : Reg) (scope : Nat)
    (range : Option InspRange) (target : Nat → Prop) : Prop :=
  ∃ s' id q b, exec i s = .next s' ∧ Tab.get? s.insps id = none ∧ Tab.get? s'.insps id = some q ∧
    q.observer = t ∧ q.scope = scope ∧ q.range = range ∧ q.silent = false ∧ (∀ u, u ∈ q.todo ↔ target u ∧ u ≠ t) ∧
    (target t → q.reached = 1) ∧ (¬ target t → q.reached = 0 ∧ q.forced = 0) ∧
    (∀ e ∈ th.psq, e.tent = false → (t, e.seq) ∈ q.entries) ∧ s'.thread t = some b ∧
    Computed iss.pc noReg 0 noPred [.insp id d] { th with psq := b.psq } b ∧
    b.psq.map (fun e => { e with forced := true }) = th.psq.map (fun e => { e with forced := true }) ∧
    (∀ u, u ≠ t → s'.thread u = s.thread u) ∧ { s' with threads := s.threads, insps := s.insps } = s

/-- A thread or gang handle that R197 refuses. -/
def BadHandle (s : State) (t : Nat) (h : Word) : Prop :=
  h.toNat / 2 ^ 22 ≠ 0 ∨ 192 ≤ h.toNat / 32 % 256 ∨
    ¬ ((s.part (s.partOf t)).first ≤ h.toNat / 2 ^ 18 ∧
       h.toNat / 2 ^ 18 < (s.part (s.partOf t)).first + (s.part (s.partOf t)).size)

/-- INSP (R94 to R97, R196 to R198). -/
def InspectionsBeginClause : Prop :=
  (∀ h x s iss t th, Single (.inspT h x) s iss t th → ¬ BadHandle s t (th.reg x.a.toNat) →
    let u := (th.reg x.a.toNat).toNat
    s.isleAbsent (u / 2 ^ 18) = false →
    InspBegins (.inspT h x) s iss t th x.d
      (max x.scope.toNat (match s.thread u with
        | some b => if th.gang = b.gang then 1 else ruleScope t (coreOf b.gang)
        | none => ruleScope t (coreOf u))) none
      fun v => v = u) ∧
  (∀ h x s iss t th, Single (.inspG h x) s iss t th → ¬ BadHandle s t (th.reg x.a.toNat) →
    let u := (th.reg x.a.toNat).toNat
    u % 32 = 0 → s.isleAbsent (u / 2 ^ 18) = false →
    InspBegins (.inspG h x) s iss t th x.d
      (max x.scope.toNat (if (s.gang u).isSome = true ∧ th.gang = u then 1 else ruleScope t (coreOf u))) none
      fun v => ∃ b, s.thread v = some b ∧ b.gang = u) ∧
  (∀ h x s iss t th, Single (.inspB h x) s iss t th →
    let v := (th.reg x.a.toNat).toNat
    let isle := v / 2 ^ 13 % 16
    (s.part (s.partOf t)).holdsIsle isle = true → s.isleAbsent isle = false →
    let gangs := ((s.band (v % 2 ^ 17)).map (·.gangs)).getD []
    InspBegins (.inspB h x) s iss t th x.d
      (max x.scope.toNat (if gangs = [] then (if coreOf t / 96 = isle / 3 then 3 else 4)
        else (gangs.map fun g => if th.gang = g then 1 else ruleScope t (coreOf g)).foldl max 1)) none
      fun w => ∃ b, s.thread w = some b ∧ b.gang ∈ gangs) ∧
  (∀ h x s iss t th, Single (.inspA h x) s iss t th →
    let scope := if x.scope = 0#3 then 4 else x.scope.toNat
    let range := (s.inspRange t x.space (ruleBase th x.space (.reg x.a)) (th.b32 x.len).toNat).getD (x.space, 2 ^ 64, 0, 0)
    InspBegins (.inspA h x) s iss t th x.d scope (some range) fun u => ∃ a, s.thread u = some a ∧
      s.within t scope u = true ∧ (x.space = .glb → s.asidOf u = s.asidOf t) ∧ ∃ e ∈ a.psq, e.meets range = true) ∧
  (∀ h x s iss t th, Single (.inspS h x) s iss t th → ∃ s' id q b, exec (.inspS h x) s = .next s' ∧
    Tab.get? s.insps id = none ∧ Tab.get? s'.insps id = some q ∧ q.observer = t ∧ q.todo = [] ∧ q.entries = [] ∧
    q.range = none ∧ q.status = 0#32 ∧ s'.thread t = some b ∧ Computed iss.pc noReg 0 noPred [.insp id x.d] th b ∧
    (∀ u, u ≠ t → s'.thread u = s.thread u) ∧ { s' with threads := s.threads, insps := s.insps } = s) ∧
  (∀ h x, Raises (.inspT h x) (fun s t th _ => BadHandle s t (th.reg x.a.toNat)) 0x15 0 fun _ _ _ _ => 0) ∧
  (∀ h x, Raises (.inspG h x) (fun s t th _ => BadHandle s t (th.reg x.a.toNat) ∨ (th.reg x.a.toNat).toNat % 32 ≠ 0)
    0x15 0 fun _ _ _ _ => 0) ∧
  (∀ h x, Raises (.inspB h x) (fun s t th _ =>
    (s.part (s.partOf t)).holdsIsle ((th.reg x.a.toNat).toNat / 2 ^ 13 % 16) = false) 0x15 0 fun _ _ _ _ => 0)

/-- INSP_TARGET_CUT and INSP_COMPLETE (R97 to R101, R103). -/
def InspectionsCutAndEndClause : Prop :=
  (∀ (s : State) id q u, Tab.get? s.insps id = some q → u ∈ q.todo →
    (s.thread u = none → exec (.inspTargetCut id u) s = .next
      { s with insps := Tab.set s.insps id { q with todo := without q.todo u, reached := q.reached + bit q.range.isNone } }) ∧
    (∀ a, s.thread u = some a →
      let mine := a.psq.filter fun e => s.concerned q u e
      let out := mine.filter fun e => !e.tent
      let q' : Insp := { q with
        todo := without q.todo u, reached := q.reached + bit (q.range.isNone || !mine.isEmpty)
        forced := q.forced + (out.filter fun e => !e.forced).length
        tent := q.tent || mine.any (·.tent)
        entries := q.entries ++ out.map (fun e => (u, e.seq))
        cores := addOnce q.cores (coreOf u) }
      exec (.inspTargetCut id u) s = .next
        (({ s with insps := Tab.set s.insps id q' }).setThread u
          { a with psq := a.psq.map fun (e : PsqEntry) => if (out.map (fun (o : PsqEntry) => o.seq)).contains e.seq then { e with forced := true } else e }))) ∧
  (∀ (s : State) id q t th o d, Tab.get? s.insps id = some q → q.observer = t → q.todo = [] → q.entries = [] →
    s.thread t = some th → o ∈ th.longs → o.kind = .insp id d →
    (∀ y ∈ th.longs, y ≠ o → y.order ≠ o.order ∧ ∀ e, y.kind ≠ .insp id e) →
    (∀ f, th.hold ≠ .faulting f) → Sparse.wf th.regs = true →
    (2 ≤ q.scope ∨ q.engine = true → s.mem.updates = [] ∧ s.net.conns = [] ∧
      ∀ c, c = coreOf t ∨ c ∈ s.inspCores q → (s.core c).wtq = [] ∧ ∀ l ∈ (s.core c).l1, l.grant = 0#64) →
    ∃ s' b, exec (.inspComplete id) s = .next s' ∧ s'.thread t = some b ∧
      Finished o.order [(d.toNat, BitVec.ofNat 32 (bit q.tent * 2 ^ 31 + min q.reached 255 * 256 + min q.forced 255))] 0 th
        (if th.hold = .finishing (.inspecting id) then { b with hold := th.hold } else b) ∧
      Tab.get? s'.insps id = none ∧ ((∀ l ∈ (s.core (coreOf t)).l1, l.grant = 0#64) → s'.mem.dram = s.mem.dram) ∧
      (∀ u, u ≠ t → s'.thread u = s.thread u) ∧
      ∀ l ∈ (s'.core (coreOf t)).l1, l.owned = true ∨ s.inspLine q l = false)

/-- INSP and its steps (R95 to R103, R197). -/
def Obligations.InspectionsBeginCutAndEnd : Prop :=
  InspectionsBeginClause ∧ InspectionsCutAndEndClause

/-- The lines watched by other threads of a core (R199). -/
def WatchFull (s : State) (t : Nat) (sp : Space) (line : Nat) : Prop :=
  (sp, line) ∉ s.watchedLines (coreOf t) t ∧ 1024 ≤ (s.watchedLines (coreOf t) t).length

/-- MONITOR, MWAIT and MWAIT_TIMEOUT (R199, R200). -/
def Obligations.WatchesAreArmedAndWaitedFor : Prop :=
  (∀ h x s iss t th acc, Single (.monitor h x) s iss t th → x.space ≠ .glb →
    let e := s.entered (.monitor h x) t th iss
    e.checkAddr t x.space (ruleEa th x.space x.a x.off) 1 = .ok acc → e.affordsFor t (e.monitorCost t acc none) = true →
    let b := s.bankOf (coreOf t) (s.partOf t) acc
    ∃ a w, exec (.monitor h x) s = .next ((e.payFor t (e.monitorCost t acc none)).setThread t a) ∧ a.watch = some w ∧
      Computed iss.pc noReg 0 noPred [] { th with watch := a.watch } a ∧ w.space = x.space ∧ w.line = bankLine b.1 b.2 ∧
      w.events = (if s.bankPoisoned b.1 (b.2 / 64 * 64) 64 = true then [1] else []) ∧
      (w.overflow = true ↔ WatchFull s t x.space w.line)) ∧
  (∀ h x s iss t th acc pte, Single (.monitor h x) s iss t th → x.space = .glb →
    let e := s.entered (.monitor h x) t th iss
    e.checkAddr t .glb (ruleEa th .glb x.a x.off) 1 = .ok acc → e.checkGlb t .load acc = .ok pte →
    e.loadStalled t acc = false → e.loadRoom t acc (some pte) = true →
    e.affordsFor t (e.monitorCost t acc (some pte)) = true →
    ∃ s' a w, exec (.monitor h x) s = .next s' ∧ s'.thread t = some a ∧ a.pc = iss.pc + 12#56 ∧ a.watch = some w ∧
      w.space = .glb ∧ w.line = watchLine (s.part (s.partOf t)) (s.asidOf t) acc.addr pte ∧
      ((cacheable (s.part (s.partOf t)) (s.asidOf t) acc.addr pte = false ∨ s.l1Hit (coreOf t) (s.asidOf t) acc.addr = true) →
        s' = (e.payFor t (e.monitorCost t acc (some pte))).setThread t a ∧
        Computed iss.pc noReg 0 noPred [] { th with watch := a.watch } a ∧
        w.events = if s.poisonedAt (coreOf t) (s.partOf t) (s.asidOf t) acc.addr pte = true then [1] else [])) ∧
  (∀ h x s iss t th, Single (.mwait h x) s iss t th →
    ∃ b, exec (.mwait h x) s = .next (s.setThread t b) ∧
      match th.watch with
      | none => Computed iss.pc (put x.d.toNat 3#32) 0 noPred [] th b
      | some w =>
        if w.overflow = true then Computed iss.pc (put x.d.toNat 3#32) 0 noPred [] { th with watch := none } b
        else match w.events with
          | [] => Computed iss.pc noReg 0 noPred
              [.mwait x.d (if (th.b32 x.b).toNat = 0 then none else some (s.clock t + (th.b32 x.b).toNat))] th b
          | e :: es => Computed iss.pc (put x.d.toNat (BitVec.ofNat 32 (es.foldl min e))) 0 noPred []
              { th with watch := none } b) ∧
  (∀ (s : State) t th o d limit, s.thread t = some th → o ∈ th.longs → o.kind = .mwait d (some limit) →
    (∀ y ∈ th.longs, y ≠ o → y.order ≠ o.order ∧ ∀ e n, y.kind ≠ .mwait e n) → Sparse.wf th.regs = true →
    if limit ≤ s.clock t then
      ∃ b, exec (.mwaitTimeout t) s = .next ((s.setThread t b).dropMonitor t) ∧ b.watch = none ∧
        Finished o.order [(d.toNat, BitVec.ofNat 32 (th.lowestEvent 4))] 0 { th with watch := none } b
    else exec (.mwaitTimeout t) s = .next s) ∧
  (∀ (s : State) t th o d limit w, Tab.wf s.threads = true → s.thread t = some th → o ∈ th.longs → o.kind = .mwait d limit →
    (∀ y ∈ th.longs, y ≠ o → y.order ≠ o.order ∧ ∀ e n, y.kind ≠ .mwait e n) → Sparse.wf th.regs = true →
    th.watch = some w → w.events ≠ [] →
    ∃ b, s.settleWatches.thread t = some b ∧ b.watch = none ∧
      Finished o.order [(d.toNat, BitVec.ofNat 32 (w.events.foldl min 4))] 0 { th with watch := none } b)

/-- The bank and offset of an arrival object of a thread. -/
def objectSpot (s : State) (t : Nat) (acc : Access) : Bank × Nat := s.bankOf (coreOf t) (s.partOf t) acc

/-- An instruction's arrival object passes its checks (R184, R201). -/
def ObjectAt (i : Instr) (s : State) (iss : Issue) (t : Nat) (th : Thread) (sp : Space) (a : Reg) (acc : Access) : Prop :=
  (sp = .scr ∨ sp = .clu ∨ sp = .lag) ∧
  (s.entered i t th iss).checkAddr t sp (ruleEa th sp (.reg a) 0#32) 16 = .ok acc ∧
  Memory.wf (s.bankMem (objectSpot s t acc).1) = true ∧ (sp = .scr → (s.gang acc.region).isSome = true)

/-- BARA (R203). -/
def Obligations.BarrierArrives : Prop :=
  ∀ (h : Hdr) (x : BaraArgs),
    (∀ s iss t th acc, Single (.bara h x) s iss t th → ObjectAt (.bara h x) s iss t th x.space x.a acc → th.b32 x.n ≠ 0#32 →
      s.affordsFor t (s.accessCost t acc none false) = true →
      let b := objectSpot s t acc
      let m := s.bankMem b.1
      let n := (th.b32 x.n).toNat
      let count := Memory.readNat m b.2 4
      let remain := Memory.readNat m (b.2 + 4) 4
      let phase := Memory.readNat m (b.2 + 8) 3
      ∃ s' a, exec (.bara h x) s = .next s' ∧ s'.thread t = some a ∧
        a.reg x.d.toNat = BitVec.ofNat 32 (Memory.readNat m (b.2 + 8) 4) ∧ a.psq = th.psq ∧ a.flg = th.flg ∧
        a.pc = iss.pc + 12#56 ∧
        Memory.readNat (s'.bankMem b.1) (b.2 + 4) 4 = (if remain ≤ n then count else remain - n) ∧
        Memory.readNat (s'.bankMem b.1) (b.2 + 8) 3 = (if remain ≤ n then (phase + 1) % 2 ^ 24 else phase) ∧
        (∀ k, k < b.2 + 4 ∨ b.2 + 11 ≤ k → Memory.read (s'.bankMem b.1) k = Memory.read m k) ∧
        (∀ c, c ≠ b.1 → s'.bankMem c = s.bankMem c) ∧ s'.mem = s.mem) ∧
    Raises (.bara h x) (fun s t th _ => (∃ acc, s.checkAddr t x.space (ruleEa th x.space (.reg x.a) 0#32) 16 = .ok acc) ∧
      x.space ≠ .glb ∧ th.b32 x.n = 0#32) 0x06 0 fun _ _ th _ => ruleEa th x.space (.reg x.a) 0#32

/-- BARINIT, its completion, and BARW (R202, R204, R208). -/
def Obligations.BarriersInitialiseAndWait : Prop :=
  (∀ h x s iss t th acc, Single (.barinit h x) s iss t th → ObjectAt (.barinit h x) s iss t th x.space x.a acc → th.b32 x.n ≠ 0#32 →
    ∃ b, exec (.barinit h x) s = .next (s.setThread t b) ∧ Computed iss.pc noReg 0 noPred [] th b ∧
      b.hold = .finishing (.barinit acc (th.b32 x.n))) ∧
  (∀ h x, Raises (.barinit h x) (fun s t th _ => (∃ acc, s.checkAddr t x.space (ruleEa th x.space (.reg x.a) 0#32) 16 = .ok acc) ∧
    x.space ≠ .glb ∧ th.b32 x.n = 0#32) 0x06 0 fun _ _ th _ => ruleEa th x.space (.reg x.a) 0#32) ∧
  (∀ (s : State) t th g acc n, Tab.wf s.threads = true → s.thread t = some th → th.hold = .finishing (.barinit acc n) →
    (acc.space = .scr ∨ acc.space = .clu ∨ acc.space = .lag) → acc.addr % 16 = 0 → s.gang th.gang = some g →
    let b := objectSpot s t acc
    Memory.wf (s.bankMem b.1) = true → (acc.space = .scr → (s.gang acc.region).isSome = true) →
    ∃ s' a, exec (.stallingInstructionComplete t) s = .next s' ∧ s'.thread t = some a ∧ a.hold = .none ∧
      Memory.readNat (s'.bankMem b.1) b.2 16 = n.toNat + n.toNat * 2 ^ 32 ∧
      (∀ k, k < b.2 ∨ b.2 + 16 ≤ k → Memory.read (s'.bankMem b.1) k = Memory.read (s.bankMem b.1) k) ∧
      (∀ c, c ≠ b.1 → s'.bankMem c = s.bankMem c) ∧ s'.mem.dram = s.mem.dram ∧
      Tab.get? s'.mem.objects (objectKey b) = some (if acc.space = .scr then (1, th.gang) else (2, g.band % 2 ^ 17 + 2 ^ 27 * g.index))) ∧
  (∀ h x s iss t th acc, Single (.barw h x) s iss t th → ObjectAt (.barw h x) s iss t th x.space x.a acc →
    let m := s.bankMem (objectSpot s t acc).1
    let o := (objectSpot s t acc).2
    let moved := Memory.readNat m (o + 8) 3 ≠ (th.reg x.b.toNat).toNat % 2 ^ 24 ∨ Memory.readNat m (o + 11) 1 ≠ 0
    (moved → ∃ s' b, exec (.barw h x) s = .next s' ∧ s'.thread t = some b ∧ b.pc = iss.pc + 12#56 ∧
      b.reg x.d.toNat = BitVec.ofNat 32 (Memory.readNat m (o + 8) 4) ∧ (∀ r, r ≠ x.d.toNat → b.reg r = th.reg r) ∧
      ((∀ l ∈ (s.core (coreOf t)).l1, l.grant = 0#64) → s'.mem.dram = s.mem.dram) ∧
      (∀ l ∈ (s'.core (coreOf t)).l1, l.owned = true) ∧
      (x.target = .none → s'.insps = s.insps) ∧
      (x.target = .gang ∨ x.target = .band → ∃ id q, b.hold = .finishing (.inspecting id) ∧ Tab.get? s'.insps id = some q ∧
        q.observer = t ∧ q.silent = true)) ∧
    (¬ moved → ∃ s' b, exec (.barw h x) s = .next s' ∧ s'.thread t = some b ∧ b.pc = iss.pc ∧
      b.hold = .wait (.barw acc ((th.reg x.b.toNat).setWidth 24) x.d x.target x.scope) ∧ b.regs = th.regs ∧
      s'.mem = s.mem ∧ ∀ u, u ≠ t → s'.thread u = s.thread u))

/-- ELIDE (R205, R380). -/
def SectionOpensClause : Prop :=
  (∀ h x s iss t th acc pte, Single (.elide h x) s iss t th → th.inSection = false → th.cpd = 0 →
    let e := s.entered (.elide h x) t th iss
    e.checkAddr t .glb (th.pair x.a.toNat) 4 = .ok acc → e.checkGlb t .load acc = .ok pte → th.trp + 32 ≤ th.trl →
    cacheable (s.part (s.partOf t)) (s.asidOf t) acc.addr pte = true → BindsNow e t th acc pte → Memory.wf th.priv = true →
    ∃ s' b, exec (.elide h x) s = .next s' ∧ s'.thread t = some b ∧ b.pc = iss.pc + 12#56 ∧ b.cpd = 1 ∧ b.trp = th.trp ∧
      (∀ r, b.reg r = (put x.d.toNat (BitVec.ofNat 32 (bindRes e t th acc pte).value) r).getD (th.reg r)) ∧
      b.preds = th.preds ∧ b.flg = th.flg ∧ b.psq = th.psq ∧ b.choice.fser = th.choice.fser + 1#32 ∧
      (b.frame 1).kind = 1 ∧ (b.frame 1).ser = (th.choice.fser + 1#32).toNat ∧ (b.frame 1).trp0 = th.trp % 2 ^ 18 ∧
      (b.frame 1).aux = (ruleTarget iss.pc x.off).toNat ∧
      b.choice.elide = some { lock := s.asidOf t * 2 ^ 50 + acc.addr / 64,
                              marked := [s.asidOf t * 2 ^ 50 + acc.addr / 64] }) ∧
  (∀ h x s iss t th acc pte, Single (.elide h x) s iss t th → th.inSection = false → th.cpd = 0 →
    let e := s.entered (.elide h x) t th iss
    e.checkAddr t .glb (th.pair x.a.toNat) 4 = .ok acc → e.checkGlb t .load acc = .ok pte → th.trp + 32 ≤ th.trl →
    cacheable (s.part (s.partOf t)) (s.asidOf t) acc.addr pte = false → Memory.wf th.priv = true → th.trp < 2 ^ 18 →
    ∃ s' b, exec (.elide h x) s = .next s' ∧ s'.thread t = some b ∧ b.pc = ruleTarget iss.pc x.off ∧ b.cpd = 0 ∧
      b.trp = th.trp ∧ b.choice.elide = none ∧ b.faults.finfo = 2#32 ∧ b.regs = th.regs ∧ b.preds = th.preds ∧
      b.flg = th.flg ∧ s'.mem = s.mem) ∧
  (∀ h x s iss t th y d, Single (.elide h x) s iss t th → th.choice.elide = some y → th.elideDepth 0 = some d →
    ∃ s' b, exec (.elide h x) s = .next s' ∧ s'.thread t = some b ∧ b.pc = BitVec.ofNat 56 (th.frame d).aux ∧
      b.choice.elide = none ∧ b.choice.cpd = BitVec.ofNat 32 (d - 1) ∧
      b.faults = { th.faults with finfo := 7#32, inh := false } ∧ s'.mem = s.mem) ∧
  (∀ h x s iss t th, Single (.elide h x) s iss t th → th.inSection = false → th.cpd ≠ 0 →
    ∃ b, exec (.elide h x) s = .next (s.setThread t b) ∧ b.pc = ruleTarget iss.pc x.off ∧
      SameData { th with faults := { th.faults with finfo := 7#32 } } b) ∧
  (∀ h x, Raises (.elide h x) (fun s t th _ => th.inSection = false ∧ th.cpd = 0 ∧ th.trl < th.trp + 32 ∧
    ∃ acc pte, s.checkAddr t .glb (th.pair x.a.toNat) 4 = .ok acc ∧ s.checkGlb t .load acc = .ok pte) 0x0E 0
    fun _ _ _ _ => 0)

/-- A section may commit now: its earlier loads have ended and no store of the thread stands before it (R89), its lines have
their leaves and are unlocked (R63, R366), its homes are there (R394) with room (R280), no mark is lost (R207), and its
budget affords it (R268). -/
structure Commits (s : State) (t : Nat) (th : Thread) : Prop where
  table  : Tab.wf s.threads = true
  thread : s.thread t = some th
  hold   : th.hold = .finishing .elend
  frame  : (th.elideDepth 0).isSome = true
  loads  : ∀ o ∈ th.longs, o.holdsStores = false
  pages  : ∀ e ∈ th.tentative, s.entryLocked t e = false ∧ s.entryMapped t e = true
  homes  : s.commitAbsent t th = false
  older  : ∀ e ∈ th.psq, th.beforeCommit e = false
  queue  : s.queueBefore t th = false
  room   : s.commitRoom t (s.commitEntries t th) = true
  marks  : s.markLost t = false
  owned  : (s.ownLines t (s.commitEntries t th)).markLost t = false
  pays   : ∀ e ∈ th.tentative, (s.ownLines t (s.commitEntries t th)).affordsFor t
    ((s.ownLines t (s.commitEntries t th)).drainCost t e true) = true

/-- ELEND and its completion (R206). -/
def SectionCommitsClause : Prop :=
  (∀ h s iss t th d, Single (.elend h) s iss t th → th.elideDepth 0 = some d →
    ∃ b, exec (.elend h) s = .next (s.setThread t b) ∧ Computed iss.pc noReg 0 noPred [] th b ∧ b.hold = .finishing .elend) ∧
  (∀ h, Raises (.elend h) (fun _ _ th _ => th.elideDepth 0 = none) 0x0D 0 fun _ _ _ _ => 0) ∧
  (∀ (s : State) t th, Commits s t th →
    ∃ s' b, exec (.stallingInstructionComplete t) s = .next s' ∧ s'.thread t = some b ∧
      b.hold = (if s'.mirrorClear (fun u => u.writer == t) 4 (dieOf (coreOf t)) = true then .none else .finishing .elend) ∧
      b.cpd = 0 ∧ b.choice.trp = th.choice.trb ∧ b.choice.elide = none ∧ b.pc = th.pc ∧ b.regs = th.regs ∧
      b.preds = th.preds ∧ b.flg = th.flg ∧ (∀ e ∈ b.psq, e ∈ th.psq ∧ e.tent = false) ∧
      (th.tentative = [] → b.psq = th.psq ∧ s'.mem = s.mem)) ∧
  (∀ (s : State) t th, Tab.wf s.threads = true → s.thread t = some th → th.hold = .finishing .elend →
    (th.elideDepth 0).isSome = true → (∀ e ∈ th.tentative, s.entryLocked t e = false ∧ s.entryMapped t e = true) →
    s.commitAbsent t th = true → Deliverable s th →
    ∃ s', exec (.stallingInstructionComplete t) s = .next s' ∧ EnteredHandler s s' t th
      (ruleFaultRegs 0x1A th.last (th.pc - 12#56) th.opa th.opb 0 0))

/-- ELIDE_SECTION_FAIL (R207, R365, R380). -/
def SectionFailsClause : Prop :=
  (∀ (s : State) t th x reason d, s.thread t = some th → th.choice.elide = some x → th.hold ≠ .exited →
    th.elideDepth 0 = some d →
    ∃ s' b, exec (.elideSectionFail t reason) s = .next s' ∧ s'.thread t = some b ∧ b.choice.elide = none ∧
      b.choice.cpd = BitVec.ofNat 32 (d - 1) ∧ b.choice.trp = BitVec.ofNat 32 (th.frame d).trp0 ∧
      b.pc = BitVec.ofNat 56 (th.frame d).aux ∧ b.faults = { th.faults with finfo := BitVec.ofNat 32 reason, inh := false } ∧
      (∀ e ∈ b.psq, e.tent = true → e.seq ∈ ((th.tentative.take (th.frame d).mark).map (·.seq))) ∧
      (∀ e ∈ th.psq, e.tent = false → e ∈ b.psq) ∧ b.preds = th.preds ∧ b.flg = th.flg ∧
      (th.trp ≤ (th.frame d).trp0 → b.regs = th.regs ∧ b.priv = th.priv) ∧
      s'.mem = s.mem ∧ (∀ u, u ≠ t → s'.thread u = s.thread u)) ∧
  (∀ (s : State) t th reason, s.thread t = some th → th.choice.elide = none →
    exec (.elideSectionFail t reason) s = .next s)

/-- ELIDE, ELEND, its completion and ELIDE_SECTION_FAIL (R205 to R207, R380). -/
def Obligations.SectionsOpenCommitAndFail : Prop :=
  SectionOpensClause ∧ SectionCommitsClause ∧ SectionFailsClause

/-- The inspection of a request (R106, R107, R212). -/
def Obligations.ImplicitInspectionsForceFirst : Prop :=
  ∀ (s : State) t target scope, Tab.wf s.threads = true → s.inspectable t target scope = true →
    (∀ u a, s.thread u = some a → (a.psq.map (·.seq)).Nodup) →
    let s' := s.inspectFor t target scope
    (∀ u a, u ∈ s.inspected t target → s.thread u = some a → ∃ b, s'.thread u = some b ∧ b.psq = a.psq.filter (·.tent) ∧
      (s'.core (coreOf u)).wtq = [] ∧ (target = .none → ∀ l ∈ (s'.core (coreOf u)).l1, l.grant = 0#64)) ∧
    (∀ u a, u ∉ s.inspected t target → s.thread u = some a → ∃ b, s'.thread u = some b ∧ b.psq = a.psq) ∧
    (∀ u a, s.thread u = some a → a.watch = none → (∀ va v d, a.hold ≠ .wait (.cwait va v d)) →
      ∃ b, s'.thread u = some b ∧ b.regs = a.regs ∧ b.preds = a.preds ∧ b.flg = a.flg ∧ b.pc = a.pc ∧ b.hold = a.hold) ∧
    s'.reqs = s.reqs ∧ s'.insps = s.insps ∧ s'.bands = s.bands ∧ s'.msgs = s.msgs ∧ s'.crews = s.crews

/-- A request stands in its queue (R211, R213): a new entry with the given sink and work, and a token register pending
on it; nothing else of the state `s1` changes. -/
def InQueue (t op : Nat) (k : SinkRef) (body : ReqBody) (s1 s2 : State) : Prop :=
  ∃ id r, Tab.get? s1.reqs id = none ∧ s2.reqs = Tab.set s1.reqs id r ∧ r.thread = t ∧ r.core = coreOf t ∧ r.op = op ∧
    r.sink = k ∧ r.body = body ∧ r.done = [] ∧ r.started = [] ∧ r.lines = [] ∧ r.handed = [] ∧ r.declined = [] ∧ r.failed = [] ∧
    r.saved = false ∧ r.abort = none ∧
    { s2 with threads := s1.threads, reqs := s1.reqs } = s1 ∧ (∀ u, u ≠ t → s2.thread u = s1.thread u) ∧
    ∀ b, s1.thread t = some b → s2.thread t =
      some (if k.kind = .token then { b with tokens := Tab.set b.tokens k.reg.toNat (.pending id) } else b)

/-- A request of a ready thread is accepted with the given work. -/
def Accepts (i : Instr) (s : State) (iss : Issue) (t : Nat) (th : Thread) (op : Nat) (k : SinkRef) (target : InspTarget)
    (body : ReqBody) : Prop :=
  s.inspectable t target k.scope.toNat = true →
  (if op = 0xA1 then s.matrixRoom (coreOf t) else s.engineRoom (coreOf t) th.gang) = true →
    ∃ s2, exec i s = .next s2 ∧
      InQueue t op k body ((s.entered i t th iss).inspectFor t target k.scope.toNat) s2

/-- A sink of an instruction passes its checks, in a thread of a job (R213). -/
def SinkOk (s : State) (t : Nat) (th : Thread) (k : SinkRef) : Prop :=
  (s.jobOf t).isSome = true ∧ s.sinkFault (coreOf t) th.gang (s.partOf t) k = none

/-- A tile that an instruction names: in a slot of the thread's job, with the entry that it latches (R221, R222). -/
def TileNamed (i : Instr) (s : State) (iss : Issue) (t : Nat) (th : Thread) (slot : Nat) (d : BitVec 512) (image : DWord)
    (geom : Nat) : Prop :=
  s.tileOf (coreOf t) (((s.gangOf t).map (·.job)).getD 0) slot = some d ∧
    (s.entered i t th iss).tileFmt t (Tile.of d) = .ok image geom

/-- Acceptance (R210 to R228). -/
def Obligations.RequestsAreAccepted : Prop :=
  (∀ h (x : CopyArgs) s iss t th, Single (.copy h x) s iss t th → SinkOk s t th (th.sinkRef x.kind x.d x.sc) →
    let src := th.endAddr (endSpace x.ss) x.a
    let dst := th.endAddr (endSpace x.ds) x.b
    s.copyFault (coreOf t) th.gang (s.partOf t) (endSpace x.ss) (endSpace x.ds) src dst x.len.toNat = none →
    Accepts (.copy h x) s iss t th 0x90 (th.sinkRef x.kind x.d x.sc) x.target
      (.copy { src := src, dst := dst, ssp := endSpace x.ss, dsp := endSpace x.ds, len := x.len.toNat })) ∧
  (∀ h (x : KickArgs) s iss t th, Single (.kick h x) s iss t th → SinkOk s t th (th.sinkRef x.kind x.d x.sc) →
    let a := (th.reg x.a.toNat).toNat
    let n := (th.b32 x.n).toNat
    (s.spot (coreOf t) th.gang (s.partOf t) .scr a (32 * n)).isSome = true → a % 32 = 0 → 1 ≤ n → n ≤ 1024 →
    Accepts (.kick h x) s iss t th 0x91 (th.sinkRef x.kind x.d x.sc) x.target (.kick a n [])) ∧
  (∀ h (x : KickArgs), Raises (.kick h x) (fun s t th _ => SinkOk s t th (th.sinkRef x.kind x.d x.sc) ∧
    (s.spot (coreOf t) th.gang (s.partOf t) .scr (th.reg x.a.toNat).toNat 1).isSome = true ∧
    (th.reg x.a.toNat).toNat % 32 = 0 ∧ ((th.b32 x.n).toNat = 0 ∨ 1024 < (th.b32 x.n).toNat)) 0x06 0 fun _ _ _ _ => 0) ∧
  (∀ h (x : TilefArgs) s iss t th set d image geom, Single (.tilef h x) s iss t th →
    SinkOk s t th (th.sinkRef x.kind x.d x.sc) →
    let a := (th.reg x.a.toNat).toNat
    let off := (th.reg x.b.toNat).toNat
    let tile := Tile.of d
    s.coopSet t (a / 2 ^ 8 % 8) = some set → TileNamed (.tilef h x) s iss t th (a % 64) d image geom → tile.space ≠ 1 →
    (entryOf image).v = true → perLine image geom ≠ 0 → tile.strideOk image geom = true →
    off + 64 * ((tile.pcols + perLine image geom - 1) / perLine image geom) * tile.prows ≤ s.gangScratch th.gang →
    Accepts (.tilef h x) s iss t th 0x93 (th.sinkRef x.kind x.d x.sc) x.target
      (.tilef d image (BitVec.ofNat 2 geom) (set.map fun m => (coreOf m.2, m.2)) off)) ∧
  (∀ h (x : FabxArgs) s iss t th (red : Bool), Single (if red then .fabxRed h x else .fabxWr h x) s iss t th →
    SinkOk s t th (th.sinkRef x.kind x.d x.sc) →
    let src := th.endAddr (endSpace x.ss) x.a
    let dst := th.pair x.b.toNat
    s.copyFault (coreOf t) th.gang (s.partOf t) (endSpace x.ss) .glb src dst x.len.toNat = none →
    Accepts (if red then .fabxRed h x else .fabxWr h x) s iss t th 0x95 (th.sinkRef x.kind x.d x.sc) x.target
      (.fabx { src := src, dst := dst, ssp := endSpace x.ss, dsp := .glb, len := x.len.toNat } red none 0)) ∧
  (∀ h (x : MloadbArgs) s iss t th set d image geom, Single (.mloadb h x) s iss t th →
    SinkOk s t th (th.sinkRef x.kind x.d x.sc) →
    let a := (th.reg x.a.toNat).toNat
    let b := (th.reg x.b.toNat).toNat
    let k := x.k.toNat
    let tile := Tile.of d
    a < 2 ^ 15 → k % 32 = 0 → 32 ≤ k → k ≤ 4096 → s.coopSet t (a / 2 ^ 12 % 8) = some set →
    TileNamed (.mloadb h x) s iss t th (a % 64) d image geom → a / 2 ^ 6 % 64 + (k + 63) / 64 ≤ 64 → b % 2 ^ 16 + k ≤ tile.prows →
    b / 2 ^ 16 + 32 * 2 ^ (a / 2 ^ 12 % 8) ≤ tile.pcols → tile.strideOk image geom = true → (entryOf image).v = true →
    (entryOf image).width ≤ 16 → (entryOf image).blk ≠ 1 → (s.part (s.partOf t)).bring = false →
    Accepts (.mloadb h x) s iss t th 0xA1 (th.sinkRef x.kind x.d x.sc) x.target
      (.mloadb d image (BitVec.ofNat 2 geom) (set.map fun m => (m.1, coreOf m.2)) (a / 2 ^ 6 % 64) (b % 2 ^ 16) (b / 2 ^ 16) k)) ∧
  (∀ h (x : MmaArgs) s iss t th acc set d image0 geom, Single (.mma h x) s iss t th →
    let k := th.sinkRef x.kind x.d x.sc
    let e := s.entered (.mma h x) t th iss
    SinkOk s t th k → e.checkAddr t .scr ((th.reg x.a.toNat).setWidth 64) 64 = .ok acc →
    s.inspectable t x.target k.scope.toNat = true → s.matrixRoom (coreOf t) = true →
    let s1 := e.inspectFor t x.target k.scope.toNat
    let block := BitVec.ofNat 512 (Memory.readNat (s1.bankMem (.scr acc.region)) acc.addr 64)
    let m : MmaJob := { block := block, tile := d, image := if bitOf block 31 then s1.imageOf t (block.toNat / 2 ^ 32 % 32) else image0,
                        geom := BitVec.ofNat 2 geom, insp := none, kb := 0, row := 0, flags := 0, bad := none, free := [],
                        cores := (set.filter fun y => decide (y.1 < block.toNat / 2 ^ 12 % 32 + 1)).map fun y => coreOf y.2 }
    s1.coopSet t m.setCode = some set → m.shape true = none →
    s1.tileOf (coreOf t) (((s1.gangOf t).map (·.job)).getD 0) m.slot = some d → s1.tileFmt t (Tile.of d) = .ok image0 geom →
    s1.writerBad t (block.toNat / 2 ^ 128 % 4) (BitVec.ofNat 32 (block.toNat / 2 ^ 160)) = false → block.toNat / 2 ^ 130 % 8 < 6 →
    m.arow + m.mRows ≤ (Tile.of d).prows → m.kLen ≤ (Tile.of d).pcols → s1.mmaFault t m (Tile.of d) m.cores.length = none →
    ∃ (s2 : State) (id : Nat) (r : Request) (b : Thread) (q : Option Nat), exec (.mma h x) s = .next s2 ∧ Tab.get? s1.reqs id = none ∧
      s2.reqs = Tab.set s1.reqs id r ∧ r.thread = t ∧ r.op = 0xA0 ∧ r.sink = k ∧ r.body = .mma { m with insp := q } ∧
      r.done = [] ∧ r.saved = false ∧ s2.thread t = some b ∧ (∀ c, s1.thread t = some c → b.regs = c.regs ∧ b.pc = c.pc) ∧
      (k.kind = .token → Tab.get? b.tokens k.reg.toNat = some (.pending id)) ∧
      (q = none ↔ block.toNat / 2 ^ 128 % 4 = 0) ∧
      (∀ n y, q = some n → Tab.get? s2.insps n = some y → y.observer = t ∧ y.silent = true) ∧
      ∀ c ∈ m.cores, ∃ u ∈ (s2.core c).unseen, u.req = id ∧ u.first = m.abase ∧ u.rows = m.mRows ∧ u.done = false ∧ u.seen = [])

/-- A row of accumulators that an MMA writes whose completion the thread has not observed (R230). -/
def RowUnseen (s : State) (t row : Nat) : Prop :=
  ∃ u ∈ (s.core (coreOf t)).unseen, t ∉ u.seen ∧ u.first ≤ row ∧ row < u.first + u.rows

/-- The elements `lo` to `hi - 1` of the accumulator memory of a thread's core receive `v` and lose their poison; the
thread goes on, and nothing else changes (R230, R386). -/
def AccWritten (i : Instr) (s : State) (iss : Issue) (t : Nat) (th : Thread) (lo hi : Nat) (v : Word) : Prop :=
  ∃ c b, exec i s = .next ((s.setCore (coreOf t) c).setThread t b) ∧ Computed iss.pc noReg 0 noPred [] th b ∧
    { c with acc := (s.core (coreOf t)).acc, accPoison := (s.core (coreOf t)).accPoison } = s.core (coreOf t) ∧
    (∀ n, Sparse.get c.acc n = if lo ≤ n ∧ n < hi then v else Sparse.get (s.core (coreOf t)).acc n) ∧
    (∀ n, n ∈ c.accPoison ↔ n ∈ (s.core (coreOf t)).accPoison ∧ ¬ (lo ≤ n ∧ n < hi))

/-- TILEH, CWAIT, MREAD, MWRITE, MZERO (R219, R221, R230). -/
def Obligations.TilesCountersAndAccumulators : Prop :=
  (∀ h (x : TilehArgs) s iss t th g acc, Single (.tileh h x) s iss t th → s.gangOf t = some g →
    let e := s.entered (.tileh h x) t th iss
    e.checkAddr t .scr ((th.reg x.a.toNat).setWidth 64) 64 = .ok acc →
    (∀ y, Tab.get? (s.core (coreOf t)).tiles x.slot.toNat = some y → y.job = g.job ∨ s.jobOnCore (coreOf t) y.job = false) →
    (e.loadNow t acc none false).poison = none →
    let d := BitVec.ofNat 512 (e.loadNow t acc none false).value
    tileOffence d = none →
    ∃ b, exec (.tileh h x) s = .next ((s.setCore (coreOf t) { s.core (coreOf t) with
        tiles := Tab.set (s.core (coreOf t)).tiles x.slot.toNat { desc := d, job := g.job } }).setThread t b) ∧
      Computed iss.pc noReg 0 noPred [] th b) ∧
  (∀ h (x : Pair3Args) s iss t th acc pte, Single (.cwait h x) s iss t th →
    let e := s.entered (.cwait h x) t th iss
    let cost := e.accessCost t acc (some pte) false
    let home := (s.part (s.partOf t)).primaryDie
    e.checkAddr t .glb (th.pair x.a.toNat) 8 = .ok acc → e.checkGlb t .load acc = .ok pte →
    e.sliceRoom (s.part (s.partOf t)) (s.asidOf t) acc.addr pte (lineMask (acc.addr % 64) 8) home none = true →
    e.affordsFor t cost = true →
    let r := (e.payFor t cost).homeLine (s.partOf t) (s.asidOf t) acc.addr pte (lineMask (acc.addr % 64) 8) home none
    r.poison = false →
    let v := r.data.toNat / 2 ^ (8 * (acc.addr % 64)) % 2 ^ 64
    ∃ s' b, exec (.cwait h x) s = .next s' ∧ s'.thread t = some b ∧
      (if (th.pair x.b.toNat).toNat ≤ v then
        b.pc = iss.pc + 12#56 ∧ (∀ n, b.reg n = (putPair x.d (BitVec.ofNat 64 v) n).getD (th.reg n)) ∧
        ∀ l ∈ (s'.core (coreOf t)).l1, l.owned = true
      else b.pc = iss.pc ∧ b.hold = .wait (.cwait acc.addr (th.pair x.b.toNat) x.d) ∧ b.regs = th.regs) ∧
      (uncached pte = true → pteTier pte ≠ 2 → s.lineUnscrubbed (dramKey pte acc.addr) = false →
        s.inDomain pte (dramKey pte acc.addr) = true →
        v = Memory.readNat s.mem.dram (dramKey pte acc.addr) 8)) ∧
  (∀ h (x : AccArgs), ComputesIf (.mread h x)
    (fun s t => ∀ a, s.thread t = some a → (a.a32 x.a).toNat + x.off.toNat < 65536 ∧
      ¬ RowUnseen s t (((a.a32 x.a).toNat + x.off.toNat) / 32) ∧
      (a.a32 x.a).toNat + x.off.toNat ∉ (s.core (coreOf t)).accPoison)
    (fun s t a => put x.d.toNat (Sparse.get (s.core (coreOf t)).acc ((a.a32 x.a).toNat + x.off.toNat)))
    (fun _ _ _ => 0) (fun _ _ _ => noPred) fun _ _ _ => []) ∧
  (∀ h (x : AccArgs) s iss t th, Single (.mread h x) s iss t th → (th.a32 x.a).toNat + x.off.toNat < 65536 →
    RowUnseen s t (((th.a32 x.a).toNat + x.off.toNat) / 32) →
    ∃ b, exec (.mread h x) s =
        .next ({ s with sched := { s.sched with free := s.sched.free + 1 } }.setThread t b) ∧
      Computed iss.pc (put x.d.toNat (Config.freeWord s.sched.free)) 0 noPred [] th b) ∧
  (∀ h (x : AccArgs) s iss t th, Single (.mwrite h x) s iss t th → (th.a32 x.a).toNat + x.off.toNat < 65536 →
    Sparse.wf (s.core (coreOf t)).acc = true →
    let n := (th.a32 x.a).toNat + x.off.toNat
    AccWritten (.mwrite h x) s iss t th n (n + 1) (th.reg x.d.toNat)) ∧
  (∀ h (x : MzeroArgs) s iss t th, Single (.mzero h x) s iss t th → 1 ≤ x.n.toNat → (th.a32 x.a).toNat + x.n.toNat ≤ 2048 →
    Sparse.wf (s.core (coreOf t)).acc = true →
    AccWritten (.mzero h x) s iss t th (32 * (th.a32 x.a).toNat) (32 * ((th.a32 x.a).toNat + x.n.toNat)) 0#32) ∧
  (∀ h (x : AccArgs), Raises (.mread h x) (fun _ _ th _ => 65536 ≤ (th.a32 x.a).toNat + x.off.toNat) 0x06 0
    fun _ _ _ _ => 0) ∧
  (∀ h (x : AccArgs), Raises (.mwrite h x) (fun _ _ th _ => 65536 ≤ (th.a32 x.a).toNat + x.off.toNat) 0x06 0
    fun _ _ _ _ => 0) ∧
  (∀ h (x : MzeroArgs), Raises (.mzero h x) (fun _ _ th _ => x.n.toNat = 0 ∨ 2048 < (th.a32 x.a).toNat + x.n.toNat) 0x06 0
    fun _ _ _ _ => 0)

/-- A request that an engine may work on. -/
def Working (s : State) (id : Nat) (r : Request) : Prop :=
  s.request id = some r ∧ r.saved = false ∧ (s.part r.part).halting = none

/-- A request completes into a token register: the status is written, the token is complete and the entry is free. -/
def TokenDone (s s' : State) (id : Nat) (r : Request) (status : Word) : Prop :=
  s'.request id = none ∧ (∀ n, n ≠ id → s'.request n = s.request n) ∧
    ∀ a, s.thread r.thread = some a → Tab.get? a.tokens r.sink.reg.toNat = some (.pending id) → Sparse.wf a.regs = true →
      ∃ b, s'.thread r.thread = some b ∧ Tab.get? b.tokens r.sink.reg.toNat = some .done ∧ b.reg r.sink.reg.toNat = status

/-- COPY_BLOCK, REQUEST_COMPLETE, KICK_ITEM_COMPLETE, MLOADB_COMPLETE, MMA_K_BLOCK, MMA_COMPLETE (R214, R217, R218,
R225, R228). -/
def Obligations.EnginesWork : Prop :=
  (∀ (s : State) id r c b1 o1 b2 o2, Working s id r → r.body = .copy c → r.done = [] → r.started = [] → r.lines = [] →
    s.mayCopy r 0 = true → s.mayPay r ((s.gatherCost r c.ssp c.src.toNat c.len).add (s.endCost r c.dsp c.dst.toNat)) = true →
    c.ssp ≠ .glb → c.dsp ≠ .glb → 1 ≤ c.len → c.src.toNat % 64 + c.len ≤ 64 → c.dst.toNat % 64 + c.len ≤ 64 →
    s.spot r.core r.gang r.part c.ssp c.src.toNat c.len = some (b1, o1) → s.isleAbsent b1.isle = false →
    s.spot r.core r.gang r.part c.dsp c.dst.toNat c.len = some (b2, o2) → s.isleAbsent b2.isle = false →
    s.bankPoisoned b1 o1 c.len = false → Memory.wf (s.bankMem b2) = true →
    ∃ s', exec (.copyBlock id 0) s = .next s' ∧ s'.request id = some { r with done := [0] } ∧ s'.mem = s.mem ∧
      (∀ a, Memory.read (s'.bankMem b2) a =
        if o2 ≤ a ∧ a < o2 + c.len then Memory.read (s.bankMem b1) (o1 + (a - o2)) else Memory.read (s.bankMem b2) a) ∧
      ∀ b, b ≠ b2 → s'.bankMem b = s.bankMem b) ∧
  (∀ (s : State) id r c, s.request id = some r → r.saved = false → r.body = .copy c → r.piecesDone 0 c.pieces = true →
    s.unacked id = false → r.sink.kind = .token → s.mem.updates = [] →
    ∃ s', exec (.requestComplete id) s = .next s' ∧ TokenDone s s' id r (r.statusOf 0 c.lines) ∧
      (r.failed = [] → r.statusOf 0 c.lines = 0#32) ∧
      { s' with reqs := s.reqs, threads := s.threads } = s ∧ (∀ u, u ≠ r.thread → s'.thread u = s.thread u)) ∧
  (∀ (s : State) id r list count items i (x : KickItem), s.request id = some r → r.body = .kick list count items →
    items[i]? = some x → x.done = none → x.sink = none → s.unacked id = false →
    x.bad = true ∨ r.piecesDone (i * 2 ^ 20) x.copy.pieces = true →
    let status := if x.bad = true then BitVec.ofNat 32 (4 + 256 * i) else r.statusOf (i * 2 ^ 26) x.copy.lines
    ∃ s', exec (.kickItemComplete id i) s = .next s' ∧ { s' with reqs := s.reqs } = s ∧
      s'.request id = some { r with body := .kick list count (items.set i { x with done := some status }) } ∧
      ∀ n, n ≠ id → s'.request n = s.request n) ∧
  (∀ (s : State) id r desc image geom cores mb k0 c0 k, Working s id r →
    r.body = .mloadb desc image geom cores mb k0 c0 k → s.matrixTurn id r.body = true → r.sink.kind = .token →
    r.lines = [] → r.failed = [] → let w := (s.loadMacros id r desc image geom cores mb k0 c0 k 0 none).1
    w.wait = false → w.after.mem.updates = [] → (cores.map (·.2)).Nodup → Tab.wf s.threads = true →
    ∃ s' status, exec (.mloadbComplete id) s = .next s' ∧ TokenDone s s' id r status ∧
      ∀ j c i, (j, c) ∈ cores → i < (k + 63) / 64 → ∃ m, Tab.get? (s'.core c).macros (mb + i) = some m ∧
        m.image = image ∧ m.desc = desc ∧ m.k0 = k0 ∧ m.c0 = c0 ∧ m.member = j ∧ m.row0 = 64 * i ∧
        m.rows = min 64 (k - 64 * i)) ∧
  (∀ (s : State) id r m, Working s id r → r.body = .mma m → m.kb < m.kLen / 32 → s.matrixTurn id r.body = true →
    s.writersDone m = true → m.cores.Nodup →
    let x := Tile.of m.tile
    let per := perLine m.image m.geom.toNat
    ∃ s' r' m', exec (.mmaKBlock id) s = .next s' ∧ s'.request id = some r' ∧ r'.body = .mma m' ∧
      (m'.kb = m.kb + 1 ∧ m'.row = 0 ∨ m'.kb = m.kb ∧ m.row ≤ m'.row) ∧ m'.block = m.block ∧ m'.tile = m.tile ∧ m'.cores = m.cores ∧
      (x.place ≠ .glb → r' = { r with body := .mma m' } ∧ s'.threads = s.threads ∧ s'.mem = s.mem) ∧
      (x.place ≠ .glb → m.row = 0 → (∀ row, s.rowCost r x per row (32 * m.kb) 32 = Budget.none) →
        m'.kb = m.kb + 1 ∧ m'.row = 0 ∧
        (m.cplx = false → ∀ c row n, c ∈ m.cores → row < m.mRows → n < 32 →
          (c, row) ∉ m.free → s.macroBad m c = false → Sparse.wf (s.core c).acc = true →
          (m.kb = 0 ∧ m.acc = false ∨ ∀ k ∈ (s.core c).accPoison, k / 32 ≠ m.abase + row) →
          let l := s.tileLines id r x per (m.arow + row) (32 * m.kb) 32
          l.refused = false → l.poison = false →
          Sparse.get (s'.core c).acc (32 * (m.abase + row) + n) = BitVec.ofNat 32
            (m.block1 (if m.kb = 0 ∧ m.acc = false then 0 else (Sparse.get (s.core c).acc (32 * (m.abase + row) + n)).toNat)
              (l.elems x (entryOf m.image) per (m.arow + row) (32 * m.kb) 32)
              ((List.range 32).map fun i =>
                (s.blockMacro m c i).bind fun (y : Macro) => y.elem ((32 * m.kb + i) % 64) n)).val))) ∧
  (∀ (s : State) id r m, s.request id = some r → r.saved = false → r.body = .mma m → m.kLen / 32 ≤ m.kb →
    r.sink.kind = .token → s.mem.updates = [] → Tab.wf s.threads = true →
    (∀ g, s.gang r.gang = some g → Memory.wf g.scratch = true) →
    ∃ s', exec (.mmaComplete id) s = .next s' ∧ s'.request id = none ∧
      (∀ a, s.thread r.thread = some a → a.watch = none → Sparse.wf a.regs = true → Tab.get? a.tokens r.sink.reg.toNat = some (.pending id) →
        ∃ b, s'.thread r.thread = some b ∧ Tab.get? b.tokens r.sink.reg.toNat = some .done ∧
          b.reg r.sink.reg.toNat = BitVec.ofNat 32 (m.bad.getD 0)) ∧
      ((s.gang r.gang).isSome = true → bitOf m.block 96 = true → m.flags < 2 ^ 32 →
        Memory.readNat (s'.bankMem (.scr r.gang)) (m.block.toNat / 2 ^ 97 % 2 ^ 19) 4 = m.flags) ∧
      ∀ c ∈ m.cores, ∀ u ∈ (s'.core c).unseen, u.req = id → u.done = true)

/-- A pipe that a thread may use, with its ring at a 64-byte boundary of a cluster or the Lagoon (R34, R231). -/
def PipeAt (s : State) (t p : Nat) (u : PipeUse) (stage : Nat) : Prop :=
  s.pipeOf t p = some u ∧ u.gang.index = stage ∧ (u.pipe.space = .clu ∨ u.pipe.space = .lag) ∧ u.pipe.base % 64 = 0

/-- A byte of ring entry `n`. -/
def ringByte (s : State) (u : PipeUse) (n : Word) (j : Nat) : Byte :=
  let b := s.entrySpot u n (j / 16)
  Memory.read (s.bankMem b.1) (b.2 + j % 16)

/-- QPUT, QGET, QCOUNT (R231). -/
def Obligations.PipesMoveEntries : Prop :=
  (∀ h (x : QputArgs) s iss t th u, Single (.qput h x) s iss t th → PipeAt s t x.pipe.toNat u u.pipe.prod →
    let target : InspTarget := if x.g then .gang else .none
    let ea := (th.reg x.a.toNat).toNat
    s.entryFault t th u (BitVec.ofNat 64 ea) = none → s.inspectable t target (if u.pipe.space = .clu then 2 else 4) = true →
    let s1 := (s.entered (.qput h x) t th iss).inspectFor t target (if u.pipe.space = .clu then 2 else 4)
    (∀ b, Memory.wf (s1.bankMem b) = true) → s1.affordsFor t (s1.pipeCost t u) = true →
    ∃ s' b, exec (.qput h x) s = .next s' ∧ s'.thread t = some b ∧
      if (s1.pipeTail u - s1.pipeHead u).toNat < u.pipe.depth then
        s'.pipeTail u = s1.pipeTail u + 1#32 ∧ s'.pipeHead u = s1.pipeHead u ∧
        (∀ j, j < 16 * u.pipe.esize →
          ringByte s' u (s1.pipeTail u) j = Memory.read (s1.bankMem (.scr th.gang)) (ea % 2 ^ 19 + j)) ∧
        b.pc = iss.pc + 12#56 ∧ b.reg x.d.toNat = s1.pipeTail u ∧ (∀ n, n ≠ x.d.toNat → b.reg n = th.reg n)
      else s'.mem = s1.mem ∧ (∀ c, s'.bankMem c = s1.bankMem c) ∧ b.pc = iss.pc ∧
        b.hold = .wait (.qput x.pipe.toNat (ea % 2 ^ 19) x.d) ∧ b.regs = th.regs) ∧
  (∀ h (x : QgetArgs) s iss t th u, Single (.qget h x) s iss t th → PipeAt s t x.pipe.toNat u u.pipe.cons →
    let ea := (th.reg x.a.toNat).toNat
    s.entryFault t th u (BitVec.ofNat 64 ea) = none → s.inspectable t .none (if u.pipe.space = .clu then 2 else 4) = true →
    let s1 := (s.entered (.qget h x) t th iss).inspectFor t .none (if u.pipe.space = .clu then 2 else 4)
    (∀ b, Memory.wf (s1.bankMem b) = true) → s1.affordsFor t (s1.pipeCost t u) = true →
    ∃ s' b, exec (.qget h x) s = .next s' ∧ s'.thread t = some b ∧
      if s1.pipeTail u ≠ s1.pipeHead u then
        s'.pipeHead u = s1.pipeHead u + 1#32 ∧ s'.pipeTail u = s1.pipeTail u ∧
        (∀ j, j < 16 * u.pipe.esize →
          Memory.read (s'.bankMem (.scr th.gang)) (ea % 2 ^ 19 + j) = ringByte s1 u (s1.pipeHead u) j) ∧
        b.pc = iss.pc + 12#56 ∧ b.reg x.d.toNat = s1.pipeHead u ∧ (∀ n, n ≠ x.d.toNat → b.reg n = th.reg n) ∧
        ∀ l ∈ (s'.core (coreOf t)).l1, l.owned = true
      else s'.mem = s1.mem ∧ (∀ c, s'.bankMem c = s1.bankMem c) ∧ b.pc = iss.pc ∧
        b.hold = .wait (.qget x.pipe.toNat (ea % 2 ^ 19) x.d) ∧ b.regs = th.regs) ∧
  (∀ h (x : QcountArgs), ComputesIf (.qcount h x) (fun s t => (s.pipeOf t x.pipe.toNat).isSome = true)
    (fun s t _ => match s.pipeOf t x.pipe.toNat with
      | some u => put x.d.toNat (s.pipeTail u - s.pipeHead u)
      | none => noReg) (fun _ _ _ => 0) (fun _ _ _ => noPred) fun _ _ _ => []) ∧
  (∀ h (x : QputArgs), Raises (.qput h x) (fun s t _ _ => ∀ u, s.pipeOf t x.pipe.toNat = some u → u.gang.index ≠ u.pipe.prod)
    0x17 0 fun _ _ _ _ => 0) ∧
  (∀ h (x : QgetArgs), Raises (.qget h x) (fun s t _ _ => ∀ u, s.pipeOf t x.pipe.toNat = some u → u.gang.index ≠ u.pipe.cons)
    0x17 0 fun _ _ _ _ => 0) ∧
  (∀ h (x : QcountArgs), Raises (.qcount h x) (fun s t _ _ => s.pipeOf t x.pipe.toNat = none) 0x17 0 fun _ _ _ _ => 0)

/-- A receive completed by a message: the bytes that fit stand in its buffer, and the message's source core, length and
tag are noted (R233). -/
def ReceivedBy (s s' : State) (core k : Nat) (r : Receive) (m : Message) : Prop :=
  Tab.get? (s'.core core).posted k = some { r with done := some (coreOf m.sender, m.bytes.length, m.tag.toNat) } ∧
    ∀ g, s.regionOf m.dst r.buffer = some g → (s.gang g).isSome = true → Memory.wf (s.bankMem (.scr g)) = true →
      ∀ i, Memory.read (s'.bankMem (.scr g)) (r.buffer % 2 ^ 19 + i) =
        if i < min m.bytes.length r.size then m.bytes.getD i 0#8
        else Memory.read (s.bankMem (.scr g)) (r.buffer % 2 ^ 19 + i)

/-- MSEND, MESSAGE_ARRIVAL, MSEND_ANSWER, MPOST, MTEST (R232 to R234). -/
def Obligations.MessagesAreSentMatchedAndTaken : Prop :=
  (∀ h (x : MsendArgs) s iss t th b off, Single (.msend h x) s iss t th → 1 ≤ x.len.toNat → x.len.toNat ≤ 256 →
    s.spot (coreOf t) th.gang (s.partOf t) .scr (th.reg x.a.toNat).toNat x.len.toNat = some (b, off) →
    s.badGang t (th.reg x.b.toNat) = false → s.inspectable t .none 4 = true →
    let cost := flitCost 2 (dieOf (coreOf t)) (dieOf (coreOf (th.reg x.b.toNat).toNat))
    s.affordsFor t cost = true →
    let s1 := ((s.entered (.msend h x) t th iss).payFor t cost).inspectFor t .none 4
    ∃ (s2 : State) (id : Nat), exec (.msend h x) s = .next s2 ∧ Tab.get? s1.msgs id = none ∧
      s2.msgs = Tab.set s1.msgs id
        { sender := t, dst := (th.reg x.b.toNat).toNat, tag := x.tag, status := none, reg := x.d, order := id
          bytes := (List.range x.len.toNat).map fun i => Memory.read (s1.bankMem b) (off + i) } ∧
      { s2 with msgs := s1.msgs, threads := s1.threads } = s1 ∧ (∀ u, u ≠ t → s2.thread u = s1.thread u) ∧
      ∀ a, s1.thread t = some a →
        s2.thread t = some { a with tokens := Tab.set a.tokens x.d.toNat (.pending (2 ^ 40 + id)) }) ∧
  (∀ h (x : MsendArgs), Raises (.msend h x) (fun _ _ _ _ => x.len.toNat = 0 ∨ 256 < x.len.toNat) 0x06 0 fun _ _ _ _ => 0) ∧
  (∀ (s : State) id m g, Tab.get? s.msgs id = some m → m.status = none → s.gang m.dst = some g →
    s.messageBehind m = false → Tab.wf (s.core (coreOf m.dst)).posted = true →
    let core := coreOf m.dst
    ∃ s', exec (.messageArrival id) s = .next s' ∧ s'.mem = s.mem ∧
      match (s.core core).receiver m with
      | some k => ∃ r, Tab.get? (s.core core).posted k = some r ∧ r.takes m = true ∧
          (∀ j y, Tab.get? (s.core core).posted j = some y → y.takes m = true → r.order ≤ y.order) ∧
          ReceivedBy s s' core k r m ∧ Tab.get? s'.msgs id = some { m with status := some true }
      | none => (∀ j y, Tab.get? (s.core core).posted j = some y → y.takes m = false) ∧
          if (s.core core).overflow.length < 64 then
            (s'.core core).overflow = (s.core core).overflow ++ [m] ∧ s'.threads = s.threads ∧
              Tab.get? s'.msgs id = some { m with status := some true }
          else s'.cores = s.cores ∧ Tab.get? s'.msgs id = some { m with status := some false }) ∧
  (∀ (s : State) id m ok th, Tab.get? s.msgs id = some m → m.status = some ok → s.thread m.sender = some th →
    Sparse.wf th.regs = true → Tab.get? th.tokens m.reg.toNat = some (.pending (2 ^ 40 + id)) →
    ∃ b, exec (.msendAnswer id) s = .next ({ s with msgs := Tab.erase s.msgs id }.setThread m.sender b) ∧
      (∀ n, b.reg n = if n = m.reg.toNat then (if ok then 0#32 else 1#32) else th.reg n) ∧
      b.tokens = Tab.erase th.tokens m.reg.toNat ∧ b.pc = th.pc ∧ b.psq = th.psq ∧ b.flg = th.flg ∧ b.preds = th.preds) ∧
  (∀ h (x : MpostArgs) s iss t th, Single (.mpost h x) s iss t th → 1 ≤ x.size.toNat → x.size.toNat ≤ 256 →
    (th.reg x.b.toNat).toNat < 2 ^ 27 →
    (s.spot (coreOf t) th.gang (s.partOf t) .scr (th.reg x.a.toNat).toNat x.size.toNat).isSome = true →
    let c := s.core (coreOf t)
    let r : Receive := { gang := th.gang, buffer := (th.reg x.a.toNat).toNat, size := x.size.toNat, pick := th.reg x.b.toNat
                         order := c.posted.foldl (fun n p => max n (p.2.order + 1)) 0, done := none }
    match c.freeReceive with
    | none => (∀ k, k < 64 → (Tab.get? c.posted k).isSome = true) ∧
        ∃ b, exec (.mpost h x) s = .next (s.setThread t b) ∧ Computed iss.pc (put x.d.toNat 0xFFFFFFFF#32) 0 noPred [] th b
    | some k => k < 64 ∧ Tab.get? c.posted k = none ∧
        ∃ s' b, exec (.mpost h x) s = .next s' ∧ s'.thread t = some b ∧ b.pc = iss.pc + 12#56 ∧
          (∀ n, b.reg n = (put x.d.toNat (BitVec.ofNat 32 k) n).getD (th.reg n)) ∧
          match c.overflow.find? r.takes with
          | none => s' = (s.setCore (coreOf t) { c with posted := Tab.set c.posted k r }).setThread t b
          | some m => (s'.core (coreOf t)).overflow = c.overflow.erase m ∧ ReceivedBy s s' (coreOf t) k r m) ∧
  (∀ h (x : MtestArgs) s iss t th r, Single (.mtest h x) s iss t th →
    Tab.get? (s.core (coreOf t)).posted (th.reg x.a.toNat).toNat = some r → r.gang = th.gang →
    (∀ src len tag, r.done = some (src, len, tag) → ∃ s' b, exec (.mtest h x) s = .next s' ∧ s'.thread t = some b ∧
      let w := putPair x.d (pair64 (BitVec.ofNat 32 (2 ^ 31 + src * 2 ^ 17 + len)) (BitVec.ofNat 32 tag))
      b.pc = iss.pc + 12#56 ∧ (∀ n, b.reg n = (w n).getD (th.reg n)) ∧ b.preds = th.preds ∧ b.flg = th.flg ∧
      Tab.get? (s'.core (coreOf t)).posted (th.reg x.a.toNat).toNat = none ∧ (∀ l ∈ (s'.core (coreOf t)).l1, l.owned = true) ∧
      ((∀ l ∈ (s.core (coreOf t)).l1, l.grant = 0#64) → Computed iss.pc w 0 noPred [] th b ∧ s'.mem.dram = s.mem.dram)) ∧
    (r.done = none → x.w = false → ∃ b v,
      exec (.mtest h x) s = .next ({ s with sched := { s.sched with free := s.sched.free + 2 } }.setThread t b) ∧
      Computed iss.pc (putPair x.d v) 0 noPred [] th b ∧ v.getLsbD 31 = false) ∧
    (r.done = none → x.w = true → ∃ s' b, exec (.mtest h x) s = .next s' ∧ s'.thread t = some b ∧ b.pc = iss.pc ∧
      b.regs = th.regs ∧ b.hold = .wait (.mtest (th.reg x.a.toNat).toNat x.d) ∧ s'.mem = s.mem ∧ s'.cores = s.cores)) ∧
  (∀ h (x : MtestArgs), Raises (.mtest h x) (fun s t th _ =>
    ∀ r, Tab.get? (s.core (coreOf t)).posted (th.reg x.a.toNat).toNat = some r → r.gang ≠ th.gang) 0x15 0 fun _ _ _ _ => 0)

/-- The chunk of R33 for a job with records left. -/
def ruleChunk (j : Job) : Nat :=
  let slots := max 1 j.slots
  let left := if j.stop.isSome then 0 else j.card.toNat / 2 ^ 288 % 2 ^ 32 - j.next
  let c := min left (max (max 1 (j.card.toNat / 2 ^ 56 % 256)) ((left + slots - 1) / slots))
  if j.pipeBand ∨ j.cap = none then c else min c (j.cap.getD 0)

/-- The stream `n` of a virtual device: a descriptor with V = 0, of either, describes nothing (R260). -/
def ruleStream (p : Partition) (vdev n : Nat) : Option Stream :=
  match Tab.get? p.vdevs vdev, Tab.get? p.streams (256 * vdev + n) with
  | some d, some x => if n < 256 ∧ d.desc.getLsbD 0 = true ∧ x.desc.getLsbD 0 = true then some x else none
  | _, _ => none

/-- Variant `k` of a job holds a chunk: a SIZE of 0 holds any (R33). -/
def ruleHolds (j : Job) (c k : Nat) : Prop := k ≤ j.nVar ∧ (j.variantSize k = 0 ∨ c ≤ j.variantSize k)

/-- The rank of a variant's SIZE, where 0 counts as the largest (R33). -/
def ruleSize (j : Job) (k : Nat) : Nat := if j.variantSize k = 0 then 4096 else j.variantSize k

/-- JSPAWN (R235, R260). -/
def CardsArePlacedClause : Prop :=
  (∀ h (x : JspawnArgs) s iss t th, Single (.jspawn h x) s iss t th → (th.pair x.a.toNat).toNat < 2 ^ 56 →
    (th.pair x.a.toNat).toNat % 64 = 0 → s.inspectable t .none 4 = true →
    let s1 := (s.entered (.jspawn h x) t th iss).inspectFor t .none 4
    let part := s.partOf t
    let key := 256 * s.vdevOf t + (th.b32 x.b).toNat
    ∃ s' b, exec (.jspawn h x) s = .next s' ∧ s'.thread t = some b ∧ b.pc = iss.pc + 12#56 ∧
      (∀ n, n ≠ x.d.toNat → b.reg n = th.reg n) ∧
      match ruleStream (s1.part part) (s.vdevOf t) (th.b32 x.b).toNat with
      | none => b.reg x.d.toNat = 2#32 ∧ s'.jobs = s1.jobs ∧ s'.parts = s1.parts
      | some q =>
        if q.desc.toNat / 2 ^ 32 % 2 ^ 12 ≤ q.queue.length then
          b.reg x.d.toNat = 1#32 ∧ s'.jobs = s1.jobs ∧ s'.parts = s1.parts
        else b.reg x.d.toNat = 0#32 ∧ ∃ jn j, Tab.get? s1.jobs jn = none ∧ s'.jobs = Tab.set s1.jobs jn j ∧
          j.phase = .queued ∧ j.cardVa = (th.pair x.a.toNat).toNat ∧ j.part = part ∧
          Tab.get? (s'.part part).streams key = some { q with queue := q.queue ++ [jn] }) ∧
  (∀ h (x : JspawnArgs), Raises (.jspawn h x) (fun _ _ th _ => 2 ^ 56 ≤ (th.pair x.a.toNat).toNat) 0x06 0
    fun _ _ th _ => th.pair x.a.toNat) ∧
  (∀ h (x : JspawnArgs), Raises (.jspawn h x) (fun _ _ th _ => (th.pair x.a.toNat).toNat < 2 ^ 56 ∧
    (th.pair x.a.toNat).toNat % 64 ≠ 0) 0x05 0 fun _ _ th _ => th.pair x.a.toNat)

/-- JNEXT (R33, R34, R236). -/
def ChunksAreDealtClause : Prop :=
  (∀ h (x : DstPairArgs) s iss t th g j, Single (.jnext h x) s iss t th → s.gangOf t = some g → s.job g.job = some j →
    Tab.wf s.gangs = true →
    let c := ruleChunk j
    let takes (k : Nat) : Prop := if j.pipeBand then k ∈ s.bandGangs th.gang else k = th.gang
    ∃ s' b, exec (.jnext h x) s = .next s' ∧ s'.thread t = some b ∧ (∀ u, u ≠ t → s'.thread u = s.thread u) ∧
      { s' with threads := s.threads, gangs := s.gangs, jobs := s.jobs } = s ∧
      (∀ k y, s.gang k = some y → ¬ takes k → s'.gang k = some y) ∧
      if j.remaining = 0 then
        Computed iss.pc (putPair x.d 0#64) 0 noPred [] th b ∧ s'.jobs = s.jobs ∧
        ∀ k y, s.gang k = some y → takes k → s'.gang k = some { y with argn := 0#32 }
      else
        (∃ v, Computed iss.pc (putPair x.d (pair64 (BitVec.ofNat 32 c) v)) 0 noPred [] th b ∧
          (j.pipeBand = true → v = BitVec.ofNat 32 g.variant) ∧
          (j.pipeBand = false → ruleHolds j c v.toNat ∧ ∀ k, ruleHolds j c k →
            ruleSize j v.toNat < ruleSize j k ∨ ruleSize j v.toNat = ruleSize j k ∧ v.toNat ≤ k)) ∧
        s'.job g.job = some { j with next := j.next + c
                                     phase := if j.phase = .running ∧ j.recCount ≤ j.next + c then .draining else j.phase } ∧
        ∀ k y, s.gang k = some y → takes k → s'.gang k = some { y with
          argp := BitVec.ofNat 64 (j.argBase + j.next * j.recSize), argn := BitVec.ofNat 32 c, argi := BitVec.ofNat 32 j.next })

/-- POSTI (R237, R308). -/
def InterruptsArePostedClause : Prop :=
  (∀ h (x : PostiArgs) s iss t th, Single (.posti h x) s iss t th → (th.reg x.a.toNat).toNat < 2 ^ 24 →
    s.inspectable t .none 5 = true →
    let s1 := (s.entered (.posti h x) t th iss).inspectFor t .none 5
    let a := (th.reg x.a.toNat).toNat
    let vec := a / 2 ^ 16
    let part := s.partOf t
    ∃ s' b, exec (.posti h x) s = .next s' ∧ s'.thread t = some b ∧ b.pc = iss.pc + 12#56 ∧
      (∀ n, n ≠ x.d.toNat → b.reg n = th.reg n) ∧
      if a % 2 ^ 16 ∈ (s1.part part).runtimes then
        let q := Tab.getD s1.fw.runtimes (a % 2 ^ 16) Runtime.empty
        b.reg x.d.toNat = 0#32 ∧
          ∃ q', Tab.get? s'.fw.runtimes (a % 2 ^ 16) = some q' ∧ q'.pending.getLsbD vec = true ∧
            (q.queue.length < 64 → Sparse.wf q.ring = true →
              q'.queue = q.queue ++ [interruptRecord (th.reg x.b.toNat).toNat t 0xB8 0 part vec]) ∧
            (64 ≤ q.queue.length → q'.queue = q.queue ∧ q'.overflow.getLsbD vec = true)
      else b.reg x.d.toNat = 1#32 ∧ s'.fw = s1.fw) ∧
  (∀ h (x : PostiArgs), Raises (.posti h x) (fun _ _ th _ => 2 ^ 24 ≤ (th.reg x.a.toNat).toNat) 0x06 0 fun _ _ _ _ => 0)

/-- JSPAWN, JNEXT, POSTI (R33, R235 to R237). -/
def Obligations.JobOperationsReportAndDeal : Prop :=
  CardsArePlacedClause ∧ ChunksAreDealtClause ∧ InterruptsArePostedClause

/-- TRAILW (R244). -/
def Obligations.TrailedRegistersComeBack : Prop :=
  ∀ (h : Hdr) (x : TrailwArgs),
    (∀ s iss t th, Single (.trailw h x) s iss t th → th.cpd = 0 →
      ∃ b, exec (.trailw h x) s = .next (s.setThread t b) ∧ Computed iss.pc noReg 0 noPred [] th b) ∧
    (∀ s iss t th, Single (.trailw h x) s iss t th → th.cpd ≠ 0 → th.trp + 16 * x.n.toNat + 32 * th.cpd ≤ th.trl →
      x.a.toNat + x.n.toNat ≤ 512 → Memory.wf th.priv = true →
      ∃ b, exec (.trailw h x) s = .next (s.setThread t b) ∧ b.pc = iss.pc + 12#56 ∧ b.regs = th.regs ∧ b.preds = th.preds ∧
        b.flg = th.flg ∧ b.psq = th.psq ∧ b.trp = th.trp + 16 * x.n.toNat ∧ b.cpd = th.cpd ∧
        (∀ j, j < x.n.toNat → Memory.readNat b.priv (th.trp + 16 * j) 16 =
          (th.reg (x.a.toNat + j)).toNat * 2 ^ 64 + 2 * 2 ^ 62 + (x.a.toNat + j)) ∧
        (∀ n, n < th.trp ∨ th.trp + 16 * x.n.toNat ≤ n → Memory.read b.priv n = Memory.read th.priv n) ∧
        ∀ (c : Thread) rc pbytes, c.priv = b.priv → c.choice = b.choice → Sparse.wf c.regs = true → x.a.toNat + x.n.toNat ≤ rc →
          (c.undoTo rc pbytes th.trp).trp = th.trp ∧
          ∀ r, (c.undoTo rc pbytes th.trp).reg r =
            if x.a.toNat ≤ r ∧ r < x.a.toNat + x.n.toNat then th.reg r else c.reg r) ∧
    Raises (.trailw h x) (fun _ _ th _ => th.cpd ≠ 0 ∧ th.trl < th.trp + 16 * x.n.toNat + 32 * th.cpd) 0x0E 0
      fun _ _ _ _ => 0

/-- A thread of the crew of `t` with an active link to its lane, of the serial `ser` or a later one (R247). -/
def LinkedTo (t ser u : Nat) (b : Thread) : Prop :=
  crewOf u = crewOf t ∧ b.hold ≠ .exited ∧
    ∃ d ∈ b.linkDepths, (b.frame d).spent = false ∧ (b.frame d).vlane = laneOf t ∧ ser ≤ (b.frame d).vser

/-- The threads that a cancel of a victim reaches, one thread apart, have it pending, and no other thread changes (R247). -/
def CancelsSent (s s' : State) (t ser : Nat) : Prop :=
  ∀ u c, s.thread u = some c → u ≠ t →
    (LinkedTo t ser u c → s'.thread u = some { c with choice := { c.choice with cancel := true } }) ∧
    (¬ LinkedTo t ser u c → s'.thread u = some c)

/-- TRY (R243). -/
def ChoicesAreMadeClause : Prop :=
  (∀ h (x : TryArgs) s iss t th acc pte, Single (.tryAlt h x) s iss t th →
    let tb := (BitVec.ofInt 56 (((iss.pc + 12#56).toNat : Int) + 4 * x.off.toInt)).toNat
    let w := x.wlen.toNat
    let e := s.entered (.tryAlt h x) t th iss
    th.trp + 16 * (w + 1) + 32 * (th.cpd + 1) ≤ th.trl → th.choice.fser ≠ 0xFFFFFFFF#32 →
    TableEntry e t th tb 0 acc pte → th.trl < 2 ^ 18 → th.tentative.length ≤ 32 → Memory.wf th.priv = true →
    ∃ s' b, exec (.tryAlt h x) s = .next s' ∧ s'.thread t = some b ∧ b.pc = tableTarget tb (bindRes e t th acc pte) ∧
      b.cpd = th.cpd + 1 ∧ b.choice.fser = th.choice.fser + 1#32 ∧ b.trp = th.trp + 16 * (w + 1) ∧
      b.frame (th.cpd + 1) =
        { ser := (th.choice.fser + 1#32).toNat, stolen := 0, kind := 0, steal := x.steal && decide (th.tentative = [])
          mark := th.tentative.length, wstart := x.d.toNat, wlen := w, cnt := x.cnt.toNat, next := 1, trp0 := th.trp
          pv := decide (0 < th.cpd), prev := th.trl - 32 * th.cpd, table := tb / 4, aux := 0 } ∧
      b.regs = th.regs ∧ b.preds = th.preds ∧ b.flg = th.flg ∧ b.psq = th.psq ∧
      (x.d.toNat + w < 512 → b.snapshot th.trp (w + 1) = (List.range (w + 1)).map fun j => th.reg (x.d.toNat + j))) ∧
  (∀ h (x : TryArgs), Raises (.tryAlt h x) (fun _ _ th _ => th.choice.fser = 0xFFFFFFFF#32 ∨
    th.trl < th.trp + 16 * (x.wlen.toNat + 1) + 32 * (th.cpd + 1)) 0x0E 0 fun _ _ _ _ => 0)

/-- FAIL (R245, R365). -/
def FailuresTakeTheNextClause : Prop :=
  (∀ h s iss t th a acc pte, Single (.fail h) s iss t th → (s.entered (.fail h) t th iss).thread t = some a → th.cpd ≠ 0 →
    let f := th.frame th.cpd
    let u := a.restoreTry (s.regCount t) (s.privBytes t) f
    let e := (s.entered (.fail h) t th iss).setThread t u
    f.kind = 0 ∨ f.kind = 3 → f.next ≤ f.cnt → TableEntry e t u (4 * f.table) f.next acc pte →
    ∃ s' b, exec (.fail h) s = .next s' ∧ s'.thread t = some b ∧
      b.pc = tableTarget (4 * f.table) (bindRes e t u acc pte) ∧ b.flg = th.flg ∧ b.preds = th.preds ∧
      b.faults = { th.faults with inh := false } ∧
      b.psq.length ≤ th.psq.length ∧ (∀ e ∈ th.psq, e.tent = false → e ∈ b.psq) ∧
      (if f.next = f.cnt then b.cpd = th.cpd - 1 ∧ b.trp = f.trp0
       else b.cpd = th.cpd ∧ (th.trp = f.trp0 + 16 * (f.wlen + 1) → b.trp = th.trp ∧
         (Memory.wf th.priv = true → (b.frame th.cpd).next = f.next + 1))) ∧
      (th.trp = f.trp0 + 16 * (f.wlen + 1) → f.wstart + f.wlen < s.regCount t →
        ∀ r, b.reg r = if f.wstart ≤ r ∧ r ≤ f.wstart + f.wlen
          then (th.snapshot f.trp0 (f.wlen + 1)).getD (r - f.wstart) 0#32 else th.reg r)) ∧
  (∀ h s iss t th, Single (.fail h) s iss t th → th.cpd ≠ 0 → (th.frame th.cpd).kind = 1 →
    ∃ s' b, exec (.fail h) s = .next s' ∧ s'.thread t = some b ∧ b.pc = BitVec.ofNat 56 (th.frame th.cpd).aux ∧
      b.choice.elide = none ∧ b.choice.cpd = BitVec.ofNat 32 (th.cpd - 1) ∧
      b.faults = { th.faults with finfo := 4#32, inh := false } ∧ s'.mem = s.mem) ∧
  (∀ h s iss t th, Single (.fail h) s iss t th → th.cpd ≠ 0 → (th.frame th.cpd).kind = 2 →
    ∃ s' b, exec (.fail h) s = .next s' ∧ s'.thread t = some b ∧ b.cpd = 0 ∧ (∀ e ∈ b.psq, e.tent = false) ∧
      (∀ e ∈ th.psq, e.tent = false → e ∈ b.psq) ∧ b.faults = { th.faults with inh := false } ∧ s'.mem = s.mem ∧
      match th.choice.link with
      | none => b.pc = iss.pc + 12#56
      | some l => b.pc = l.pc + 12#56 ∧ b.reg l.reg.toNat = 1#32) ∧
  (∀ h, Raises (.fail h) (fun _ _ th _ => th.cpd = 0) 0x0D 0 fun _ _ _ _ => 0)

/-- CUT and MARK (R246, R247). -/
def CutsDropChoicesClause : Prop :=
  (∀ h (x : OneArgs) s iss t th, Single (.cut h x) s iss t th →
    let a := (th.b32 x.b).toNat
    let f := th.frame (a + 1)
    (th.cpd ≤ a → ∃ b, exec (.cut h x) s = .next (s.setThread t b) ∧ Computed iss.pc noReg 0 noPred [] th b) ∧
    (a < th.cpd → (th.elideDepth a).isSome = true →
      ∃ b, exec (.cut h x) s = .next (s.setThread t b) ∧ Computed iss.pc noReg 0 noPred [] th b ∧ b.hold = .finishing .elend) ∧
    (a < th.cpd → th.elideDepth a = none →
      ∃ s' b, exec (.cut h x) s = .next s' ∧ s'.thread t = some b ∧ b.pc = iss.pc + 12#56 ∧ b.regs = th.regs ∧
        b.preds = th.preds ∧ b.flg = th.flg ∧ b.cpd = a ∧ b.trp = f.trp0 ∧ s'.mem = s.mem ∧
        (a = 0 → ∀ e ∈ b.psq, e.tent = false) ∧
        b.psq.map (fun e => (e.seq, e.space, e.block, e.data, e.mask)) =
          th.psq.map (fun e => (e.seq, e.space, e.block, e.data, e.mask)) ∧ CancelsSent s s' t f.ser)) ∧
  (∀ h (x : DstArgs), WritesReg (.mark h x) x.d fun a => a.choice.cpd)

/-- TRY, FAIL, CUT, MARK (R243, R245 to R247). -/
def Obligations.ChoicePointsAreMadeAndTaken : Prop :=
  ChoicesAreMadeClause ∧ FailuresTakeTheNextClause ∧ CutsDropChoicesClause

/-- STEAL and CANCEL_TAKE_EFFECT (R248 to R250, R426). -/
def Obligations.StealsAndCancels : Prop :=
  (∀ h (x : DstArgs) s iss t th v d y acc pte, Single (.steal h x) s iss t th → th.cpd = 0 →
    s.stealFrom t = some (v, d) → s.thread v = some y →
    let f := y.frame d
    let e := s.entered (.steal h x) t th iss
    th.trp + 16 * (f.wlen + 1) + 32 ≤ th.trl → TableEntry e t th (4 * f.table) f.next acc pte →
    th.trl < 2 ^ 18 → Memory.wf th.priv = true → Memory.wf y.priv = true →
    v ≠ t ∧ crewOf v = crewOf t ∧ y.hold ≠ .exited ∧ d ≤ y.cpd ∧ 1 ≤ d ∧ f.stealable = true ∧
    (∀ k, 1 ≤ k → k < d → (y.frame k).stealable = false) ∧
    ∃ s' b z id, exec (.steal h x) s = .next s' ∧ s'.thread t = some b ∧ s'.thread v = some z ∧
      b.pc = tableTarget (4 * f.table) (bindRes e t th acc pte) ∧ b.cpd = 1 ∧ b.reg x.d.toNat = BitVec.ofNat 32 f.next ∧
      (f.wstart + f.wlen < s.regCount t → f.trp0 + 16 * (f.wlen + 1) ≤ y.trl - 32 * y.cpd → ∀ j, j ≤ f.wlen → f.wstart + j ≠ x.d.toNat →
        b.reg (f.wstart + j) = (y.snapshot f.trp0 (f.wlen + 1)).getD j 0#32) ∧
      b.choice.link = some { pc := iss.pc, reg := x.d, lane := laneOf v, serial := f.ser, alt := f.next % 16 } ∧
      b.choice.fser = th.choice.fser + 1#32 ∧ b.trp = th.trp + 16 * (f.wlen + 1) ∧
      (b.frame 1).kind = 2 ∧ (b.frame 1).spent = false ∧ (b.frame 1).vser = f.ser ∧ (b.frame 1).vlane = laneOf v ∧
      (b.frame 1).valt = f.next ∧ (b.frame 1).trp0 = th.trb % 2 ^ 18 ∧
      (z.frame d).next = f.next + 1 ∧ (z.frame d).stolen.testBit (f.next % 16) = true ∧ z.regs = y.regs ∧ z.pc = y.pc ∧
      b.hold = .finishing (.inspecting id) ∧
      ∃ q, Tab.get? s'.insps id = some q ∧ q.observer = t ∧ q.scope = 1 ∧ q.todo = [v] ∧ q.silent = true) ∧
  (∀ h (x : DstArgs) s iss t th, Single (.steal h x) s iss t th → th.cpd = 0 → s.stealFrom t = none →
    ∃ s' b, exec (.steal h x) s = .next s' ∧ s'.thread t = some b ∧ b.pc = iss.pc + 12#56 ∧ b.choice.link = none ∧
      (∀ r, b.reg r = (put x.d.toNat 0#32 r).getD (th.reg r)) ∧ { s' with threads := s.threads } = s ∧
      ∀ u, u ≠ t → (∀ l, th.choice.link = some l → u ≠ 32 * crewOf t + l.lane) → s'.thread u = s.thread u) ∧
  (∀ h (x : DstArgs), Raises (.steal h x) (fun _ _ th _ => th.cpd ≠ 0) 0x10 0 fun _ _ _ _ => 0) ∧
  (∀ (s : State) t th, s.thread t = some th → th.cancelReady = true → Sparse.wf th.regs = true →
    (∀ d, th.linkDepths.find? (fun d => !(th.frame d).spent) = some d →
      ∃ s' b, exec (.cancelTakeEffect t) s = .next s' ∧ s'.thread t = some b ∧ b.choice.cancel = false ∧ b.cpd = 0 ∧
        b.hold = .none ∧ b.choice.elide = none ∧ b.faults = { th.faults with inh := false } ∧
        (∀ e ∈ b.psq, e.tent = false) ∧ (∀ e ∈ th.psq, e.tent = false → e ∈ b.psq) ∧
        s'.mem = s.mem ∧ (th.trb ≤ th.trp → (th.trp - th.trb) % 16 = 0 → b.trp = th.trb) ∧
        CancelsSent s s' t (th.frame d).ser ∧
        match th.choice.link with
        | none => b.pc = th.pc
        | some l => b.pc = l.pc + 12#56 ∧ b.reg l.reg.toNat = 2#32) ∧
    ((∀ d ∈ th.linkDepths, (th.frame d).spent = true) → (∀ f, th.hold ≠ .faulting f) →
      exec (.cancelTakeEffect t) s = .next (s.setThread t { th with choice := { th.choice with cancel := false } }))) ∧
  (∀ (s : State) t th, s.thread t = some th → th.cancelReady = false → exec (.cancelTakeEffect t) s = .next s)

/-- The special registers of Table 12-6 but CYCL and CYCH (R3, R258, Table 2-2). -/
def ruleSpecial (s : State) (t : Nat) (th : Thread) (g : Gang) (idx : Nat) : Nat :=
  match idx with
  | 0x000 => th.tid
  | 0x001 => t % 32
  | 0x002 => t / 32 % 256
  | 0x003 => th.tid / 32
  | 0x004 => th.gang
  | 0x005 => max 1 (((s.job g.job).map fun j => j.card.toNat / 2 ^ 333 % 2 ^ 6).getD 1)
  | 0x006 => g.threads
  | 0x007 => g.band % 2 ^ 17 + 2 ^ 27 * g.index
  | 0x008 => t / 8192
  | 0x009 => t / 8192 / 8
  | 0x00A => t / 8192 / 32
  | 0x00B => t / 8192 / 96
  | 0x00C => g.job
  | 0x00D => g.argp.toNat
  | 0x00E => g.argn.toNat
  | 0x00F => g.argi.toNat
  | 0x010 => th.choice.cpd.toNat
  | 0x011 => th.choice.trb.toNat
  | 0x012 => th.choice.trp.toNat
  | 0x013 => th.choice.trl.toNat
  | 0x014 => th.csp.toNat
  | 0x015 => th.hnd.toNat
  | 0x016 => th.flg.toNat
  | 0x017 => th.frm.toNat
  | 0x01A => s.caps.toNat
  | 0x020 => th.faults.fcause.toNat
  | 0x021 => th.faults.fpc.toNat
  | 0x022 => th.faults.fopc.toNat
  | 0x023 => th.faults.fopd.toNat
  | 0x024 => th.faults.fopa.toNat
  | 0x025 => th.faults.fopb.toNat
  | 0x026 => th.faults.fimm.toNat
  | 0x027 => th.faults.fmod.toNat
  | 0x028 => th.faults.faddrl.toNat
  | 0x029 => th.faults.faddrh.toNat
  | 0x02A => th.faults.fguard.toNat
  | 0x02B => th.faults.finfo.toNat
  | _ => 0

/-- The fields that Tables 23-1 and 23-2 give a fault register that SETS writes (R258). -/
def ruleFaultWrite (f : FaultRegs) (idx : Nat) (v : DWord) : FaultRegs :=
  match idx with
  | 0x020 => { f with fcause := v.setWidth 32 &&& 0x1FF#32 }
  | 0x021 => { f with fpc := v }
  | 0x022 => { f with fopc := v.setWidth 32 &&& 0xFFF#32 }
  | 0x023 => { f with fopd := v.setWidth 32 &&& 0x7FFFFFF#32 }
  | 0x024 => { f with fopa := v }
  | 0x025 => { f with fopb := v }
  | 0x026 => { f with fimm := v.setWidth 32 }
  | 0x027 => { f with fmod := v.setWidth 32 &&& 0x7FF#32 }
  | 0x028 => { f with faddrl := v.setWidth 32 }
  | 0x029 => { f with faddrh := v.setWidth 32 }
  | 0x02A => { f with fguard := v.setWidth 32 &&& 0xF#32 }
  | 0x02B => { f with finfo := v.setWidth 32 }
  | _ => f

/-- A ready thread writes special registers: it goes on as the thread `a` with its data. -/
def SetsTo (i : Instr) (s : State) (iss : Issue) (t : Nat) (a : Thread) : Prop :=
  ∃ b, exec i s = .next (s.setThread t b) ∧ Computed iss.pc noReg 0 noPred [] a b

/-- The images of the entries 0 to 7 (Table 4-4). -/
def ruleFixedImages : List DWord :=
  [0x000000200807F5E3#64, 0x000000200807F1E3#64, 0x000000200800F297#64, 0x00000020083FFD2F#64,
   0x00000000040001C3#64, 0x00000000040003C3#64, 0x00000000040007C3#64, 0x00000000090070D3#64]

/-- The image of entry `n` as the core of a thread holds it: a fixed one, else that of the core's copy of its job's table, or
of the table where the core has no copy yet (R253, R254). -/
def ruleImage (s : State) (t n : Nat) : DWord :=
  if n < 8 then ruleFixedImages.getD n 0#64
  else match s.jobOf t with
    | some j => Sparse.get (Tab.getD j.copies (t / 8192) j.fmt) n
    | none => 0#64

/-- MOVS and FMTGET (R254, R256). MOVS of CYCL and of CYCH have forms of their own. -/
def SpecialReadsClause : Prop :=
  (∀ h (x : SpecArgs), specAssigned x.idx = true → x.idx ≠ 0x018#12 → x.idx ≠ 0x019#12 →
    ComputesIf (.movs h x) (fun s t => (s.gangOf t).isSome = true)
    (fun s t a => match s.gang a.gang with
      | some g =>
        if specIsWide x.idx = true then putPair x.d (BitVec.ofNat 64 (ruleSpecial s t a g x.idx.toNat))
        else put x.d.toNat (BitVec.ofNat 32 (ruleSpecial s t a g x.idx.toNat))
      | none => noReg) (fun _ _ _ => 0) (fun _ _ _ => noPred) fun _ _ _ => []) ∧
  (∀ h d s iss t th, Single (.movsCycl h d) s iss t th → ∃ b, exec (.movsCycl h d) s = .next (s.setThread t b) ∧
    Computed iss.pc (put d.toNat (BitVec.ofNat 32 (s.isle (t / 8192 / 32)).counter)) 0 noPred []
      { th with cych := some (BitVec.ofNat 32 ((s.isle (t / 8192 / 32)).counter / 2 ^ 32)) } b) ∧
  (∀ h d s iss t th, Single (.movsCych h d) s iss t th → ∃ b, exec (.movsCych h d) s = .next (s.setThread t b) ∧
    Computed iss.pc (put d.toNat (th.cych.getD (BitVec.ofNat 32 ((s.isle (t / 8192 / 32)).counter / 2 ^ 32)))) 0 noPred []
      { th with cych := none } b) ∧
  (∀ h (x : FmtgetArgs), ComputesIf (.fmtget h x) (fun _ _ => True)
    (fun s t _ => putPair x.d (ruleImage s t x.n.toNat)) (fun _ _ _ => 0) (fun _ _ _ => noPred) fun _ _ _ => [])

/-- SETS (R181, R257, R258). SETS of TRB, FLG and FRM have forms of their own. -/
def SpecialWritesClause : Prop :=
  (∀ h (x : SpecArgs) s iss t th, Single (.sets h x) s iss t th →
    let v := th.reg x.d.toNat
    (x.idx = 0x013#12 → th.cpd = 0 → v.toNat % 32 = 0 → th.trb < v.toNat → v.toNat ≤ th.csp.toNat →
      SetsTo (.sets h x) s iss t { th with choice := { th.choice with trl := v } }) ∧
    (x.idx = 0x014#12 → v.toNat % 8 = 0 → th.trl ≤ v.toNat → v.toNat ≤ s.privBytes t →
      SetsTo (.sets h x) s iss t { th with csp := v }) ∧
    (x.idx = 0x015#12 → th.pair x.d.toNat = 0#64 ∨ s.isCode t (th.pair x.d.toNat).toNat = true →
      SetsTo (.sets h x) s iss t { th with hnd := th.pair x.d.toNat }) ∧
    (0x020 ≤ x.idx.toNat → x.idx.toNat ≤ 0x02B → th.faults.inh = true →
      let w := if specIsWide x.idx = true then th.pair x.d.toNat else v.setWidth 64
      SetsTo (.sets h x) s iss t { th with faults := ruleFaultWrite th.faults x.idx.toNat w })) ∧
  (∀ h (x : SpecArgs), Raises (.sets h x) (fun _ _ _ _ => x.idx.toNat ≤ 0x010 ∨ x.idx = 0x012#12 ∨ x.idx = 0x018#12 ∨
    x.idx = 0x019#12 ∨ x.idx = 0x01A#12) 0x02 0 fun _ _ _ _ => 0) ∧
  (∀ h (x : SpecArgs), Raises (.sets h x) (fun _ _ th _ => x.idx = 0x013#12 ∧ th.cpd ≠ 0) 0x02 0 fun _ _ _ _ => 0) ∧
  (∀ h (x : SpecArgs), Raises (.sets h x) (fun s t th _ =>
    let n := (th.reg x.d.toNat).toNat
    x.idx = 0x013#12 ∧ th.cpd = 0 ∧ (n % 32 ≠ 0 ∨ n ≤ th.trb ∨ th.csp.toNat < n) ∨
      x.idx = 0x014#12 ∧ (n % 8 ≠ 0 ∨ n < th.trl ∨ s.privBytes t < n)) 0x06 0 fun _ _ _ _ => 0) ∧
  (∀ h (x : SpecArgs), Raises (.sets h x) (fun s t th _ => x.idx = 0x015#12 ∧ th.pair x.d.toNat ≠ 0#64 ∧
    s.isCode t (th.pair x.d.toNat).toNat = false) 0x08 0 fun _ _ th _ => th.pair x.d.toNat) ∧
  (∀ h (x : SpecArgs), Raises (.sets h x) (fun _ _ _ _ => 0x020 ≤ x.idx.toNat ∧ x.idx.toNat ≤ 0x02B) 0x04 0 fun _ _ _ _ => 0) ∧
  (∀ h d s iss t th, Single (.setsTrb h d) s iss t th → th.cpd = 0 → (th.reg d.toNat).toNat % 16 = 0 →
    (th.reg d.toNat).toNat < th.trl →
    SetsTo (.setsTrb h d) s iss t { th with choice := { th.choice with trb := th.reg d.toNat, trp := th.reg d.toNat } }) ∧
  (∀ h d, Raises (.setsTrb h d) (fun _ _ th _ => th.cpd ≠ 0) 0x02 0 fun _ _ _ _ => 0) ∧
  (∀ h d, Raises (.setsTrb h d) (fun _ _ th _ => th.cpd = 0 ∧ ((th.reg d.toNat).toNat % 16 ≠ 0 ∨
    th.trl ≤ (th.reg d.toNat).toNat)) 0x06 0 fun _ _ _ _ => 0) ∧
  (∀ h d s iss t th, Single (.setsFlg h d) s iss t th →
    SetsTo (.setsFlg h d) s iss t { th with flg := th.reg d.toNat &&& 0x3F#32 }) ∧
  (∀ h d s iss t th, Single (.setsFrm h d) s iss t th → (th.reg d.toNat).toNat ≤ 4 →
    SetsTo (.setsFrm h d) s iss t { th with frm := th.reg d.toNat }) ∧
  (∀ h d, Raises (.setsFrm h d) (fun _ _ th _ => 4 < (th.reg d.toNat).toNat) 0x06 0 fun _ _ _ _ => 0)

/-- MOVS, SETS, FMTGET (R254, R256 to R258). -/
def Obligations.SpecialRegistersAreReadAndWritten : Prop :=
  SpecialReadsClause ∧ SpecialWritesClause

/-- FMTSET and FMTSET_COMPLETE (R253). -/
def Obligations.FormatEntriesAreWritten : Prop :=
  (∀ h (x : FmtsetArgs) s iss t th g j, Single (.fmtset h x) s iss t th → s.gangOf t = some g → s.job g.job = some j →
    8 ≤ x.n.toNat → (entryOf (th.pair x.a.toNat)).v = false ∨ (entryOf (th.pair x.a.toNat)).legal = true →
    SinkOk s t th (th.sinkRef x.kind x.d x.sc) → s.fmtsetRoom (coreOf t) = true → Sparse.wf j.fmt = true →
    ∃ s1 s2 j', exec (.fmtset h x) s = .next s2 ∧
      InQueue t 0xD0 (th.sinkRef x.kind x.d x.sc) (.fmtset x.n.toNat (th.pair x.a.toNat) (s.coresOfJob g.job)) s1 s2 ∧
      { s1 with jobs := s.jobs } = s.entered (.fmtset h x) t th iss ∧ s1.job g.job = some j' ∧
      (∀ n, Sparse.get j'.fmt n = if n = x.n.toNat then th.pair x.a.toNat else Sparse.get j.fmt n) ∧
      { j' with fmt := j.fmt, copies := j.copies } = j ∧ ∀ k, k ≠ g.job → s1.job k = s.job k) ∧
  (∀ h (x : FmtsetArgs), Raises (.fmtset h x) (fun _ _ _ _ => x.n.toNat ≤ 7) 0x0B 0 fun _ _ _ _ => 0) ∧
  (∀ (s : State) id r j n image left c, s.request id = some r → r.body = .fmtset n image left → s.job r.job = some j →
    c ∈ left → s.fmtsetBefore id r.job c = false →
    ∃ s' j', exec (.fmtsetComplete id (some c)) s = .next s' ∧ { s' with reqs := s.reqs, jobs := s.jobs } = s ∧
      s'.request id = some { r with body := .fmtset n image (without left c) } ∧ s'.job r.job = some j' ∧ j'.fmt = j.fmt ∧
      (s.fmtsetAfter id r.job c = false → Tab.get? j'.copies c = none) ∧
      (s.fmtsetAfter id r.job c = true → ∀ f, Tab.get? j.copies c = some f → Sparse.wf f = true →
        ∃ f', Tab.get? j'.copies c = some f' ∧ ∀ k, Sparse.get f' k = if k = n then image else Sparse.get f k)) ∧
  (∀ (s : State) id r n image, s.request id = some r → r.body = .fmtset n image [] → r.sink.kind = .token →
    s.mem.updates = [] → ∃ s', exec (.fmtsetComplete id none) s = .next s' ∧ TokenDone s s' id r 0#32)

/-- DRAM has the given bytes from `key` upward, and is otherwise as it was. -/
def BytesReplaced (m m' : Memory) (key : Nat) (bs : List Byte) : Prop :=
  ∀ a, Memory.read m' a = if key ≤ a ∧ a < key + bs.length then bs.getD (a - key) 0#8 else Memory.read m a

/-- The bytes from `key` upward lie in no line that is still to be cleared. -/
def Cleared (s : State) (key n : Nat) : Prop := ∀ a, key ≤ a → a < key + n → s.lineUnscrubbed a = false

/-- A frame that is performed: of an open connection, validated, well formed and next in sequence (R289 to R291). -/
structure FrameNext (s : State) (conn : Nat) (c : Conn) (f : CwFrame) : Prop where
  conn  : Tab.get? s.net.conns conn = some c
  up    : c.failed = false
  valid : s.frameValid c f = true
  form  : f.wellFormed = true
  seq   : f.seq = (c.recvSeq + 1) % 2 ^ 32
  dram  : Memory.wf s.mem.dram = true

/-- A performed frame is counted while its partition is resident, with the bytes of a reply (R310); the connection has received
its number, and acknowledged it (R291). -/
def FrameCounted (s s' : State) (conn : Nat) (c : Conn) (f : CwFrame) (reply : Nat) : Prop :=
  (∃ c', Tab.get? s'.net.conns conn = some c' ∧ c'.recvSeq = f.seq ∧ c'.ackSent = f.seq ∧ c'.failed = false) ∧
    (s'.part c.part).usage.cwb = (s.part c.part).usage.cwb +
      if (s.part c.part).resident = true then f.payload.length + reply else 0

/-- A step on a connection changes nothing but the network and the events that watches have seen. -/
def OnlyNetAndWatches (s s' : State) : Prop :=
  { s' with net := s.net, threads := s.threads } = s ∧
    ∀ t th, s.thread t = some th → ∃ b, s'.thread t = some b ∧ { b with watch := th.watch } = th

/-- A cumulative acknowledgement has reached a frame (R291). -/
def AckReaches (ack : Nat) (f : Sent) : Prop := (ack + 2 ^ 32 - f.seq) % 2 ^ 32 < 2 ^ 31

/-- A frame whose work ends with a reply (R291). -/
def AwaitsReply (f : Sent) : Prop := (∃ t o, f.use = .atomic t o) ∨ ∃ t, f.use = .stf t

/-- A generation of a window has ended with a status (R295, R405). -/
def GenerationEnded (s s' : State) (part window : Nat) (status : Word) : Prop :=
  Sparse.get (s'.part part).pm.gens window = Sparse.get (s.part part).pm.gens window + 1#32 ∧
    s'.reduction? part window (s.generation part window) = none ∧ s'.mem = s.mem ∧
    ∀ id r c, s.request id = some r → r.body = .fabx c true (some window) (s.generation part window) → r.part = part →
      r.abort = none → s'.request id = some { r with abort := some status }

/-- REQ_NACK_RECEIVE, BACKOFF_EXPIRY (R279, R394). -/
def ReplayClause : Prop :=
  (∀ (s : State) link entry,
    let l := Tab.getD s.net.links link Link.fresh
    let behind := (∃ n, l.refused = some n ∧ n < entry) ∧ l.resend.isSome = true
    ∃ l',
      (behind → { l' with unacked := l.unacked } = l ∧ (∀ n, n ∈ l'.unacked → n ∈ l.unacked ∨ n = entry) ∧
        (l.unacked.length < 16 → entry ∈ l'.unacked)) ∧
      (¬ behind → l'.refused = some entry ∧ l'.backoff = (if l.refused = some entry then min 4096 (2 * l.backoff) else 64) ∧
        l'.resend = some (s.net.cycle + l'.backoff) ∧ l'.nacks = (if l.refused = some entry then l.nacks + 1 else 1) ∧
        l'.nacking = false ∧ l'.unacked.head? = some entry ∧ ∀ n ∈ l.unacked, entry < n → n ∈ l'.unacked) ∧
      let s1 := s.setNet { s.net with links := Tab.set s.net.links link l' }
      exec (.reqNackReceive link entry) s = .next
        (if l.refused = some entry ∧ l.nacks = 63 then s1.log 0x08 (senderOf link) none 0 entry else s1)) ∧
  (∀ (s : State) link l due, Tab.get? s.net.links link = some l → l.resend = some due →
    exec (.backoffExpiry link) s = .next (if due ≤ s.net.cycle
      then s.setNet { s.net with links := Tab.set s.net.links link { l with resend := none } } else s))

/-- CONNECTION_OPEN, CAUSEWAY_FRAME_RECEIVE, CAUSEWAY_ACK_RECEIVE, CAUSEWAY_RESEND_TIMEOUT, MACSEC_KEY_LOAD
(R289 to R293, R310). -/
def CausewayClause : Prop :=
  (∀ (s : State) part window entry, Sparse.wf (s.part part).pm.windows = true → window < 4096 →
    ∃ s', exec (.connectionOpen part window entry) s = .next s' ∧
      (∀ n, Sparse.get (s'.part part).pm.windows n = if n = window then entry else Sparse.get (s.part part).pm.windows n) ∧
      { s' with parts := s.parts, net := s.net } = s ∧
      (entry.getLsbD 0 = true →
        (∀ c ∈ s.net.conns, c.2.part = part → c.2.peer = entry.extractLsb' 128 128 → c.2.failed = true) →
        ∃ k c, Tab.get? s'.net.conns k = some c ∧ c.part = part ∧ c.peer = entry.extractLsb' 128 128 ∧ c.nextSeq = 1 ∧
          c.recvSeq = 0 ∧ c.sent = [] ∧ c.failed = false) ∧
      (entry.getLsbD 0 = false → s'.net = s.net)) ∧
  (∀ (s : State) conn c f key, FrameNext s conn c f → f.opc = 1 →
    s.windowSpot c.part f.win f.addr f.payload.length = some key → Cleared s key f.payload.length →
    ∃ s', exec (.causewayFrameReceive conn f) s = .next s' ∧ BytesReplaced s.mem.dram s'.mem.dram key f.payload ∧
      FrameCounted s s' conn c f 0) ∧
  (∀ (s : State) conn c f key fn r, FrameNext s conn c f → f.opc = 2 →
    let p := natOfBytes f.payload
    let n := p / 2 ^ 136 % 256
    payloadFn p = some fn → (n = 4 ∨ n = 8) → s.windowSpot c.part f.win f.addr n = some key → key % n = 0 →
    s.linePoisoned key = false → Cleared s key n →
    fn.apply n (Memory.readNat s.mem.dram key n) (p % 2 ^ 64 % 2 ^ (8 * n)) = some r →
    ∃ s' c' g, exec (.causewayFrameReceive conn f) s = .next s' ∧
      BytesReplaced s.mem.dram s'.mem.dram key (bytesOf r.val n) ∧ FrameCounted s s' conn c f 16 ∧
      Tab.get? s'.net.conns conn = some c' ∧ c'.sent.getLast? = some g ∧
      g.payload = bytesOf (Memory.readNat s.mem.dram key n) 16 ∧ g.header.toNat / 2 ^ 24 % 256 = 3 ∧
      g.header.toNat / 2 ^ 16 % 256 = 0 ∧ g.seq = c.nextSeq) ∧
  (∀ (s : State) conn c f, FrameNext s conn c f → f.opc = 4 → f.gen = s.generation c.part f.win →
    ∃ s' r, exec (.causewayFrameReceive conn f) s = .next s' ∧ FrameCounted s s' conn c f 0 ∧ s'.mem = s.mem ∧
      s'.reduction? c.part f.win f.gen = some r ∧
      r.2.parts.getLast? = some { conn := conn, member := f.member, off := f.addr, data := f.payload, whole := false }) ∧
  (∀ (s : State) conn c f, Tab.get? s.net.conns conn = some c → c.failed = false → s.frameValid c f = true →
    f.wellFormed = true → f.seq ≠ (c.recvSeq + 1) % 2 ^ 32 →
    ∃ s' c', exec (.causewayFrameReceive conn f) s = .next s' ∧ OnlyNetAndWatches s s' ∧
      Tab.get? s'.net.conns conn = some c' ∧ c'.recvSeq = c.recvSeq ∧ c'.ackSent = c.recvSeq ∧ c'.nextSeq = c.nextSeq) ∧
  (∀ (s : State) conn c f, Tab.get? s.net.conns conn = some c → c.failed = false → s.frameValid c f = false →
    s.net.cycle < (c.badSince.getD s.net.cycle) + 16 * 16384 →
    exec (.causewayFrameReceive conn f) s = .next (s.setNet { s.net with
      conns := Tab.set s.net.conns conn { c with badSince := some (c.badSince.getD s.net.cycle) } })) ∧
  (∀ (s : State) conn ack c, Tab.get? s.net.conns conn = some c → c.failed = false →
    ∃ s' c', exec (.causewayAckReceive conn ack) s = .next s' ∧ OnlyNetAndWatches s s' ∧
      Tab.get? s'.net.conns conn = some c' ∧ { c' with sent := c.sent, since := c.since, resends := c.resends } = c ∧
      (∀ g, g ∈ c'.sent ↔ ∃ f ∈ c.sent, { g with acked := f.acked } = f ∧ (g.acked = true ↔ f.acked = true ∨ AckReaches ack f) ∧
        (g.acked = true → AwaitsReply f)) ∧
      ((∃ f ∈ c.sent, f.acked = false ∧ AckReaches ack f) → c'.since = s.net.cycle ∧ c'.resends = 0) ∧
      ((∀ f ∈ c.sent, AckReaches ack f → f.acked = true) → c'.since = c.since ∧ c'.resends = c.resends)) ∧
  (∀ (s : State) conn c, Tab.get? s.net.conns conn = some c → c.failed = false →
    ((∀ f ∈ c.sent, f.acked = true) ∨ s.net.cycle < c.since + 16384 → exec (.causewayResendTimeout conn) s = .next s) ∧
    ((∃ f ∈ c.sent, f.acked = false) → c.since + 16384 ≤ s.net.cycle → c.resends < 16 →
      exec (.causewayResendTimeout conn) s = .next (s.setNet { s.net with
        conns := Tab.set s.net.conns conn { c with resends := c.resends + 1, since := s.net.cycle } })) ∧
    ((∃ f ∈ c.sent, f.acked = false) → c.since + 16384 ≤ s.net.cycle → 16 ≤ c.resends → (∀ f ∈ c.sent, f.use = .other) →
      s.windowsTo c.part c.peer conn = [] →
      ∃ s', exec (.causewayResendTimeout conn) s = .next s' ∧ s'.mem = s.mem ∧
        Tab.get? s'.net.conns conn = some { c with failed := true, sent := [] })) ∧
  (∀ (s : State) port (keys : List MacsecKey), ∃ l, exec (.macsecKeyLoad port keys) s =
      .next (s.setNet { s.net with macsec := Tab.set s.net.macsec port l }) ∧
    (∀ k ∈ l, k ∈ (Tab.get? s.net.macsec port).getD [] ∨ k ∈ keys ∧ k.channel < 32 ∧ k.assoc < 2) ∧
    ∀ k, keys.getLast? = some k → k.channel < 32 → k.assoc < 2 → k ∈ l ∧
      ∀ x ∈ l, x.transmit = k.transmit → x.channel = k.channel → x.assoc = k.assoc → x = k)

/-- MERGED_RESULT_DELIVER, REDUCTION_ACK, WINDOW_ABORT (R294, R295, R405). -/
def ReductionsClause : Prop :=
  (∀ (s : State) part window k r x key, s.reduction? part window (s.generation part window) = some (k, r) →
    r.parts = [x] → x.whole = true → r.merged = [] → s.windowSpot part window x.off x.data.length = some key →
    Cleared s key x.data.length → Memory.wf s.mem.dram = true → Tab.wf s.net.reds = true →
    ∃ s', exec (.mergedResultDeliver part window) s = .next s' ∧ BytesReplaced s.mem.dram s'.mem.dram key x.data ∧
      Tab.get? s'.net.reds k = some { r with merged := [x.off] }) ∧
  (∀ (s : State) part window k r, s.reduction? part window (s.generation part window) = some (k, r) →
    Sparse.wf (s.part part).pm.gens = true →
    if ∀ x ∈ r.parts, x.off ∈ r.merged then
      ∃ s', exec (.reductionAck part window) s = .next s' ∧ GenerationEnded s s' part window 0#32
    else exec (.reductionAck part window) s = .next s) ∧
  (∀ (s : State) part window, Sparse.wf (s.part part).pm.gens = true →
    if s.windowBits part window 0 2 = 3 then
      ∃ s', exec (.windowAbort part window) s = .next s' ∧ GenerationEnded s s' part window 3#32
    else exec (.windowAbort part window) s = .next s)

/-- The isle of what receives a flit (R286). -/
def receiverIsle : FlitReceiver → Nat
  | .l1 c => c / 32
  | .slice n => n / 32
  | .bank i _ => i
  | .frontEnd i => i

/-- FOREIGN_PROBE_REFUSE (R286, R394, R396). -/
def ForeignFlitsClause : Prop :=
  (∀ (s : State) (x : FlitReceiver) part source t order, (s.part part).resident = true →
    (s.part part).holdsIsle (receiverIsle x) = true → exec (.foreignProbeRefuse x part source t order) s = .next s) ∧
  (∀ (s : State) (x : FlitReceiver) part source t order,
    ((s.part part).resident = false ∨ (s.part part).holdsIsle (receiverIsle x) = false) →
    ((s.thread t).bind fun th => th.outstanding order) = none →
    exec (.foreignProbeRefuse x part source t order) s = .next (s.log 0x0A (receiverAgent x) (some part) 0 source)) ∧
  (∀ (s : State) (x : FlitReceiver) part source t th order o acc w d after alloc form own,
    ((s.part part).resident = false ∨ (s.part part).holdsIsle (receiverIsle x) = false) → s.thread t = some th →
    th.outstanding order = some o → o.kind = .load acc w d after alloc form own → th.longs = [o] → o.order = th.order →
    Deliverable s { th with longs := [] } →
    ∃ s' b, exec (.foreignProbeRefuse x part source t order) s = .next s' ∧ s'.mem = s.mem ∧ s'.thread t = some b ∧
      b.pc = th.hnd.setWidth 56 ∧ b.faults.fcause = 0x09#32 ∧ b.faults.finfo = 5#32 ∧ b.faults.fpc = o.pc.setWidth 64 ∧
      b.faults.inh = true ∧ b.regs = th.regs)

/-- REQ_NACK_RECEIVE, BACKOFF_EXPIRY, the Causeway, reductions, FOREIGN_PROBE_REFUSE (R279, R286, R289 to R295, R394, R396,
R405). -/
def Obligations.NetworkStepsKeepTheirProtocols : Prop :=
  ReplayClause ∧ CausewayClause ∧ ReductionsClause ∧ ForeignFlitsClause

/-- A head that the command processor takes next, with its job and the card it reads (R261). -/
structure HeadTaken (s : State) (isle key jn : Nat) (j : Job) (card : BitVec 512) : Prop where
  home   : (s.part (s.partOfIsle isle)).resident = true
  first  : (s.part (s.partOfIsle isle)).first = isle
  head   : s.nextHead (s.part (s.partOfIsle isle)) = some (key, jn)
  queued : s.job jn = some j
  read   : card = (s.cardLine (s.partOfIsle isle) (s.asidOfJob j) j.cardVa).1
  own    : j.part = s.partOfIsle isle
  waits  : cardBits card 256 3 = 0
  plain  : card.getLsbD 120 = false

/-- RUNTIME_CARD_PLACE, CARD_ADMIT, JOB_WAIT_REEVALUATE, JOB_START, STREAM_DESCRIPTOR_WRITE, RUNTIME_THREAD_REGISTER
(R37, R38, R260 to R262, R308, R345, R398). -/
def Obligations.JobsAreQueuedAdmittedAndStarted : Prop :=
  (∀ (s : State) part vdev stream va x v, Tab.get? (s.part part).streams (streamKey vdev stream) = some x →
    Tab.get? (s.part part).vdevs vdev = some v → stream < 256 → x.desc.getLsbD 0 = true → v.desc.getLsbD 0 = true →
    if x.queue.length < x.depth then
      ∃ s' jn, exec (.runtimeCardPlace part vdev stream va) s = .next s' ∧ s.job jn = none ∧
        s'.job jn = some (Job.placed part vdev stream va) ∧ { s' with jobs := s.jobs, parts := s.parts } = s ∧
        (∀ k, k ≠ jn → s'.job k = s.job k) ∧
        Tab.get? (s'.part part).streams (streamKey vdev stream) = some { x with queue := x.queue ++ [jn] }
    else exec (.runtimeCardPlace part vdev stream va) s = .next s) ∧
  (∀ (s : State) part vdev stream va,
    256 ≤ stream ∨ (∀ x, Tab.get? (s.part part).streams (streamKey vdev stream) = some x → x.desc.getLsbD 0 = false) ∨
      (∀ v, Tab.get? (s.part part).vdevs vdev = some v → v.desc.getLsbD 0 = false) →
    exec (.runtimeCardPlace part vdev stream va) s = .next s) ∧
  (∀ (s : State) isle, (s.part (s.partOfIsle isle)).resident = false ∨ (s.part (s.partOfIsle isle)).first ≠ isle ∨
      s.nextHead (s.part (s.partOfIsle isle)) = none →
    exec (.cardAdmit isle) s = .next s) ∧
  (∀ (s : State) isle key jn j card, HeadTaken s isle key jn j card →
    let part := s.partOfIsle isle
    let j' : Job := { j with card := card, pipes := [] }
    s.cardOffence j' [] 0#512 = none → s.sinkOffence j' = false →
    ∃ s' y, exec (.cardAdmit isle) s = .next s' ∧ s'.job jn = some y ∧ y.phase = .admitted ∧ y.card = card ∧ y.waits = [] ∧
      (∀ d, d ∈ y.deps ↔ d ≠ jn ∧ ∃ n w, (n, w) ∈ j'.handles ∧ ∃ e, Tab.get? (s.part part).handles n = some e ∧
        (e.writer = some d ∨ (w = true ∧ d ∈ e.readers))) ∧
      (∀ n, (n, true) ∈ j'.handles → ∃ e, Tab.get? (s'.part part).handles n = some e ∧ e.writer = some jn) ∧
      (s'.part part).rotation = key + 1 ∧
      ∀ x, Tab.get? (s.part part).streams key = some x →
        Tab.get? (s'.part part).streams key = some { x with queue := x.queue.drop 1, last := some jn }) ∧
  (∀ (s : State) isle key jn j card d, HeadTaken s isle key jn j card →
    ({ j with card := card, pipes := [] } : Job).fieldOffence = some d → cardBits card 369 2 = 0 → cardBits card 458 52 = 0 →
    ∃ s' y, exec (.cardAdmit isle) s = .next s' ∧ s'.job jn = some y ∧ y.phase = .retired ∧
      s'.fw = ((s.cardLine (s.partOfIsle isle) (s.asidOfJob j) j.cardVa).2.log 0x10
        (.control (dieOfIsle (s.part j.part).first) 0) (some j.part) j.cardVa (4 + 256 * d)).fw) ∧
  (∀ (s : State) isle,
    if (s.isle isle).counter % 4096 = 0 then
      ∃ s', exec (.jobWaitReevaluate isle) s = .next s' ∧ { s' with jobs := s.jobs } = s ∧
        ∀ n j, s.job n = some j → s'.job n = some
          (if (s.part j.part).first = isle ∧ j.phase = .admitted then
            { j with waits := j.waits.filter fun w => decide ((s.homeWord j.part (s.asidOfJob j) w.1).toNat < w.2.toNat) }
          else j)
    else exec (.jobWaitReevaluate isle) s = .next s) ∧
  (∀ (s : State) n j, s.job n = some j →
    let ready := j.phase = .admitted ∧ j.waits = [] ∧ (∀ d ∈ j.deps, s.jobRetired d = true) ∧ s.slotsOf j ≠ 0 ∧
      (s.part j.part).resident = true
    (ready → j.hasImage = false → ∃ s', exec (.jobStart n) s = .next s' ∧ { s' with jobs := s.jobs } = s ∧
      s'.job n = some { j with phase := .running, slots := s.slotsOf j, fmt := [], copies := [] } ∧
      ∀ k, k ≠ n → s'.job k = s.job k) ∧
    (¬ ready → exec (.jobStart n) s = .next s)) ∧
  (∀ (s : State) part v n image, v < 16 → n < 256 →
    ∃ s', exec (.streamDescriptorWrite part (.stream v n image)) s = .next s' ∧ { s' with parts := s.parts } = s ∧
      (∃ x, Tab.get? (s'.part part).streams (streamKey v n) = some x ∧ x.desc = image ∧
        ∀ y, Tab.get? (s.part part).streams (streamKey v n) = some y → x = { y with desc := image }) ∧
      (∀ k, k ≠ streamKey v n → Tab.get? (s'.part part).streams k = Tab.get? (s.part part).streams k) ∧
      { s'.part part with streams := (s.part part).streams } = s.part part) ∧
  (∀ (s : State) part v image asid root, v < 16 →
    ((∀ q ∈ s.parts, ∀ w ∈ q.2.vdevs, w.2.asid = asid → q.1 = part ∧ w.1 = v) →
      exec (.streamDescriptorWrite part (.vdev v image asid root)) s = .next (s.setPart part
        { s.part part with vdevs := Tab.set (s.part part).vdevs v { desc := image, asid := asid, root := root } })) ∧
    ((∃ q ∈ s.parts, ∃ w ∈ q.2.vdevs, w.2.asid = asid ∧ (q.1 ≠ part ∨ w.1 ≠ v)) →
      exec (.streamDescriptorWrite part (.vdev v image asid root)) s = .next s)) ∧
  (∀ (s : State) part (threads : List Nat) (streams : List (Nat × Nat)) principal, (streams.map Prod.fst).Nodup →
    ∃ s', exec (.runtimeThreadRegister part threads streams principal) s = .next s' ∧ { s' with parts := s.parts } = s ∧
      (s'.part part).runtimes = threads ∧ (s'.part part).principal = some principal ∧
      (∀ k d, (k, d) ∈ streams → ∃ x, Tab.get? (s'.part part).streams k = some x ∧ x.runtime = some d ∧
        ∀ y, Tab.get? (s.part part).streams k = some y → x = { y with runtime := some d }) ∧
      ∀ k, k ∉ streams.map Prod.fst → Tab.get? (s'.part part).streams k = Tab.get? (s.part part).streams k)

/-- A thread as a launch leaves it (R20, R66). -/
structure Launched (j : Job) (gang variant tid : Nat) (a : Thread) : Prop where
  gang  : a.gang = gang
  tid   : a.tid = tid
  pc    : a.pc = BitVec.ofNat 56 (j.codeBase + 12 * j.variantEntry variant)
  regs  : ∀ r, a.reg r = 0#32
  preds : ∀ p, p ≠ 7#3 → a.pred p = false
  priv  : ∀ n, Memory.read a.priv n = 0#8
  csp   : a.csp = BitVec.ofNat 32 j.privBytes
  trl   : a.choice.trl = BitVec.ofNat 32 (j.privBytes / 2)
  cpd   : a.choice.cpd = 0#32
  hnd   : a.hnd = 0#64
  flg   : a.flg = 0#32
  inh   : a.faults.inh = false
  psq   : a.psq = []
  longs : a.longs = []
  hold  : a.hold = .none

/-- A gang stands with all its threads. -/
def StandsAs (s : State) (j : Job) (jn core slot index band : Nat) : Prop :=
  ∃ g, s.gang (handleOf core slot 0) = some g ∧ g.job = jn ∧ g.slot = slot ∧ g.threads = j.gangThreads ∧ g.index = index ∧
    g.band = band ∧ g.phase = .placed ∧ g.scratch = [] ∧
    ∀ i, i < j.gangThreads → ∃ a, s.thread (handleOf core slot 0 + i) = some a ∧
      Launched j (handleOf core slot 0) g.variant i a

/-- No line of a core's L1 holds bytes that its home lacks. -/
def NothingGranted (s : State) (core : Nat) : Prop := ∀ l ∈ (s.core core).l1, l.grant = 0#64

/-- A gang has left its core (R39). -/
def GangGone (s s' : State) (gang : Nat) (g : Gang) : Prop :=
  (∀ t th, s.thread t = some th → (if th.gang = gang then s'.thread t = none else (s'.thread t).isSome = true)) ∧
    (s'.core (coreOf gang)).wtq = [] ∧ NothingGranted s' (coreOf gang) ∧
    (∀ k, crewOf gang ≤ k → k < crewOf gang + (g.threads + 31) / 32 → s'.crew k = { records := [], arrivals := [] }) ∧
    ∀ b, s.band g.band = some b → gang ∉ ((s'.band g.band).map (·.gangs)).getD []

/-- GANG_PLACE, BAND_PLACE, GANG_RETIRE, JOB_SINK_WRITE (R17 to R20, R32, R33, R36, R39, R263, R368). -/
def Obligations.GangsArePlacedAndRetired : Prop :=
  (∀ (s : State) jn core slot j, s.job jn = some j → (∃ n, n < 8192 ∧ s.band (8192 * isleOf core + n) = none) →
    if s.gangSpot jn j = some (core, slot) then
      ∃ s' y b, exec (.gangPlace jn core slot) s = .next s' ∧ StandsAs s' j jn core slot 0 b ∧ s.band b = none ∧
        s'.band b = some { job := jn, gangs := [handleOf core slot 0], pipes := j.pipes, piped := j.pipeBand } ∧
        s'.job jn = some y ∧ y.started = j.started + 1 ∧ y.card = j.card ∧
        (NothingGranted s core → s'.mem.dram = s.mem.dram) ∧
        ((∀ p ∈ s.gangs, p.2.job = jn → coreOf p.1 ≠ core) → ∀ l ∈ (s'.core core).l1, l.owned = true) ∧
        (∀ u, (∀ i, i < j.gangThreads → u ≠ handleOf core slot 0 + i) → s'.thread u = s.thread u)
    else exec (.gangPlace jn core slot) s = .next s) ∧
  (∀ (s : State) jn spots j, s.job jn = some j → (∀ i, ∃ n, n < 8192 ∧ s.band (8192 * i + n) = none) →
    if s.bandSpots jn j = some spots then
      ∃ s' y b, exec (.bandPlace jn spots) s = .next s' ∧ s.band b = none ∧
        (s'.band b).map (·.gangs) = some (spots.map fun x => handleOf x.1 x.2 0) ∧
        (∀ i (h : i < spots.length), StandsAs s' j jn spots[i].1 spots[i].2 i b) ∧
        s'.job jn = some y ∧ y.started = j.started + spots.length ∧
        ((∀ x ∈ spots, NothingGranted s x.1) → s'.mem.dram = s.mem.dram)
    else exec (.bandPlace jn spots) s = .next s) ∧
  (∀ (s : State) gang g, Tab.wf s.threads = true → s.gang gang = some g →
    if s.mayRetire gang g = true then
      ∃ s', exec (.gangRetire gang) s = .next s' ∧ (s'.gang gang = none → GangGone s s' gang g) ∧
        (s'.gang gang ≠ none → ((s'.core (coreOf gang)).wtq ≠ [] ∨ ¬ NothingGranted s' (coreOf gang)) ∧
          ∀ t, (s.thread t).isSome = true → (s'.thread t).isSome = true) ∧
        ((∀ t th, s.thread t = some th → th.gang = gang → th.psq = []) → (s.core (coreOf gang)).wtq = [] →
          NothingGranted s (coreOf gang) → s'.gang gang = none ∧ s'.mem.dram = s.mem.dram)
    else exec (.gangRetire gang) s = .next s) ∧
  (∀ (s : State) jn j, s.job jn = some j →
    (s.jobOver jn j = false → exec (.jobSinkWrite jn) s = .next s) ∧
    (s.jobOver jn j = true → s.mem.updates = [] → j.sinkKind = 2 → s.jobCounterMay j = false →
      exec (.jobSinkWrite jn) s = .next s) ∧
    (s.jobOver jn j = true → s.mem.updates = [] → (j.sinkKind = 2 → s.jobCounterMay j = true) →
      ∃ s' y, exec (.jobSinkWrite jn) s = .next s' ∧ s'.job jn = some y ∧ y.phase = .retired ∧
        (j.sinkKind = 0 → { s' with jobs := s.jobs } = s) ∧
        (∀ b, j.sinkKind = 1 → s.jobObject j = some b → Memory.wf (s.bankMem b.1) = true →
          s'.arrObj b = if j.stop = none then (s.arrObj b).arrive 1
            else if (s.arrObj b).status = 0 then { s.arrObj b with status := 4 } else s.arrObj b) ∧
        (j.sinkKind = 3 → s'.fw = (s.post (cardBits j.card 458 16) (cardBits j.card 474 8)
          (interruptRecord jn 0 0 (if j.stop = none then 0 else 4) j.part (cardBits j.card 474 8))).fw)))

/-- A thread in a saved context, or back from one, has what it had (R302 step 6). -/
structure SameSaved (a b : Thread) : Prop where
  gang   : b.gang = a.gang
  tid    : b.tid = a.tid
  pc     : b.pc = a.pc
  regs   : b.regs = a.regs
  preds  : b.preds = a.preds
  flg    : b.flg = a.flg
  frm    : b.frm = a.frm
  hnd    : b.hnd = a.hnd
  csp    : b.csp = a.csp
  choice : b.choice = a.choice
  faults : b.faults = a.faults
  priv   : b.priv = a.priv
  tokens : b.tokens = a.tokens

/-- Nothing outside a thread ends its wait: it watches nothing and waits for no counter (R199, R219). -/
def Undisturbed (th : Thread) : Prop := th.watch = none ∧ ∀ va v d, th.hold ≠ .wait (.cwait va v d)

/-- A count at a period boundary (R268). -/
def ruleRefill (budget : Nat) (left : Int) : Int :=
  if budget = 0 then left else if 0 < left then budget + min left budget else budget + left

/-- PARTITION_CREATE (R297, R299, R314 to R316). -/
def PartitionCreateClause : Prop :=
  (∀ (s : State) part desc (pages : List Nat),
    let start := desc.toNat / 2 ^ 8 % 16
    let size := [1, 2, 3, 4, 6, 12].getD (desc.toNat / 2 ^ 5 % 8) 0
    (desc.getLsbD 0 = false ∨ desc.extractLsb' 1 4 ≠ 0 ∨ size = 0 ∨ start % size ≠ 0 ∨ 12 < start + size ∨
        desc.extractLsb' 12 21 ≠ 0 ∨ 64 < desc.toNat / 2 ^ 33 % 128 ∨ 8 < desc.toNat / 2 ^ 40 % 16 ∨
        (s.part part).desc.getLsbD 0 = true ∨ s.fw.boot.step < 4 ∨
        (∃ q ∈ s.parts, q.2.desc.getLsbD 0 = true ∧ q.2.desc.extractLsb' 96 96 &&& desc.extractLsb' 96 96 ≠ 0) →
      exec (.partitionCreate part desc pages) s = .next s) ∧
    (descriptorOk desc = true → part < 32 → (s.part part).desc.getLsbD 0 = false → 4 ≤ s.fw.boot.step →
      (∀ i, start ≤ i → i < start + size → (s.isle i).outOf = false) →
      (∀ q ∈ s.parts, q.2.desc.getLsbD 0 = true → q.2.desc.extractLsb' 96 96 &&& desc.extractLsb' 96 96 = 0) →
      ∃ s', exec (.partitionCreate part desc pages) s = .next s' ∧
        { s'.part part with pages := [] } = { Partition.reset with desc := desc, saved := some Saved.empty } ∧
        (∀ n, (s'.part part).hasPage n = true ↔ n ∈ pages) ∧
        (∀ k, k ≠ part → s'.part k = s.part k) ∧ s'.mem.dram = s.mem.dram ∧
        (∀ key, key / 65536 ∈ pages → s'.dramLine key = 0#512) ∧
        ∀ key, key / 65536 ∉ pages → s'.dramLine key = s.dramLine key))

/-- PREEMPT, TIME_SLICE_EXPIRY, PREEMPT_STEP3_BOUND (R298, R302, R404). -/
def PreemptClause : Prop :=
  (∀ (s : State) part away, (s.part part).resident = false → exec (.preempt part away) s = .next s) ∧
  (∀ (s : State) part away, (s.part part).resident = true → (s.part part).halting = none → Tab.wf s.threads = true →
    (∀ t th, s.thread t = some th → s.partOf t = part → th.inSection = false) →
    (s.quiet part false = false → exec (.preempt part away) s = .next (s.setPart part
      { s.part part with halting := some (away, (s.isle (s.part part).first).counter) })) ∧
    (s.quiet part false = true → ∃ s' x, exec (.preempt part away) s = .next s' ∧ (s'.part part).resident = false ∧
      (s'.part part).halting = none ∧ (s'.part part).saved = some x ∧ x.switch = away ∧
      (∀ t th, s.thread t = some th → (s.jobOf t).isSome = true → s.partOf t = part → s'.thread t = none ∧
        ∃ a, Tab.get? x.threads t = some a ∧ (Undisturbed th → SameSaved th a) ∧ ∀ e ∈ a.psq, e.tent = true) ∧
      ∀ t th, s.thread t = some th → (s.jobOf t).isSome = true → s.partOf t ≠ part → (s'.thread t).isSome = true)) ∧
  (∀ (s : State) part away, exec (.timeSliceExpiry part away) s =
    if (s.part part).desc.toNat / 2 ^ 48 % 2 ^ 32 ≠ 0 ∧ (s.part part).halting = none ∧
      (s.part part).slice + (s.part part).desc.toNat / 2 ^ 48 % 2 ^ 32 ≤ (s.isle (s.part part).first).counter
    then exec (.preempt part away) s else .next s) ∧
  (∀ (s : State) part, (s.part part).halting = none → exec (.preemptStep3Bound part) s = .next s) ∧
  (∀ (s : State) part h, (s.part part).halting = some h →
    ((s.isle (s.part part).first).counter < h.2 + 2 ^ 24 ∨ s.quiet part true = false →
      exec (.preemptStep3Bound part) s = .next s) ∧
    (h.2 + 2 ^ 24 ≤ (s.isle (s.part part).first).counter → s.quiet part true = true →
      ∃ s' x, exec (.preemptStep3Bound part) s = .next s' ∧ (s'.part part).resident = false ∧
        (s'.part part).saved = some x ∧ x.switch = h.1 ∧
        ∀ id r, s.request id = some r → r.part = part → ∃ y, s'.request id = some y ∧ y.saved = true))

/-- RESUME (R304). -/
def ResumeClause : Prop :=
  (∀ (s : State) part, (s.part part).saved = none ∨ s.mayResume part = false → exec (.resume part) s = .next s) ∧
  (∀ (s : State) part x, (s.part part).saved = some x → s.mayResume part = true → Tab.wf x.threads = true →
    x.poisonedCores = [] → x.poisonedLagoon = false →
    ∃ s', exec (.resume part) s = .next s' ∧ (s'.part part).resident = true ∧ (s'.part part).saved = none ∧
      ∀ t th, Tab.get? x.threads t = some th → Undisturbed th →
        s'.thread t = some { th with hold := match th.hold with | .sleep _ => .none | h => h })

/-- PARTITION_DESTROY (R314). -/
def PartitionDestroyClause : Prop :=
  (∀ (s : State) part, (s.part part).desc.getLsbD 0 = false → exec (.partitionDestroy part) s = .next s) ∧
  (∀ (s : State) part, (s.part part).desc.getLsbD 0 = true → (s.part part).resident = false →
    ∃ s', exec (.partitionDestroy part) s = .next s' ∧ (s'.part part).desc.getLsbD 0 = false ∧
      (s'.part part).saved = none ∧ (s'.part part).vdevs = [] ∧ (s'.part part).streams = [] ∧
      (∀ n j, s'.job n = some j → j.part ≠ part) ∧ (∀ id r, s'.request id = some r → r.part ≠ part) ∧
      (∀ c ∈ (s.part part).cores, ∀ l ∈ (s'.core c).l1, l.asid ∉ (s.part part).asids) ∧
      (∀ e ∈ s'.mem.tlb, e.asid ∉ (s.part part).asids) ∧
      (s'.part part).usage.ring.length = (s.part part).usage.ring.length + 1)

/-- BUDGET_PERIOD_REFILL (R267, R268). -/
def BudgetRefillClause : Prop :=
  (∀ (s : State) isle part p, s.parts.filter (fun x => x.2.holdsIsle isle) = [(part, p)] → Tab.wf s.parts = true →
    p.resident = true → Tab.wf p.vdevs = true →
    if (s.isle isle).counter % 65536 = 0 then
      ∃ s', exec (.budgetPeriodRefill isle) s = .next s' ∧ { s' with isles := s.isles } = s ∧
        ∀ v d, Tab.get? p.vdevs v = some d → d.desc.getLsbD 0 = true → ∃ b, Tab.get? (s'.isle isle).budgets v = some b ∧
          b.cpyb = ruleRefill (d.desc.toNat / 2 ^ 32 % 2 ^ 32) (s.remaining isle part v).cpyb ∧
          b.netb = ruleRefill (d.desc.toNat / 2 ^ 64 % 2 ^ 32) (s.remaining isle part v).netb ∧
          b.tier2b = ruleRefill (d.desc.toNat / 2 ^ 96 % 2 ^ 32) (s.remaining isle part v).tier2b ∧
          b.strb = ruleRefill (d.desc.toNat / 2 ^ 128 % 2 ^ 32) (s.remaining isle part v).strb
    else exec (.budgetPeriodRefill isle) s = .next s)

/-- USAGE_RECORD_EMIT (R310 to R313). -/
def UsageRecordClause : Prop :=
  (∀ (s : State) part kind,
    if (s.part part).desc.getLsbD 0 = true ∧ kind ≤ 1 ∧ (kind = 0 → (s.isle (s.part part).first).counter % 2 ^ 24 = 0) then
      ∃ (s' : State) (r : BitVec 32768), exec (.usageRecordEmit part kind) s = .next s' ∧ { s' with parts := s.parts, sched := s.sched } = s ∧
        (s'.part part).usage.ring = (s.part part).usage.ring ++ [r] ∧
        r.toNat % 2 ^ 64 = (s.part part).usage.seq % 2 ^ 64 ∧ r.toNat / 2 ^ 64 % 2 ^ 8 = kind ∧
        r.toNat / 2 ^ 192 % 2 ^ 64 = (s.part part).usage.groups % 2 ^ 64 ∧
        r.toNat / 2 ^ 320 % 2 ^ 64 = (s.part part).usage.tier1 % 2 ^ 64 ∧
        r.toNat / 2 ^ 384 % 2 ^ 64 = (s.part part).usage.tier2 % 2 ^ 64 ∧
        r.toNat / 2 ^ 448 % 2 ^ 64 = (s.part part).usage.fabb % 2 ^ 64 ∧
        r.toNat / 2 ^ 576 % 2 ^ 64 = (s.part part).usage.cwb % 2 ^ 64 ∧
        r.toNat / 2 ^ 4736 % 2 ^ 384 = (s.part part).usage.prev.toNat ∧
        (s'.part part).usage.groups = 0 ∧ (s'.part part).usage.seq = (s.part part).usage.seq + 1 ∧
        (s'.part part).usage.prev = Config.sha384 (r.setWidth 31592)
    else exec (.usageRecordEmit part kind) s = .next s)

/-- Partitions, budgets and usage (R267, R268, R296 to R305, R310 to R314, R404). -/
def Obligations.PartitionsComeAndGo : Prop :=
  PartitionCreateClause ∧ PreemptClause ∧ ResumeClause ∧ PartitionDestroyClause ∧ BudgetRefillClause ∧ UsageRecordClause

/-- PTE_INSTALL, PAGE_PURGE, REMAP_REGISTER, KEY_SLOT_LOAD, REPLICA_HOLD_SET and RELEASE (R51, R52, R56, R57, R307, R323,
R348, R391, R392). -/
def Obligations.PagesKeysAndHolds : Prop :=
  (∀ (s : State) asid va pte part x, s.partOfAsid asid = some part → s.pteSlot part asid va = some x →
    Memory.wf s.mem.dram = true → x.pa % 8 = 0 → s.lineUnscrubbed x.pa = false →
    (if pteV x.entry = false ∧ x.takes pte = true ∧ s.pageRefused part pte va = false then
      ∃ s', exec (.pteInstall asid va pte) s = .next s' ∧ { s' with mem := s.mem, parts := s.parts } = s ∧
        BytesReplaced s.mem.dram s'.mem.dram x.pa (bytesOf pte.toNat 8) ∧
        (∀ n ∈ s.newPages pte va, (s'.part part).hasPage n = true ∧ ∀ key, key / 65536 = n → s'.dramLine key = 0#512) ∧
        ∀ k, k ≠ part → s'.part k = s.part k
    else exec (.pteInstall asid va pte) s = .next s) ∧
    (pteV x.entry = true → x.leaf = some (ptePs x.entry) → x.takes pte = true → s.pageRefused part pte va = false →
      let g := s.pageOf part asid va x.entry
      ∃ s', exec (.pagePurge asid va pte) s = .next s' ∧ Memory.readNat s'.mem.dram x.pa 8 = pte.toNat ∧
        (∀ c ∈ (s.part part).cores, ∀ l ∈ (s'.core c).l1,
          ¬ (g.key ≤ dramKey l.pte (64 * l.line) ∧ dramKey l.pte (64 * l.line) < g.key + g.size)) ∧
        (∀ c ∈ (s.part part).cores, ∀ e ∈ (s'.core c).wtq,
          ¬ (g.key ≤ dramKey e.pte (16 * e.block) ∧ dramKey e.pte (16 * e.block) < g.key + g.size)) ∧
        ∀ e ∈ s'.mem.tlb, e.asid = asid → ¬ (g.va ≤ e.va ∧ e.va < g.va + g.size)) ∧
    (pteV x.entry = false → exec (.pagePurge asid va pte) s = .next s)) ∧
  (∀ (s : State) asid va pte, s.partOfAsid asid = none →
    exec (.pteInstall asid va pte) s = .next s ∧ exec (.pagePurge asid va pte) s = .next s) ∧
  (∀ (s : State) part (y : RemapPair), ∃ s', exec (.remapRegister part y) s = .next s' ∧ { s' with parts := s.parts } = s ∧
    (s'.part part).pm.remap = (if 1024 ≤ (s.part part).pm.remap.length then (s.part part).pm.remap
      else (s.part part).pm.remap ++ [{ asid := y.asid, page := y.page, pasid := y.pasid, ppage := y.ppage, size := y.size }]) ∧
    ∀ k, k ≠ part → s'.part k = s.part k) ∧
  (∀ (s : State) slot blob, slot < 16 → Sparse.wf s.fw.keys = true → s.slotNamed slot = false →
    ∃ k, exec (.keySlotLoad slot blob) s = .next (s.setFw { s.fw with keys := k }) ∧
      ∀ n, Sparse.get k n = if n = slot then Config.unseal blob else Sparse.get s.fw.keys n) ∧
  (∀ (s : State) slot blob, slot < 16 → s.slotNamed slot = true → exec (.keySlotLoad slot blob) s = .next s) ∧
  (∀ (s : State) part die line stall,
    let h : ReplicaHold := { part := part, die := die, line := line, atStall := stall }
    ∃ m, exec (.replicaHoldSet part die line stall) s = .next (s.setMem m) ∧ h ∈ m.holds ∧
      { m with holds := s.mem.holds } = s.mem ∧ ∀ x, x ∈ m.holds ↔ x = h ∨ x ∈ s.mem.holds) ∧
  (∀ (s : State) part die, ∃ s', exec (.replicaHoldRelease part die) s = .next s' ∧ s'.mem.dram = s.mem.dram ∧
    (∀ x, x ∈ s'.mem.holds ↔ x ∈ s.mem.holds ∧ ¬ (x.part = part ∧ x.die = die)) ∧
    (s.mem.updates = [] → { s' with mem := s.mem } = s))

/-- A thread at whose boundary a pending fault may be delivered at once (R364): ready, or in a wait that ends without a
record of its own. -/
structure AtBoundary (s : State) (t : Nat) (th : Thread) : Prop where
  thread  : s.thread t = some th
  waits   : th.hold = .none ∨ (∃ acc p d tg sc, th.hold = .wait (.barw acc p d tg sc)) ∨ ∃ va v d, th.hold = .wait (.cwait va v d)
  stopped : s.stoppedThread t = false

/-- A set of waiting threads each of whose records names a signaller in the set (R271). -/
def ClosedSet (s : State) (part : Nat) (ts : List Nat) : Prop :=
  ∀ t ∈ ts, (∃ r ∈ s.waitRecords part, r.waiter = t) ∧
    ∀ r ∈ s.waitRecords part, r.waiter = t → (s.contextOf part).signalInside ts r = true

/-- A step of the debugger that changes one gang. -/
def SetsGang (i : Instr) (s : State) (gang : Nat) (g : Gang) : Prop :=
  ∃ s', exec i s = .next s' ∧ { s' with gangs := s.gangs } = s ∧ s'.gang gang = some g ∧
    ∀ k, k ≠ gang → s'.gang k = s.gang k

/-- The tenant of a gang's partition has authorised the debugger (R321). -/
def Authorised (s : State) (g : Gang) : Prop := ∃ j, s.job g.job = some j ∧ (s.part j.part).authorised = true

/-- A thread of a gang that a single step may select (R322). -/
def MayStep (s : State) (gang t : Nat) (th : Thread) : Prop :=
  s.thread t = some th ∧ th.gang = gang ∧ s.stepReady t th = true

/-- ASYNC_FAULT_DELIVER, BREAK_WAIT, WAIT_FOR_WALK, the debugger (R146, R271, R321, R322, R364, R400, R401, R409). -/
def Obligations.OutsideStepsOnThreads : Prop :=
  (∀ (s : State) t th f, AtBoundary s t th → Deliverable s th → th.asyncs = [f] → f.async = true → f.decoded = false → f.code < 256 →
    ∃ s' b, exec (.asyncFaultDeliver t) s = .next s' ∧ s'.thread t = some b ∧ b.pc = th.hnd.setWidth 56 ∧ b.asyncs = [] ∧
      b.faults.fcause = BitVec.ofNat 32 (f.code + 256) ∧ b.faults.fpc = th.pc.setWidth 64 ∧ b.faults.fopc = 0#32 ∧
      b.faults.fopa = 0#64 ∧ b.faults.finfo = f.info ∧ b.faults.faddrl = f.addr.setWidth 32 ∧ b.faults.inh = true ∧
      b.hold = .none ∧ b.regs = th.regs ∧ b.preds = th.preds ∧ s'.mem = s.mem ∧ ∀ u, u ≠ t → s'.thread u = s.thread u) ∧
  (∀ (s : State) t th, s.thread t = some th →
    (th.faults.inh = true ∧ ∀ f ∈ th.asyncs, f.async = true) ∨ s.stoppedThread t = true ∨ th.asyncs = [] →
    exec (.asyncFaultDeliver t) s = .next s) ∧
  (∀ (s : State) t th, AtBoundary s t th → Deliverable s th → th.hold ≠ .none →
    ∃ s' b, exec (.breakWait t) s = .next s' ∧ s'.thread t = some b ∧ b.pc = th.hnd.setWidth 56 ∧ b.hold = .none ∧
      b.faults.fcause = BitVec.ofNat 32 Code.waitBroken ∧ b.faults.fpc = th.pc.setWidth 64 ∧ b.faults.inh = true ∧
      ((∃ acc p d tg sc, th.hold = .wait (.barw acc p d tg sc)) → b.faults.finfo = 0#32) ∧
      ((∃ va v d, th.hold = .wait (.cwait va v d)) → b.faults.finfo = 2#32) ∧
      b.regs = th.regs ∧ s'.mem = s.mem ∧ ∀ u, u ≠ t → s'.thread u = s.thread u) ∧
  (∀ (s : State) t th, s.thread t = some th → th.hold = .none → th.longs = [] → exec (.breakWait t) s = .next s) ∧
  (∀ (s : State) isle, (s.isle isle).counter % 2 ^ 20 ≠ 0 → exec (.waitForWalk isle) s = .next s) ∧
  (∀ (s : State) isle part p, (s.isle isle).counter % 2 ^ 20 = 0 → Tab.wf s.parts = true →
    s.parts.filter (fun x => x.2.first == isle && natBits x.2.desc.toNat 0 1 == 1) = [(part, p)] →
    (∀ n ∈ p.isles, (s.isle n).waits.length ≤ 262144) →
    ∃ s' ks, exec (.waitForWalk isle) s = .next s' ∧
      (∀ r, r ∈ ks ↔ r ∈ s.waitRecords part ∧ ∃ ts, ClosedSet s part ts ∧ r.waiter ∈ ts) ∧
      { s' with parts := s.parts, fw := s.fw } = s ∧
      if ks ≠ [] ∧ sameRecords ks p.knots.candidate = true ∧ sameRecords ks p.knots.reported = false then
        (s'.part part).knots.candidate = ks ∧ (s'.part part).knots.reported = ks ∧
        (s'.part part).knots.number = (p.knots.number + 1) % 2 ^ 32 ∧
        (Tab.get? (s'.part part).knots.kept p.knots.number).map (·.map Prod.fst) = some ks
      else s'.fw = s.fw ∧ (s'.part part).knots = { p.knots with candidate := ks }) ∧
  (∀ (s : State) gang g, s.gang gang = some g → Authorised s g →
    SetsGang (.debugStop gang) s gang { g with stopped := true } ∧
    SetsGang (.debugRelease gang) s gang { g with stopped := false } ∧
    ∀ on, SetsGang (.debugStopEnable gang on) s gang { g with debug := on }) ∧
  (∀ (s : State) gang g w pc on, s.gang gang = some g → ¬ Authorised s g →
    exec (.debugStop gang) s = .next s ∧ exec (.debugRelease gang) s = .next s ∧
    exec (.debugStopEnable gang on) s = .next s ∧ exec (.debugStateWrite gang w) s = .next s ∧
    exec (.singleStep gang pc) s = .next s) ∧
  (∀ (s : State) gang g w, s.gang gang = some g → g.stopped = false → exec (.debugStateWrite gang w) s = .next s) ∧
  (∀ (s : State) gang g t th, s.gang gang = some g → Authorised s g → g.stopped = true → s.thread t = some th → th.gang = gang →
    Sparse.wf th.regs = true → Memory.wf th.priv = true →
    (∀ (r : Reg) v, ∃ b, exec (.debugStateWrite gang (.reg t r v)) s = .next (s.setThread t b) ∧
      ∀ n, b.reg n = (put r.toNat v n).getD (th.reg n)) ∧
    (∀ p v, ∃ b, exec (.debugStateWrite gang (.pred t p v)) s = .next (s.setThread t b) ∧
      ∀ n, b.pred n = (putPred p v n).getD (th.pred n)) ∧
    (∀ v, exec (.debugStateWrite gang (.special t 0x014#12 v)) s = .next (s.setThread t { th with csp := v.setWidth 32 })) ∧
    (∀ v, exec (.debugStateWrite gang (.special t 0x015#12 v)) s = .next (s.setThread t { th with hnd := v })) ∧
    (∀ v, exec (.debugStateWrite gang (.special t 0x017#12 v)) s =
      .next (s.setThread t (if v.toNat % 2 ^ 32 ≤ 4 then { th with frm := v.setWidth 32 } else th))) ∧
    (∀ v, exec (.debugStateWrite gang (.special t 0x019#12 v)) s =
      .next (s.setThread t { th with cych := some (v.setWidth 32) })) ∧
    (∀ v, exec (.debugStateWrite gang (.special t 0x021#12 v)) s =
      .next (s.setThread t { th with faults := { th.faults with fpc := v } })) ∧
    (∀ off v, off < s.privBytes t → ∃ b, exec (.debugStateWrite gang (.priv t off v)) s = .next (s.setThread t b) ∧
      b.regs = th.regs ∧ ∀ n, Memory.read b.priv n = if n = off then v else Memory.read th.priv n)) ∧
  (∀ (s : State) gang g v, s.gang gang = some g → Authorised s g → g.stopped = true →
    SetsGang (.debugStateWrite gang (.special 0 0x00D#12 v)) s gang { g with argp := v }) ∧
  (∀ (s : State) gang g off v, s.gang gang = some g → Authorised s g → g.stopped = true → off < s.gangScratch gang →
    Memory.wf g.scratch = true →
    ∃ s' y, exec (.debugStateWrite gang (.scratch off v)) s = .next s' ∧ s'.gang gang = some y ∧
      ∀ n, Memory.read y.scratch n = if n = off then v else Memory.read g.scratch n) ∧
  (∀ (s : State) gang g pc, s.gang gang = some g → g.stopped = false → exec (.singleStep gang pc) s = .next s) ∧
  (∀ (s : State) gang g at_ pc, s.gang gang = some g → Authorised s g → g.stopped = true → g.phase = .running →
    s.halting g = false → Tab.wf s.threads = true →
    at_ = some pc ∨ at_ = none ∧ (∃ t th, MayStep s gang t th ∧ th.pc = pc) ∧
      (∀ t th, MayStep s gang t th → pc.toNat ≤ th.pc.toNat) →
    (∀ t th, s.thread t = some th → th.gang = gang → (∀ o ∈ th.longs, o.blocksFault = false) ∧ th.asyncs = [] ∧
      ∃ w, s.fetch t pc = .word w) →
    ∃ gs : List (List Nat),
      exec (.singleStep gang at_) s = .next (s.sooner (gs.flatMap fun m => [Turn.group m, Turn.stepEnd m])) ∧
      (∀ t, (∃ m ∈ gs, t ∈ m) ↔ ∃ th, MayStep s gang t th ∧ th.pc = pc) ∧
      (∀ m ∈ gs, (m.map laneOf).Pairwise (· < ·)) ∧
      gs.Pairwise fun m n => ∀ t ∈ m, ∀ u ∈ n, t ≠ u ∧ (laneOf t = laneOf u → t < u))

/-- PACKAGE_RESET, BRING_UP_END, power, telemetry, SCRUB, DIE_WARM_RESET (R7, R315 to R320, R384, R393, R413 to R420). -/
def Obligations.FirmwareStepsOnTheMachine : Prop :=
  (∀ (s : State) b, ∃ s', exec (.packageReset b) s = .next s' ∧
    { s' with isles := [], parts := [], fw := State.reset.fw, sched := State.reset.sched } = { State.reset with caps := s.caps } ∧
    s'.fw.boot.step = (if b.headerOk = false then 1 else if b.imageOk = false then 2 else 3) ∧
    s'.fw.boot.measurements = (if b.headerOk = false then [] else if b.imageOk = false then [b.headerHash] else [b.headerHash, b.imageHash]) ∧
    (if b.headerOk = true ∧ b.imageOk = true then
      s'.parts = [(0, bringUpPartition)] ∧ (s'.isle 0).bring = true ∧ (s'.isle 0).power = .run ∧
      (∀ n, 0 < n → Port.memory n ∈ b.failed →
        (s'.isle n).outOf = true ∧ (s'.isle n).power = .off ∧ (s'.isle n).telemetry.toNat % 4 = 3) ∧
      (b.failed = [] → s'.fw.log = [])
    else s'.parts = [] ∧ s'.isles = [])) ∧
  (∀ (s : State), s.fw.boot.step ≠ 3 ∨ (∃ n, Port.strait n ∈ s.fw.boot.failed) → exec .bringUpEnd s = .next s) ∧
  (∀ (s : State), s.fw.boot.step = 3 → s.fw.boot.failed = [] → (s.part 0).resident = false →
    ∃ s', exec .bringUpEnd s = .next s' ∧ s'.fw.boot.step = 4 ∧ (s'.isle 0).counter = 0 ∧ (s'.isle 0).power = .run ∧
      (s'.isle 0).lagoon = [] ∧ (s'.part 0).bring = false ∧ ∀ n, n ≠ 0 → s'.isle n = s.isle n) ∧
  (∀ (s : State) isle, isle < 12 → (s.isle isle).power = .run →
    (s.residentOn isle = true → ∀ p, exec (.islePowerChange isle p) s = .next s) ∧
    (s.residentOn isle = false →
      exec (.islePowerChange isle 1) s = .next (s.setIsle isle { s.isle isle with power := .gated }) ∧
      exec (.islePowerChange isle 2) s = .next (s.setIsle isle { s.isle isle with power := .retain }) ∧
      ∃ s', exec (.islePowerChange isle 3) s = .next s' ∧ (s'.isle isle).power = .off ∧ (s'.isle isle).lagoon = [] ∧
        (s'.isle isle).telemetry.toNat % 4 = 3 ∧ (∀ c, 32 * isle ≤ c → c < 32 * isle + 32 → s'.core c = Core.reset) ∧ s'.mem.dram = s.mem.dram)) ∧
  (∀ (s : State) isle, isle < 12 → s.mayRun isle = true →
    ((s.isle isle).power = .gated ∨ (s.isle isle).power = .retain →
      exec (.islePowerChange isle 0) s = .next (s.setIsle isle { s.isle isle with power := .run })) ∧
    ((s.isle isle).power = .off → ∃ s', exec (.islePowerChange isle 0) s = .next s' ∧ (s'.isle isle).power = .run ∧
      (s'.isle isle).counter = 0 ∧ (s'.isle isle).lagoon = [] ∧ s'.mem.dram = s.mem.dram)) ∧
  (∀ (s : State) isle p, 4 ≤ p → exec (.islePowerChange isle p) s = .next s) ∧
  (∀ (s : State) die, s.partsOnDie die = [] →
    ∃ s', exec (.dieOvertemp die) s = .next s' ∧ die ∈ s'.fw.hot ∧ { s' with isles := s.isles, fw := s.fw } = s ∧
      ∀ n, s'.isle n = if n / 3 = die ∧ (s.isle n).power = .run then { s.isle n with power := .gated } else s.isle n) ∧
  (∀ (s : State) die, die ∉ s.fw.hot → exec (.dieTempRecover die) s = .next s) ∧
  (∀ (s : State) die, die ∈ s.fw.hot → die ∉ s.fw.reset → die ∉ s.fw.dead →
    ∃ s', exec (.dieTempRecover die) s = .next s' ∧ die ∉ s'.fw.hot ∧
      ∀ n, s'.isle n = if n / 3 = die ∧ (s.isle n).power = .gated ∧ (s.isle n).outOf = false
        then { s.isle n with power := .run } else s.isle n) ∧
  (∀ (s : State) isle,
    exec (.dramOvertemp isle) s = .next (s.setIsle isle { s.isle isle with refx2 := true }) ∧
    exec (.dramTempRecover isle) s = .next (s.setIsle isle { s.isle isle with refx2 := false })) ∧
  (∀ (s : State) isle,
    if (s.isle isle).counter % 65536 = 0 then
      ∃ s', exec (.telemetryRefresh isle) s = .next s' ∧ { s' with isles := s.isles, sched := s.sched } = s ∧
        let n := (s'.isle isle).telemetry.toNat
        n % 4 = (match (s.isle isle).power with | .run => 0 | .gated => 1 | .retain => 2 | .off => 3) ∧
        n / 8 % 2 = bit (s.isle isle).refx2 ∧ n / 2 ^ 128 % 2 ^ 32 = (s.isle isle).decc.toNat ∧
        n / 2 ^ 160 % 2 ^ 32 = (s.isle isle).cecc.toNat ∧ n / 2 ^ 192 % 2 ^ 64 = (s.isle isle).counter % 2 ^ 64 ∧
        (s'.isle isle).counter = (s.isle isle).counter ∧ (∀ k, k ≠ isle → s'.isle k = s.isle k)
    else exec (.telemetryRefresh isle) s = .next s) ∧
  (∀ (s : State) t, s.isleAbsent t.isle = true → ∀ r, exec (.scrub t r) s = .next s) ∧
  (∀ (s : State) t, s.isleAbsent t.isle = false → exec (.scrub t .clean) s = .next s ∧
    ∃ x, exec (.scrub t .corrected) s = .next (s.setIsle t.isle x) ∧
      (if t.inDram = true then x = { s.isle t.isle with decc := (s.isle t.isle).decc + 1#32 }
       else x = { s.isle t.isle with cecc := (s.isle t.isle).cecc + 1#32 })) ∧
  (∀ (s : State) n key, s.isleAbsent n = false → s.lineUnscrubbed key = false →
    ∃ s', exec (.scrub (.dram n key) .uncorrectable) s = .next s' ∧ s'.linePoisoned key = true ∧ s'.mem.dram = s.mem.dram ∧
      (∀ k, k / 64 ≠ key / 64 → s'.linePoisoned k = s.linePoisoned k) ∧
      s'.fw = (s.log 0x01 (.frontEnd n) none (key / 64 * 64) 0).fw) ∧
  (∀ (s : State) t th (r : Reg), s.isleAbsent (isleOf (coreOf t)) = false → s.thread t = some th →
    ∃ s', exec (.scrub (.reg t r) .uncorrectable) s = .next s' ∧
      s'.thread t = some { th with poison := addOnce th.poison r.toNat } ∧
      s'.fw = (s.log 0x01 (.core (coreOf t)) (some (s.partOf t)) 0 0).fw) ∧
  (∀ (s : State) die, die ∉ s.fw.reset →
    (s.dieQuiet die = false → exec (.dieWarmReset die .reset) s = .next s) ∧
    (s.dieQuiet die = true → ∃ s', exec (.dieWarmReset die .reset) s = .next s' ∧ die ∈ s'.fw.reset ∧
      (∀ n, n / 3 = die → (s'.isle n).power = .off ∧ (s'.isle n).counter = 0 ∧ (s'.isle n).lagoon = []) ∧
      (∀ c, c / 96 = die → s'.core c = Core.reset) ∧ ∀ r ∈ s'.mem.replicas, r.die ≠ die) ∧
    exec (.dieWarmReset die .readmit) s = .next s ∧ exec (.dieWarmReset die .fail) s = .next s) ∧
  (∀ (s : State) die c, die ∈ s.fw.reset ∨ die ∈ s.fw.dead → exec (.dieWarmReset die (.start c)) s = .next s) ∧
  (∀ (s : State) die, die ∈ s.fw.reset →
    (∃ s', exec (.dieWarmReset die .readmit) s = .next s' ∧ die ∉ s'.fw.reset ∧
      ∀ n, n / 3 = die → (s.isle n).outOf = false → (s'.isle n).power = if die ∈ s.fw.hot then .gated else .run) ∧
    (∃ s', exec (.dieWarmReset die .fail) s = .next s' ∧ die ∉ s'.fw.reset ∧ die ∈ s'.fw.dead ∧
      ∀ n, n / 3 = die → (s'.isle n).outOf = true ∧ (s'.isle n).power = .off) ∧
    ∀ p l, exec (.dieWarmReset die (.repaired p l)) s =
      .next (s.log 0x1A (.control die 0) none 0 (Config.portNumber (4 + portDetail p) l)))

/-- One step: the due turn, or the issue cycle's group, runs what its word decodes to (R21, R120, R136, R363). The order of
turns is the model's (log 4). -/
def Obligations.StepRunsTheDecodedInstruction : Prop :=
  (∀ (s : State) e rest, s.sched.agenda = .event e :: rest →
    step s = exec e s.popTurn ∧ s.popTurn.sched.agenda = rest ∧ { s.popTurn with sched := s.sched } = s) ∧
  (∀ (s : State) t ts rest pc w, s.sched.agenda = .group (t :: ts) :: rest → s.fetch t pc = .word w →
    (∀ u ∈ t :: ts, ∃ th, s.thread u = some th ∧ th.pc = pc ∧ (th.hold = .none ∨ th.hold = .replay)) →
    let iss : Issue := { core := coreOf t, pc := pc, word := w, members := t :: ts }
    (∀ i, decode (s.regCount t) w = .ok i → step s = exec i (s.popTurn.latch iss)) ∧
    (∀ e, decode (s.regCount t) w = .error e → step s = .next ((s.popTurn.latch iss).illegalGroup e iss))) ∧
  (∀ (s s' : State) iss, (s.sched.agenda = [] ∨ ∃ rest, s.sched.agenda = .issue :: rest) → s.popTurn.nextIssue = .group iss s' →
    (∀ i, decode (s'.regCount (iss.members.headD 0)) iss.word = .ok i → step s = exec i s') ∧
    (∀ e, decode (s'.regCount (iss.members.headD 0)) iss.word = .error e → step s = .next (s'.illegalGroup e iss))) ∧
  (∀ (s : State) part on rest, s.sched.agenda = .input (.authorise part on) :: rest →
    step s = .next (s.popTurn.setPart part { s.part part with authorised := on })) ∧
  (∀ (s : State) port rest, s.sched.agenda = .input (.udpPort port) :: rest →
    step s = .next (s.popTurn.setNet { s.net with udp := port })) ∧
  (∀ (s : State) d r n clear rest, s.sched.agenda = .input (.runtimeTakes d n clear) :: rest →
    Tab.get? s.fw.runtimes d = some r → r.entered = true → n ≤ r.count →
    ∃ r', step s = .next (s.popTurn.setFw { s.fw with runtimes := Tab.set s.fw.runtimes d r' }) ∧
      r'.head = r.head + BitVec.ofNat 32 n ∧ r'.tail = r.tail ∧ r'.ring = r.ring ∧ r'.running = r.running ∧
      r'.pending = r.pending &&& ~~~clear ∧ r'.overflow = r.overflow &&& ~~~clear) ∧
  (∀ (s : State) (w : BitVec 96) i, decode 512 w = .ok i →
    step (s.withFetchWord 96 w.toNat) = exec i ((s.withFetchWord 96 w.toNat).popTurn.latch
      { core := 0, pc := BitVec.ofNat 56 fetchBase, word := w, members := [0] }))

/-- The decoder and the encoder agree on every word and every instruction (R120 to R123, R363). -/
def Obligations.EncodeAndDecodeAgree : Prop :=
  (∀ rc w i, decode rc w = .ok i ↔ encode i = some w ∧ i.wf rc = true) ∧
  ∀ rc w i rest, encode i = some w → i.wf rc = true → decodeBytes rc (bytesOfWord w ++ rest) = .ok (i, rest)

/-- A word from its three little-endian 32-bit words (R120). -/
def wordOf (a b c : Nat) : BitVec 96 := BitVec.ofNat 96 (a + 2 ^ 32 * b + 2 ^ 64 * c)

/-- The header of an unguarded instruction without hints. -/
def plainHdr : Hdr := { neg := false, pred := 7#3, keep := .none, look := 0#4, yld := false, solo := false }

/-- Words of the spec's examples and of R363. -/
def Obligations.DecodeWords : Prop :=
  decode 512 (wordOf 0x14027160 0x02800800 0) =
    .ok (.ldAfter plainHdr { space := .glb, width := .w32, hint := 0#2, d := 2#9, a := .reg 10#9, off := 0#32 }) ∧
  decode 512 (wordOf 0x10057061 0x02800800 0x40) =
    .ok (.st plainHdr { space := .glb, width := .w32, hint := 0#2, d := 5#9, a := .reg 8#9, off := 0x40#32 }) ∧
  decode 512 (wordOf 0x10047071 0x23800018 0) =
    .ok (.atomcas plainHdr { space := .glb, width := .w64, scope := 4#3, hint := 0#2, d := 4#9, a := .reg 8#9, b := 6#9, off := 0#32 }) ∧
  decode 512 (wordOf 0x160A7043 0x01200030 0) =
    .ok (.fma plainHdr { rnd := .rz, na := true, aa := false, nb := false, ab := false, sat := false, d := 10#9, a := .reg 11#9,
                         b := .reg 12#9 }) ∧
  decode 512 (wordOf 0x02007003 0x00600800 0x12) = .ok (.brt plainHdr { a := 1#9, off := 0x12#32, count := 3#11 }) ∧
  decode 512 (wordOf 0x10147090 0x38000028 0x1000) =
    .ok (.copy plainHdr { kind := .token, target := .none, sc := 4#3, ss := 3#2, ds := 0#2, d := 20#9, a := 8#9, b := 10#9,
                          len := 0x1000#32 }) ∧
  decode 512 (wordOf 0x001470C0 0x42201800 0x2D) =
    .ok (.tryAlt plainHdr { cnt := 1#4, wlen := 1#5, steal := true, d := 20#9, off := 0x2D#32 }) ∧
  decode 512 (wordOf 0x000770C4 0 0) = .ok (.steal plainHdr { d := 7#9 }) ∧
  decode 512 0#96 = .ok (.nop { plainHdr with pred := 0#3 }) ∧
  decode 512 (BitVec.allOnes 96) = .error .illegalOp

/-- The groups of the issue cycle and the end of a cycle (R5, R22, R23, R318). -/
def Obligations.IssueCycleFormsGroups : Prop :=
  (∀ (s s' : State) iss, Tab.wf s.threads = true → s.nextIssue = .group iss s' →
    s'.sched.issue = some iss ∧ 0 < iss.members.length ∧ iss.members.length ≤ 32 ∧
    (iss.members.map laneOf).Pairwise (· < ·) ∧
    { s' with cores := s.cores, parts := s.parts, sched := s.sched } = s ∧
    ∃ job, ∀ t ∈ iss.members, coreOf t = iss.core ∧ t ∉ s.sched.chosen ∧ t ∈ s'.sched.chosen ∧
      s.fetch t iss.pc = .word iss.word ∧
      ∃ th g, s.thread t = some th ∧ s.awake t th = true ∧ th.pc = iss.pc ∧ s.gang th.gang = some g ∧ g.job = job) ∧
  ∀ (s s1 : State), s.sched.agenda = [] → s.popTurn.nextIssue = .done s1 →
    ∃ s', step s = .next s' ∧ s'.net.cycle = s.net.cycle + 2 ∧ s'.sched.issue = none ∧ s'.sched.chosen = [] ∧
      s'.sched.core = 0 ∧ s'.sched.port = 0 ∧
      ∀ n, n < 12 → (s'.isle n).power = (s.isle n).power ∧
        (s'.isle n).counter = if (s.isle n).power = .off then (s.isle n).counter else (s.isle n).counter + 1

/-- The machine after reset (R5, R9, R320, Tables 15-2 and 16-3). DRAM and caches are the model's choice (log 1, log 2). -/
def Obligations.ResetHolds : Prop :=
  State.reset.caps = 0xF#32 ∧
  (∀ n, (State.reset.isle n).power = .run ∧ (State.reset.isle n).counter = 0 ∧ (State.reset.isle n).telemetry = 0#256) ∧
  (∀ p, (State.reset.part p).desc = BitVec.ofNat 192 (4 * 2 ^ 40) ∧ (State.reset.part p).valid = false ∧
    (State.reset.part p).resident = false) ∧
  State.reset.threads = [] ∧ State.reset.gangs = [] ∧ State.reset.jobs = [] ∧ State.reset.reqs = [] ∧ State.reset.msgs = [] ∧
  State.reset.net.cycle = 0 ∧ (∀ a, Memory.read State.reset.mem.dram a = 0#8) ∧ ∀ c, State.reset.core c = Core.reset

/-- The invariant holds after reset (R9; the canonical form is the model's own). -/
def Obligations.ResetMeetsInv : Prop := State.reset.Inv

/-- No step breaks the canonical form of DRAM, and none writes CAPS (R9). -/
def Obligations.EveryStepKeepsDramAndCaps : Prop :=
  ∀ s s' : State, step s = .next s' → s'.caps = s.caps ∧ (Memory.wf s.mem.dram = true → Memory.wf s'.mem.dram = true)

/-- The invariant is kept by every step (R9, R20, R303; the canonical form is the model's own). -/
def Obligations.EveryStepKeepsInv : Prop := ∀ s s' : State, s.Inv → step s = .next s' → s'.Inv

end
end

