-- ==== Sys2Proof/Laws/Store.lean ====
section
/-! SUPPORT. The laws of tables, sparse stores and byte memory: a read after a write, what a write leaves alone, and
that every operation keeps the canonical form. -/

namespace Sys2Proof.Machine

/-! ## Tables -/

@[simp] theorem Tab.get?_set_same {α : Type} (t : Tab α) (k : Nat) (v : α) :
    Tab.get? (Tab.set t k v) k = some v := by
  induction t with
  | nil => simp [Tab.set, Tab.get?]
  | cons p rest ih =>
    obtain ⟨j, u⟩ := p
    unfold Tab.set
    split
    · simp [Tab.get?]
    · split
      · simp [Tab.get?]
      · simp [Tab.get?, *]

theorem Tab.get?_set_other {α : Type} (t : Tab α) (k j : Nat) (v : α) (h : j ≠ k) :
    Tab.get? (Tab.set t k v) j = Tab.get? t j := by
  induction t with
  | nil => simp [Tab.set, Tab.get?, h.symm]
  | cons p rest ih =>
    obtain ⟨i, u⟩ := p
    unfold Tab.set
    split
    · simp [Tab.get?, h.symm]
    · split
      · rename_i h1; subst h1; simp [Tab.get?, h.symm]
      · simp only [Tab.get?, ih]

/-- A table with a key bound, read anywhere. -/
theorem Tab.get?_set {α : Type} (t : Tab α) (k j : Nat) (v : α) :
    Tab.get? (Tab.set t k v) j = if j = k then some v else Tab.get? t j := by
  by_cases h : j = k
  · subst h; simp
  · simp [h, Tab.get?_set_other]

@[simp] theorem Tab.getD_set_same {α : Type} (t : Tab α) (k : Nat) (v d : α) :
    Tab.getD (Tab.set t k v) k d = v := by simp [Tab.getD]

theorem Tab.getD_set_other {α : Type} (t : Tab α) (k j : Nat) (v d : α) (h : j ≠ k) :
    Tab.getD (Tab.set t k v) j d = Tab.getD t j d := by simp [Tab.getD, Tab.get?_set_other _ _ _ _ h]

theorem Tab.get?_modify {α : Type} (t : Tab α) (k j : Nat) (f : α → α) :
    Tab.get? (Tab.modify t k f) j = if j = k then (Tab.get? t j).map f else Tab.get? t j := by
  induction t with
  | nil => simp [Tab.modify, Tab.get?]
  | cons p rest ih =>
    obtain ⟨i, u⟩ := p
    unfold Tab.modify at ih ⊢
    simp only [List.map_cons]
    by_cases hik : i = k
    · subst hik
      by_cases hj : i = j
      · subst hj; simp [Tab.get?]
      · have hj' : ¬ j = i := fun h => hj h.symm
        simpa [Tab.get?, hj, hj'] using ih
    · by_cases hj : i = j
      · subst hj; simp [Tab.get?, hik]
      · simpa [Tab.get?, hik, hj] using ih

theorem Tab.get?_map {α β : Type} (t : Tab α) (k : Nat) (f : Nat → α → β) :
    Tab.get? (t.map fun (p : Nat × α) => (p.1, f p.1 p.2)) k = (Tab.get? t k).map (f k) := by
  induction t with
  | nil => simp [Tab.get?]
  | cons p rest ih =>
    obtain ⟨i, u⟩ := p
    by_cases hj : i = k
    · subst hj; simp [Tab.get?]
    · simpa [Tab.get?, hj] using ih

theorem Tab.get?_erase_same {α : Type} (t : Tab α) (k : Nat) : Tab.get? (Tab.erase t k) k = none := by
  induction t with
  | nil => simp [Tab.erase, Tab.get?]
  | cons p rest ih =>
    obtain ⟨i, u⟩ := p
    unfold Tab.erase at ih ⊢
    by_cases hj : i = k
    · subst hj; simpa using ih
    · simpa [hj, Tab.get?] using ih

theorem Tab.get?_erase_other {α : Type} (t : Tab α) (k j : Nat) (h : j ≠ k) :
    Tab.get? (Tab.erase t k) j = Tab.get? t j := by
  induction t with
  | nil => simp [Tab.erase, Tab.get?]
  | cons p rest ih =>
    obtain ⟨i, u⟩ := p
    unfold Tab.erase at ih ⊢
    by_cases hj : i = k
    · subst hj; simpa [Tab.get?, h.symm] using ih
    · simp only [List.filter_cons]
      simp only [bne_iff_ne, ne_eq, hj, not_false_eq_true, if_true, Tab.get?, ih]

/-- A value found is in the table. -/
theorem Tab.mem_of_get? {α : Type} {t : Tab α} {k : Nat} {v : α} (h : Tab.get? t k = some v) : (k, v) ∈ t := by
  induction t with
  | nil => simp [Tab.get?] at h
  | cons p rest ih =>
    obtain ⟨i, u⟩ := p
    unfold Tab.get? at h
    split at h
    · simp_all
    · exact List.mem_cons_of_mem _ (ih h)

theorem Tab.mem_set {α : Type} {t : Tab α} {k : Nat} {v : α} {p : Nat × α} (h : p ∈ Tab.set t k v) :
    p = (k, v) ∨ p ∈ t := by
  induction t with
  | nil => simp_all [Tab.set]
  | cons q rest ih =>
    obtain ⟨i, u⟩ := q
    unfold Tab.set at h
    split at h
    · simpa using h
    · split at h
      · rcases List.mem_cons.1 h with h | h
        · exact .inl h
        · exact .inr (List.mem_cons_of_mem _ h)
      · rcases List.mem_cons.1 h with h | h
        · exact .inr (by simp [h])
        · rcases ih h with h | h
          · exact .inl h
          · exact .inr (List.mem_cons_of_mem _ h)

theorem Tab.wf_iff {α : Type} (t : Tab α) : Tab.wf t = true ↔ t.Pairwise fun a b => a.1 < b.1 := by
  simp [Tab.wf]

theorem Tab.wf_nil {α : Type} : Tab.wf ([] : Tab α) = true := by simp [Tab.wf]

theorem Tab.wf_set {α : Type} (t : Tab α) (k : Nat) (v : α) (h : Tab.wf t = true) : Tab.wf (Tab.set t k v) = true := by
  rw [Tab.wf_iff] at h ⊢
  induction t with
  | nil => simp [Tab.set]
  | cons p rest ih =>
    obtain ⟨i, u⟩ := p
    rw [List.pairwise_cons] at h
    unfold Tab.set
    split
    · rename_i hk
      rw [List.pairwise_cons, List.pairwise_cons]
      refine ⟨?_, h⟩
      intro q hq
      rcases List.mem_cons.1 hq with hq | hq
      · simpa [hq] using hk
      · exact Nat.lt_trans hk (h.1 q hq)
    · split
      · rename_i h1 h2; subst h2
        exact List.pairwise_cons.2 ⟨h.1, h.2⟩
      · rename_i h1 h2
        refine List.pairwise_cons.2 ⟨?_, ih h.2⟩
        intro q hq
        rcases Tab.mem_set hq with rfl | hq
        · simp only; omega
        · exact h.1 q hq

theorem Tab.wf_filter {α : Type} (t : Tab α) (f : Nat × α → Bool) (h : Tab.wf t = true) :
    Tab.wf (t.filter f) = true := by
  rw [Tab.wf_iff] at h ⊢; exact h.filter f

theorem Tab.wf_erase {α : Type} (t : Tab α) (k : Nat) (h : Tab.wf t = true) : Tab.wf (Tab.erase t k) = true :=
  Tab.wf_filter t _ h

/-- A change of values alone keeps the form. -/
theorem Tab.wf_map {α β : Type} (t : Tab α) (f : Nat × α → Nat × β) (hf : ∀ p, (f p).1 = p.1)
    (h : Tab.wf t = true) : Tab.wf (t.map f) = true := by
  rw [Tab.wf_iff] at h ⊢
  rw [List.pairwise_map]
  exact h.imp fun {a b} hab => by rw [hf, hf]; exact hab

theorem Tab.wf_modify {α : Type} (t : Tab α) (k : Nat) (f : α → α) (h : Tab.wf t = true) :
    Tab.wf (Tab.modify t k f) = true :=
  Tab.wf_map t _ (fun p => by split <;> simp [*]) h

/-! ## Sparse stores -/

@[simp] theorem Sparse.get_nil {w : Nat} (k : Nat) : Sparse.get ([] : Sparse w) k = 0#w := rfl

theorem Sparse.wf_iff {w : Nat} (m : Sparse w) :
    Sparse.wf m = true ↔ m.Pairwise (fun a b => a.1 < b.1) ∧ ∀ p ∈ m, p.2 ≠ 0#w := by
  simp [Sparse.wf]

theorem Sparse.wf_nil {w : Nat} : Sparse.wf ([] : Sparse w) = true := by simp [Sparse.wf]

/-- Below every listed key a store reads zero. -/
theorem Sparse.get_below {w : Nat} (m : Sparse w) (k : Nat) (h : ∀ p ∈ m, k < p.1) : Sparse.get m k = 0#w := by
  induction m with
  | nil => rfl
  | cons p rest ih =>
    obtain ⟨j, v⟩ := p
    have hj : j ≠ k := by have := h (j, v) (by simp); simp only at this; omega
    simp only [Sparse.get, hj, if_false]
    exact ih fun q hq => h q (List.mem_cons_of_mem _ hq)

theorem Sparse.mem_set {w : Nat} {m : Sparse w} {k : Nat} {v : BitVec w} {p : Nat × BitVec w}
    (h : p ∈ Sparse.set m k v) : (p = (k, v) ∧ v ≠ 0#w) ∨ p ∈ m := by
  induction m with
  | nil =>
    unfold Sparse.set at h
    split at h <;> simp_all
  | cons q rest ih =>
    obtain ⟨i, u⟩ := q
    unfold Sparse.set at h
    split at h
    · split at h
      · exact .inr h
      · rcases List.mem_cons.1 h with h | h
        · exact .inl ⟨h, by assumption⟩
        · exact .inr h
    · split at h
      · split at h
        · exact .inr (List.mem_cons_of_mem _ h)
        · rcases List.mem_cons.1 h with h | h
          · exact .inl ⟨h, by assumption⟩
          · exact .inr (List.mem_cons_of_mem _ h)
      · rcases List.mem_cons.1 h with h | h
        · exact .inr (by simp [h])
        · rcases ih h with h | h
          · exact .inl h
          · exact .inr (List.mem_cons_of_mem _ h)

/-- A write keeps the canonical form. -/
theorem Sparse.wf_set {w : Nat} (m : Sparse w) (k : Nat) (v : BitVec w) (h : Sparse.wf m = true) :
    Sparse.wf (Sparse.set m k v) = true := by
  rw [Sparse.wf_iff] at h ⊢
  refine ⟨?_, ?_⟩
  · obtain ⟨h, -⟩ := h
    induction m with
    | nil => unfold Sparse.set; split <;> simp
    | cons p rest ih =>
      obtain ⟨i, u⟩ := p
      have h0 := h
      rw [List.pairwise_cons] at h
      unfold Sparse.set
      split
      · rename_i hk
        split
        · exact h0
        · refine List.pairwise_cons.2 ⟨?_, h0⟩
          intro q hq
          rcases List.mem_cons.1 hq with hq | hq
          · simpa [hq] using hk
          · exact Nat.lt_trans hk (h.1 q hq)
      · split
        · rename_i h1 h2; subst h2
          split
          · exact h.2
          · exact List.pairwise_cons.2 ⟨h.1, h.2⟩
        · refine List.pairwise_cons.2 ⟨?_, ih h.2⟩
          intro q hq
          rcases Sparse.mem_set hq with ⟨rfl, -⟩ | hq
          · simp only; omega
          · exact h.1 q hq
  · intro p hp
    rcases Sparse.mem_set hp with ⟨rfl, hv⟩ | hp
    · exact hv
    · exact h.2 p hp

/-- A read after a write to the same key. It needs the canonical form: a zero written removes one pair. -/
theorem Sparse.get_set_same {w : Nat} (m : Sparse w) (k : Nat) (v : BitVec w) (h : Sparse.wf m = true) :
    Sparse.get (Sparse.set m k v) k = v := by
  rw [Sparse.wf_iff] at h
  obtain ⟨h, -⟩ := h
  induction m with
  | nil =>
    unfold Sparse.set
    split
    · simp_all
    · simp [Sparse.get]
  | cons p rest ih =>
    obtain ⟨i, u⟩ := p
    have h0 := h
    rw [List.pairwise_cons] at h
    unfold Sparse.set
    split
    · rename_i hk
      split
      · rename_i hv; subst hv
        apply Sparse.get_below
        intro q hq
        rcases List.mem_cons.1 hq with hq | hq
        · simpa [hq] using hk
        · exact Nat.lt_trans hk (h.1 q hq)
      · simp [Sparse.get]
    · split
      · rename_i h1 h2; subst h2
        split
        · rename_i hv; subst hv
          exact Sparse.get_below _ _ h.1
        · simp [Sparse.get]
      · rename_i h1 h2
        simp only [Sparse.get, h2, if_false]
        exact ih h.2

theorem Sparse.get_set_other {w : Nat} (m : Sparse w) (k j : Nat) (v : BitVec w) (hj : j ≠ k) :
    Sparse.get (Sparse.set m k v) j = Sparse.get m j := by
  induction m with
  | nil =>
    unfold Sparse.set
    split <;> simp [Sparse.get, hj.symm]
  | cons p rest ih =>
    obtain ⟨i, u⟩ := p
    unfold Sparse.set
    split
    · split
      · rfl
      · simp [Sparse.get, hj.symm]
    · split
      · rename_i h1 h2; subst h2
        split
        · simp [Sparse.get, hj.symm]
        · simp [Sparse.get, hj.symm]
      · simp only [Sparse.get, ih]

/-- A store with a word written, read anywhere. -/
theorem Sparse.get_set {w : Nat} (m : Sparse w) (k j : Nat) (v : BitVec w) (h : Sparse.wf m = true) :
    Sparse.get (Sparse.set m k v) j = if j = k then v else Sparse.get m j := by
  by_cases hj : j = k
  · subst hj; simp [Sparse.get_set_same _ _ _ h]
  · simp [hj, Sparse.get_set_other]

/-- Two canonical stores that read alike everywhere are the same store. -/
theorem Sparse.ext_of_get {w : Nat} : ∀ (m n : Sparse w), Sparse.wf m = true → Sparse.wf n = true →
    (∀ k, Sparse.get m k = Sparse.get n k) → m = n
  | [], [], _, _, _ => rfl
  | [], (j, v) :: n, _, hn, h => by
    rw [Sparse.wf_iff] at hn
    exact absurd (by simpa [Sparse.get] using (h j).symm) (hn.2 (j, v) (by simp))
  | (j, v) :: m, [], hm, _, h => by
    rw [Sparse.wf_iff] at hm
    exact absurd (by simpa [Sparse.get] using h j) (hm.2 (j, v) (by simp))
  | (i, u) :: m, (j, v) :: n, hm, hn, h => by
    have hm' := hm
    have hn' := hn
    rw [Sparse.wf_iff, List.pairwise_cons] at hm hn
    have hij : i = j := by
      rcases Nat.lt_trichotomy i j with hlt | he | hlt
      · have h1 := h i
        rw [Sparse.get_below ((j, v) :: n) i (by
          intro q hq
          rcases List.mem_cons.1 hq with hq | hq
          · simpa [hq] using hlt
          · exact Nat.lt_trans hlt (hn.1.1 q hq))] at h1
        exact absurd (by simpa [Sparse.get] using h1) (hm.2 (i, u) (by simp))
      · exact he
      · have h1 := h j
        rw [Sparse.get_below ((i, u) :: m) j (by
          intro q hq
          rcases List.mem_cons.1 hq with hq | hq
          · simpa [hq] using hlt
          · exact Nat.lt_trans hlt (hm.1.1 q hq))] at h1
        exact absurd (by simpa [Sparse.get] using h1.symm) (hn.2 (j, v) (by simp))
    subst hij
    have huv : u = v := by simpa [Sparse.get] using h i
    subst huv
    have : m = n := Sparse.ext_of_get m n
      ((Sparse.wf_iff m).2 ⟨hm.1.2, fun p hp => hm.2 p (List.mem_cons_of_mem _ hp)⟩)
      ((Sparse.wf_iff n).2 ⟨hn.1.2, fun p hp => hn.2 p (List.mem_cons_of_mem _ hp)⟩)
      (by
        intro k
        by_cases hk : i = k
        · subst hk; rw [Sparse.get_below m i hm.1.1, Sparse.get_below n i hn.1.1]
        · have := h k; simpa [Sparse.get, hk] using this)
    rw [this]

/-! ## Byte memory -/

theorem Memory.wf_write (m : Memory) (a : Nat) (v : Byte) (h : Memory.wf m = true) :
    Memory.wf (Memory.write m a v) = true := Sparse.wf_set (w := 8) m a v h

theorem Memory.read_write_same (m : Memory) (a : Nat) (v : Byte) (h : Memory.wf m = true) :
    Memory.read (Memory.write m a v) a = v := Sparse.get_set_same (w := 8) m a v h

theorem Memory.read_write_other (m : Memory) (a b : Nat) (v : Byte) (h : b ≠ a) :
    Memory.read (Memory.write m a v) b = Memory.read m b := Sparse.get_set_other (w := 8) m a b v h

theorem Memory.wf_writeNat (m : Memory) (a n v : Nat) (h : Memory.wf m = true) :
    Memory.wf (Memory.writeNat m a n v) = true := by
  induction n generalizing m a v with
  | zero => exact h
  | succ k ih => exact ih _ _ _ (Memory.wf_write _ _ _ h)

theorem Memory.read_writeNat_outside (m : Memory) (a n v b : Nat) (h : b < a ∨ a + n ≤ b) :
    Memory.read (Memory.writeNat m a n v) b = Memory.read m b := by
  induction n generalizing m a v with
  | zero => rfl
  | succ k ih =>
    show Memory.read (Memory.writeNat (Memory.write m a (BitVec.ofNat 8 v)) (a + 1) k (v / 256)) b = _
    rw [ih _ _ _ (by omega), Memory.read_write_other _ _ _ _ (by omega)]

theorem Memory.wf_writeMasked (m : Memory) (a n v mask : Nat) (h : Memory.wf m = true) :
    Memory.wf (Memory.writeMasked m a n v mask) = true := by
  induction n generalizing m a v mask with
  | zero => exact h
  | succ k ih =>
    unfold Memory.writeMasked
    apply ih
    split
    · exact Memory.wf_write _ _ _ h
    · exact h

theorem Memory.read_writeMasked_outside (m : Memory) (a n v mask b : Nat) (h : b < a ∨ a + n ≤ b) :
    Memory.read (Memory.writeMasked m a n v mask) b = Memory.read m b := by
  induction n generalizing m a v mask with
  | zero => rfl
  | succ k ih =>
    unfold Memory.writeMasked
    rw [ih _ _ _ _ (by omega)]
    split
    · exact Memory.read_write_other _ _ _ _ (by omega)
    · rfl

/-- A little-endian number written is read back. -/
theorem Memory.readNat_writeNat (m : Memory) (a n v : Nat) (h : Memory.wf m = true) :
    Memory.readNat (Memory.writeNat m a n v) a n = v % 256 ^ n := by
  induction n generalizing m a v with
  | zero => simp [Memory.readNat, Nat.mod_one]
  | succ k ih =>
    simp only [Memory.readNat, Memory.writeNat]
    rw [Memory.read_writeNat_outside _ _ _ _ _ (by omega), Memory.read_write_same _ _ _ h,
      ih _ _ _ (Memory.wf_write _ _ _ h)]
    rw [Nat.pow_succ, Nat.mul_comm (256 ^ k) 256, Nat.mod_mul]
    simp [BitVec.toNat_ofNat]

end Sys2Proof.Machine
end

