-- ==== Sys2Proof/Laws/State.lean ====
section
/-! SUPPORT. One lemma for each field under each named update of the state and of a thread, and what the accessors
read after an update. -/

namespace Sys2Proof.Machine

/-! ### State.setThread -/

@[simp] theorem State.setThread_caps (s : State) (t : Nat) (x : Thread) : (s.setThread t x).caps = s.caps := rfl
@[simp] theorem State.setThread_isles (s : State) (t : Nat) (x : Thread) : (s.setThread t x).isles = s.isles := rfl
@[simp] theorem State.setThread_cores (s : State) (t : Nat) (x : Thread) : (s.setThread t x).cores = s.cores := rfl
@[simp] theorem State.setThread_threads (s : State) (t : Nat) (x : Thread) : (s.setThread t x).threads = Tab.set s.threads t x := rfl
@[simp] theorem State.setThread_gangs (s : State) (t : Nat) (x : Thread) : (s.setThread t x).gangs = s.gangs := rfl
@[simp] theorem State.setThread_crews (s : State) (t : Nat) (x : Thread) : (s.setThread t x).crews = s.crews := rfl
@[simp] theorem State.setThread_bands (s : State) (t : Nat) (x : Thread) : (s.setThread t x).bands = s.bands := rfl
@[simp] theorem State.setThread_jobs (s : State) (t : Nat) (x : Thread) : (s.setThread t x).jobs = s.jobs := rfl
@[simp] theorem State.setThread_parts (s : State) (t : Nat) (x : Thread) : (s.setThread t x).parts = s.parts := rfl
@[simp] theorem State.setThread_mem (s : State) (t : Nat) (x : Thread) : (s.setThread t x).mem = s.mem := rfl
@[simp] theorem State.setThread_net (s : State) (t : Nat) (x : Thread) : (s.setThread t x).net = s.net := rfl
@[simp] theorem State.setThread_reqs (s : State) (t : Nat) (x : Thread) : (s.setThread t x).reqs = s.reqs := rfl
@[simp] theorem State.setThread_insps (s : State) (t : Nat) (x : Thread) : (s.setThread t x).insps = s.insps := rfl
@[simp] theorem State.setThread_msgs (s : State) (t : Nat) (x : Thread) : (s.setThread t x).msgs = s.msgs := rfl
@[simp] theorem State.setThread_fw (s : State) (t : Nat) (x : Thread) : (s.setThread t x).fw = s.fw := rfl
@[simp] theorem State.setThread_sched (s : State) (t : Nat) (x : Thread) : (s.setThread t x).sched = s.sched := rfl

/-! ### State.setCore -/

@[simp] theorem State.setCore_caps (s : State) (c : Nat) (x : Core) : (s.setCore c x).caps = s.caps := rfl
@[simp] theorem State.setCore_isles (s : State) (c : Nat) (x : Core) : (s.setCore c x).isles = s.isles := rfl
@[simp] theorem State.setCore_cores (s : State) (c : Nat) (x : Core) : (s.setCore c x).cores = Tab.set s.cores c x := rfl
@[simp] theorem State.setCore_threads (s : State) (c : Nat) (x : Core) : (s.setCore c x).threads = s.threads := rfl
@[simp] theorem State.setCore_gangs (s : State) (c : Nat) (x : Core) : (s.setCore c x).gangs = s.gangs := rfl
@[simp] theorem State.setCore_crews (s : State) (c : Nat) (x : Core) : (s.setCore c x).crews = s.crews := rfl
@[simp] theorem State.setCore_bands (s : State) (c : Nat) (x : Core) : (s.setCore c x).bands = s.bands := rfl
@[simp] theorem State.setCore_jobs (s : State) (c : Nat) (x : Core) : (s.setCore c x).jobs = s.jobs := rfl
@[simp] theorem State.setCore_parts (s : State) (c : Nat) (x : Core) : (s.setCore c x).parts = s.parts := rfl
@[simp] theorem State.setCore_mem (s : State) (c : Nat) (x : Core) : (s.setCore c x).mem = s.mem := rfl
@[simp] theorem State.setCore_net (s : State) (c : Nat) (x : Core) : (s.setCore c x).net = s.net := rfl
@[simp] theorem State.setCore_reqs (s : State) (c : Nat) (x : Core) : (s.setCore c x).reqs = s.reqs := rfl
@[simp] theorem State.setCore_insps (s : State) (c : Nat) (x : Core) : (s.setCore c x).insps = s.insps := rfl
@[simp] theorem State.setCore_msgs (s : State) (c : Nat) (x : Core) : (s.setCore c x).msgs = s.msgs := rfl
@[simp] theorem State.setCore_fw (s : State) (c : Nat) (x : Core) : (s.setCore c x).fw = s.fw := rfl
@[simp] theorem State.setCore_sched (s : State) (c : Nat) (x : Core) : (s.setCore c x).sched = s.sched := rfl

/-! ### State.modCore -/

@[simp] theorem State.modCore_caps (s : State) (c : Nat) (f : Core → Core) : (s.modCore c f).caps = s.caps := rfl
@[simp] theorem State.modCore_isles (s : State) (c : Nat) (f : Core → Core) : (s.modCore c f).isles = s.isles := rfl
@[simp] theorem State.modCore_cores (s : State) (c : Nat) (f : Core → Core) : (s.modCore c f).cores = Tab.set s.cores c (f (s.core c)) := rfl
@[simp] theorem State.modCore_threads (s : State) (c : Nat) (f : Core → Core) : (s.modCore c f).threads = s.threads := rfl
@[simp] theorem State.modCore_gangs (s : State) (c : Nat) (f : Core → Core) : (s.modCore c f).gangs = s.gangs := rfl
@[simp] theorem State.modCore_crews (s : State) (c : Nat) (f : Core → Core) : (s.modCore c f).crews = s.crews := rfl
@[simp] theorem State.modCore_bands (s : State) (c : Nat) (f : Core → Core) : (s.modCore c f).bands = s.bands := rfl
@[simp] theorem State.modCore_jobs (s : State) (c : Nat) (f : Core → Core) : (s.modCore c f).jobs = s.jobs := rfl
@[simp] theorem State.modCore_parts (s : State) (c : Nat) (f : Core → Core) : (s.modCore c f).parts = s.parts := rfl
@[simp] theorem State.modCore_mem (s : State) (c : Nat) (f : Core → Core) : (s.modCore c f).mem = s.mem := rfl
@[simp] theorem State.modCore_net (s : State) (c : Nat) (f : Core → Core) : (s.modCore c f).net = s.net := rfl
@[simp] theorem State.modCore_reqs (s : State) (c : Nat) (f : Core → Core) : (s.modCore c f).reqs = s.reqs := rfl
@[simp] theorem State.modCore_insps (s : State) (c : Nat) (f : Core → Core) : (s.modCore c f).insps = s.insps := rfl
@[simp] theorem State.modCore_msgs (s : State) (c : Nat) (f : Core → Core) : (s.modCore c f).msgs = s.msgs := rfl
@[simp] theorem State.modCore_fw (s : State) (c : Nat) (f : Core → Core) : (s.modCore c f).fw = s.fw := rfl
@[simp] theorem State.modCore_sched (s : State) (c : Nat) (f : Core → Core) : (s.modCore c f).sched = s.sched := rfl

/-! ### State.setIsle -/

@[simp] theorem State.setIsle_caps (s : State) (n : Nat) (x : Isle) : (s.setIsle n x).caps = s.caps := rfl
@[simp] theorem State.setIsle_isles (s : State) (n : Nat) (x : Isle) : (s.setIsle n x).isles = Tab.set s.isles n x := rfl
@[simp] theorem State.setIsle_cores (s : State) (n : Nat) (x : Isle) : (s.setIsle n x).cores = s.cores := rfl
@[simp] theorem State.setIsle_threads (s : State) (n : Nat) (x : Isle) : (s.setIsle n x).threads = s.threads := rfl
@[simp] theorem State.setIsle_gangs (s : State) (n : Nat) (x : Isle) : (s.setIsle n x).gangs = s.gangs := rfl
@[simp] theorem State.setIsle_crews (s : State) (n : Nat) (x : Isle) : (s.setIsle n x).crews = s.crews := rfl
@[simp] theorem State.setIsle_bands (s : State) (n : Nat) (x : Isle) : (s.setIsle n x).bands = s.bands := rfl
@[simp] theorem State.setIsle_jobs (s : State) (n : Nat) (x : Isle) : (s.setIsle n x).jobs = s.jobs := rfl
@[simp] theorem State.setIsle_parts (s : State) (n : Nat) (x : Isle) : (s.setIsle n x).parts = s.parts := rfl
@[simp] theorem State.setIsle_mem (s : State) (n : Nat) (x : Isle) : (s.setIsle n x).mem = s.mem := rfl
@[simp] theorem State.setIsle_net (s : State) (n : Nat) (x : Isle) : (s.setIsle n x).net = s.net := rfl
@[simp] theorem State.setIsle_reqs (s : State) (n : Nat) (x : Isle) : (s.setIsle n x).reqs = s.reqs := rfl
@[simp] theorem State.setIsle_insps (s : State) (n : Nat) (x : Isle) : (s.setIsle n x).insps = s.insps := rfl
@[simp] theorem State.setIsle_msgs (s : State) (n : Nat) (x : Isle) : (s.setIsle n x).msgs = s.msgs := rfl
@[simp] theorem State.setIsle_fw (s : State) (n : Nat) (x : Isle) : (s.setIsle n x).fw = s.fw := rfl
@[simp] theorem State.setIsle_sched (s : State) (n : Nat) (x : Isle) : (s.setIsle n x).sched = s.sched := rfl

/-! ### State.modIsle -/

@[simp] theorem State.modIsle_caps (s : State) (n : Nat) (f : Isle → Isle) : (s.modIsle n f).caps = s.caps := rfl
@[simp] theorem State.modIsle_isles (s : State) (n : Nat) (f : Isle → Isle) : (s.modIsle n f).isles = Tab.set s.isles n (f (s.isle n)) := rfl
@[simp] theorem State.modIsle_cores (s : State) (n : Nat) (f : Isle → Isle) : (s.modIsle n f).cores = s.cores := rfl
@[simp] theorem State.modIsle_threads (s : State) (n : Nat) (f : Isle → Isle) : (s.modIsle n f).threads = s.threads := rfl
@[simp] theorem State.modIsle_gangs (s : State) (n : Nat) (f : Isle → Isle) : (s.modIsle n f).gangs = s.gangs := rfl
@[simp] theorem State.modIsle_crews (s : State) (n : Nat) (f : Isle → Isle) : (s.modIsle n f).crews = s.crews := rfl
@[simp] theorem State.modIsle_bands (s : State) (n : Nat) (f : Isle → Isle) : (s.modIsle n f).bands = s.bands := rfl
@[simp] theorem State.modIsle_jobs (s : State) (n : Nat) (f : Isle → Isle) : (s.modIsle n f).jobs = s.jobs := rfl
@[simp] theorem State.modIsle_parts (s : State) (n : Nat) (f : Isle → Isle) : (s.modIsle n f).parts = s.parts := rfl
@[simp] theorem State.modIsle_mem (s : State) (n : Nat) (f : Isle → Isle) : (s.modIsle n f).mem = s.mem := rfl
@[simp] theorem State.modIsle_net (s : State) (n : Nat) (f : Isle → Isle) : (s.modIsle n f).net = s.net := rfl
@[simp] theorem State.modIsle_reqs (s : State) (n : Nat) (f : Isle → Isle) : (s.modIsle n f).reqs = s.reqs := rfl
@[simp] theorem State.modIsle_insps (s : State) (n : Nat) (f : Isle → Isle) : (s.modIsle n f).insps = s.insps := rfl
@[simp] theorem State.modIsle_msgs (s : State) (n : Nat) (f : Isle → Isle) : (s.modIsle n f).msgs = s.msgs := rfl
@[simp] theorem State.modIsle_fw (s : State) (n : Nat) (f : Isle → Isle) : (s.modIsle n f).fw = s.fw := rfl
@[simp] theorem State.modIsle_sched (s : State) (n : Nat) (f : Isle → Isle) : (s.modIsle n f).sched = s.sched := rfl

/-! ### State.setPart -/

@[simp] theorem State.setPart_caps (s : State) (p : Nat) (x : Partition) : (s.setPart p x).caps = s.caps := rfl
@[simp] theorem State.setPart_isles (s : State) (p : Nat) (x : Partition) : (s.setPart p x).isles = s.isles := rfl
@[simp] theorem State.setPart_cores (s : State) (p : Nat) (x : Partition) : (s.setPart p x).cores = s.cores := rfl
@[simp] theorem State.setPart_threads (s : State) (p : Nat) (x : Partition) : (s.setPart p x).threads = s.threads := rfl
@[simp] theorem State.setPart_gangs (s : State) (p : Nat) (x : Partition) : (s.setPart p x).gangs = s.gangs := rfl
@[simp] theorem State.setPart_crews (s : State) (p : Nat) (x : Partition) : (s.setPart p x).crews = s.crews := rfl
@[simp] theorem State.setPart_bands (s : State) (p : Nat) (x : Partition) : (s.setPart p x).bands = s.bands := rfl
@[simp] theorem State.setPart_jobs (s : State) (p : Nat) (x : Partition) : (s.setPart p x).jobs = s.jobs := rfl
@[simp] theorem State.setPart_parts (s : State) (p : Nat) (x : Partition) : (s.setPart p x).parts = Tab.set s.parts p x := rfl
@[simp] theorem State.setPart_mem (s : State) (p : Nat) (x : Partition) : (s.setPart p x).mem = s.mem := rfl
@[simp] theorem State.setPart_net (s : State) (p : Nat) (x : Partition) : (s.setPart p x).net = s.net := rfl
@[simp] theorem State.setPart_reqs (s : State) (p : Nat) (x : Partition) : (s.setPart p x).reqs = s.reqs := rfl
@[simp] theorem State.setPart_insps (s : State) (p : Nat) (x : Partition) : (s.setPart p x).insps = s.insps := rfl
@[simp] theorem State.setPart_msgs (s : State) (p : Nat) (x : Partition) : (s.setPart p x).msgs = s.msgs := rfl
@[simp] theorem State.setPart_fw (s : State) (p : Nat) (x : Partition) : (s.setPart p x).fw = s.fw := rfl
@[simp] theorem State.setPart_sched (s : State) (p : Nat) (x : Partition) : (s.setPart p x).sched = s.sched := rfl

/-! ### State.modPart -/

@[simp] theorem State.modPart_caps (s : State) (p : Nat) (f : Partition → Partition) : (s.modPart p f).caps = s.caps := rfl
@[simp] theorem State.modPart_isles (s : State) (p : Nat) (f : Partition → Partition) : (s.modPart p f).isles = s.isles := rfl
@[simp] theorem State.modPart_cores (s : State) (p : Nat) (f : Partition → Partition) : (s.modPart p f).cores = s.cores := rfl
@[simp] theorem State.modPart_threads (s : State) (p : Nat) (f : Partition → Partition) : (s.modPart p f).threads = s.threads := rfl
@[simp] theorem State.modPart_gangs (s : State) (p : Nat) (f : Partition → Partition) : (s.modPart p f).gangs = s.gangs := rfl
@[simp] theorem State.modPart_crews (s : State) (p : Nat) (f : Partition → Partition) : (s.modPart p f).crews = s.crews := rfl
@[simp] theorem State.modPart_bands (s : State) (p : Nat) (f : Partition → Partition) : (s.modPart p f).bands = s.bands := rfl
@[simp] theorem State.modPart_jobs (s : State) (p : Nat) (f : Partition → Partition) : (s.modPart p f).jobs = s.jobs := rfl
@[simp] theorem State.modPart_parts (s : State) (p : Nat) (f : Partition → Partition) : (s.modPart p f).parts = Tab.set s.parts p (f (s.part p)) := rfl
@[simp] theorem State.modPart_mem (s : State) (p : Nat) (f : Partition → Partition) : (s.modPart p f).mem = s.mem := rfl
@[simp] theorem State.modPart_net (s : State) (p : Nat) (f : Partition → Partition) : (s.modPart p f).net = s.net := rfl
@[simp] theorem State.modPart_reqs (s : State) (p : Nat) (f : Partition → Partition) : (s.modPart p f).reqs = s.reqs := rfl
@[simp] theorem State.modPart_insps (s : State) (p : Nat) (f : Partition → Partition) : (s.modPart p f).insps = s.insps := rfl
@[simp] theorem State.modPart_msgs (s : State) (p : Nat) (f : Partition → Partition) : (s.modPart p f).msgs = s.msgs := rfl
@[simp] theorem State.modPart_fw (s : State) (p : Nat) (f : Partition → Partition) : (s.modPart p f).fw = s.fw := rfl
@[simp] theorem State.modPart_sched (s : State) (p : Nat) (f : Partition → Partition) : (s.modPart p f).sched = s.sched := rfl

/-! ### State.setGang -/

@[simp] theorem State.setGang_caps (s : State) (g : Nat) (x : Gang) : (s.setGang g x).caps = s.caps := rfl
@[simp] theorem State.setGang_isles (s : State) (g : Nat) (x : Gang) : (s.setGang g x).isles = s.isles := rfl
@[simp] theorem State.setGang_cores (s : State) (g : Nat) (x : Gang) : (s.setGang g x).cores = s.cores := rfl
@[simp] theorem State.setGang_threads (s : State) (g : Nat) (x : Gang) : (s.setGang g x).threads = s.threads := rfl
@[simp] theorem State.setGang_gangs (s : State) (g : Nat) (x : Gang) : (s.setGang g x).gangs = Tab.set s.gangs g x := rfl
@[simp] theorem State.setGang_crews (s : State) (g : Nat) (x : Gang) : (s.setGang g x).crews = s.crews := rfl
@[simp] theorem State.setGang_bands (s : State) (g : Nat) (x : Gang) : (s.setGang g x).bands = s.bands := rfl
@[simp] theorem State.setGang_jobs (s : State) (g : Nat) (x : Gang) : (s.setGang g x).jobs = s.jobs := rfl
@[simp] theorem State.setGang_parts (s : State) (g : Nat) (x : Gang) : (s.setGang g x).parts = s.parts := rfl
@[simp] theorem State.setGang_mem (s : State) (g : Nat) (x : Gang) : (s.setGang g x).mem = s.mem := rfl
@[simp] theorem State.setGang_net (s : State) (g : Nat) (x : Gang) : (s.setGang g x).net = s.net := rfl
@[simp] theorem State.setGang_reqs (s : State) (g : Nat) (x : Gang) : (s.setGang g x).reqs = s.reqs := rfl
@[simp] theorem State.setGang_insps (s : State) (g : Nat) (x : Gang) : (s.setGang g x).insps = s.insps := rfl
@[simp] theorem State.setGang_msgs (s : State) (g : Nat) (x : Gang) : (s.setGang g x).msgs = s.msgs := rfl
@[simp] theorem State.setGang_fw (s : State) (g : Nat) (x : Gang) : (s.setGang g x).fw = s.fw := rfl
@[simp] theorem State.setGang_sched (s : State) (g : Nat) (x : Gang) : (s.setGang g x).sched = s.sched := rfl

/-! ### State.modGang -/

@[simp] theorem State.modGang_caps (s : State) (g : Nat) (f : Gang → Gang) : (s.modGang g f).caps = s.caps := rfl
@[simp] theorem State.modGang_isles (s : State) (g : Nat) (f : Gang → Gang) : (s.modGang g f).isles = s.isles := rfl
@[simp] theorem State.modGang_cores (s : State) (g : Nat) (f : Gang → Gang) : (s.modGang g f).cores = s.cores := rfl
@[simp] theorem State.modGang_threads (s : State) (g : Nat) (f : Gang → Gang) : (s.modGang g f).threads = s.threads := rfl
@[simp] theorem State.modGang_gangs (s : State) (g : Nat) (f : Gang → Gang) : (s.modGang g f).gangs = Tab.modify s.gangs g f := rfl
@[simp] theorem State.modGang_crews (s : State) (g : Nat) (f : Gang → Gang) : (s.modGang g f).crews = s.crews := rfl
@[simp] theorem State.modGang_bands (s : State) (g : Nat) (f : Gang → Gang) : (s.modGang g f).bands = s.bands := rfl
@[simp] theorem State.modGang_jobs (s : State) (g : Nat) (f : Gang → Gang) : (s.modGang g f).jobs = s.jobs := rfl
@[simp] theorem State.modGang_parts (s : State) (g : Nat) (f : Gang → Gang) : (s.modGang g f).parts = s.parts := rfl
@[simp] theorem State.modGang_mem (s : State) (g : Nat) (f : Gang → Gang) : (s.modGang g f).mem = s.mem := rfl
@[simp] theorem State.modGang_net (s : State) (g : Nat) (f : Gang → Gang) : (s.modGang g f).net = s.net := rfl
@[simp] theorem State.modGang_reqs (s : State) (g : Nat) (f : Gang → Gang) : (s.modGang g f).reqs = s.reqs := rfl
@[simp] theorem State.modGang_insps (s : State) (g : Nat) (f : Gang → Gang) : (s.modGang g f).insps = s.insps := rfl
@[simp] theorem State.modGang_msgs (s : State) (g : Nat) (f : Gang → Gang) : (s.modGang g f).msgs = s.msgs := rfl
@[simp] theorem State.modGang_fw (s : State) (g : Nat) (f : Gang → Gang) : (s.modGang g f).fw = s.fw := rfl
@[simp] theorem State.modGang_sched (s : State) (g : Nat) (f : Gang → Gang) : (s.modGang g f).sched = s.sched := rfl

/-! ### State.setCrew -/

@[simp] theorem State.setCrew_caps (s : State) (k : Nat) (x : Crew) : (s.setCrew k x).caps = s.caps := rfl
@[simp] theorem State.setCrew_isles (s : State) (k : Nat) (x : Crew) : (s.setCrew k x).isles = s.isles := rfl
@[simp] theorem State.setCrew_cores (s : State) (k : Nat) (x : Crew) : (s.setCrew k x).cores = s.cores := rfl
@[simp] theorem State.setCrew_threads (s : State) (k : Nat) (x : Crew) : (s.setCrew k x).threads = s.threads := rfl
@[simp] theorem State.setCrew_gangs (s : State) (k : Nat) (x : Crew) : (s.setCrew k x).gangs = s.gangs := rfl
@[simp] theorem State.setCrew_crews (s : State) (k : Nat) (x : Crew) : (s.setCrew k x).crews = Tab.set s.crews k x := rfl
@[simp] theorem State.setCrew_bands (s : State) (k : Nat) (x : Crew) : (s.setCrew k x).bands = s.bands := rfl
@[simp] theorem State.setCrew_jobs (s : State) (k : Nat) (x : Crew) : (s.setCrew k x).jobs = s.jobs := rfl
@[simp] theorem State.setCrew_parts (s : State) (k : Nat) (x : Crew) : (s.setCrew k x).parts = s.parts := rfl
@[simp] theorem State.setCrew_mem (s : State) (k : Nat) (x : Crew) : (s.setCrew k x).mem = s.mem := rfl
@[simp] theorem State.setCrew_net (s : State) (k : Nat) (x : Crew) : (s.setCrew k x).net = s.net := rfl
@[simp] theorem State.setCrew_reqs (s : State) (k : Nat) (x : Crew) : (s.setCrew k x).reqs = s.reqs := rfl
@[simp] theorem State.setCrew_insps (s : State) (k : Nat) (x : Crew) : (s.setCrew k x).insps = s.insps := rfl
@[simp] theorem State.setCrew_msgs (s : State) (k : Nat) (x : Crew) : (s.setCrew k x).msgs = s.msgs := rfl
@[simp] theorem State.setCrew_fw (s : State) (k : Nat) (x : Crew) : (s.setCrew k x).fw = s.fw := rfl
@[simp] theorem State.setCrew_sched (s : State) (k : Nat) (x : Crew) : (s.setCrew k x).sched = s.sched := rfl

/-! ### State.modJob -/

@[simp] theorem State.modJob_caps (s : State) (j : Nat) (f : Job → Job) : (s.modJob j f).caps = s.caps := rfl
@[simp] theorem State.modJob_isles (s : State) (j : Nat) (f : Job → Job) : (s.modJob j f).isles = s.isles := rfl
@[simp] theorem State.modJob_cores (s : State) (j : Nat) (f : Job → Job) : (s.modJob j f).cores = s.cores := rfl
@[simp] theorem State.modJob_threads (s : State) (j : Nat) (f : Job → Job) : (s.modJob j f).threads = s.threads := rfl
@[simp] theorem State.modJob_gangs (s : State) (j : Nat) (f : Job → Job) : (s.modJob j f).gangs = s.gangs := rfl
@[simp] theorem State.modJob_crews (s : State) (j : Nat) (f : Job → Job) : (s.modJob j f).crews = s.crews := rfl
@[simp] theorem State.modJob_bands (s : State) (j : Nat) (f : Job → Job) : (s.modJob j f).bands = s.bands := rfl
@[simp] theorem State.modJob_jobs (s : State) (j : Nat) (f : Job → Job) : (s.modJob j f).jobs = Tab.modify s.jobs j f := rfl
@[simp] theorem State.modJob_parts (s : State) (j : Nat) (f : Job → Job) : (s.modJob j f).parts = s.parts := rfl
@[simp] theorem State.modJob_mem (s : State) (j : Nat) (f : Job → Job) : (s.modJob j f).mem = s.mem := rfl
@[simp] theorem State.modJob_net (s : State) (j : Nat) (f : Job → Job) : (s.modJob j f).net = s.net := rfl
@[simp] theorem State.modJob_reqs (s : State) (j : Nat) (f : Job → Job) : (s.modJob j f).reqs = s.reqs := rfl
@[simp] theorem State.modJob_insps (s : State) (j : Nat) (f : Job → Job) : (s.modJob j f).insps = s.insps := rfl
@[simp] theorem State.modJob_msgs (s : State) (j : Nat) (f : Job → Job) : (s.modJob j f).msgs = s.msgs := rfl
@[simp] theorem State.modJob_fw (s : State) (j : Nat) (f : Job → Job) : (s.modJob j f).fw = s.fw := rfl
@[simp] theorem State.modJob_sched (s : State) (j : Nat) (f : Job → Job) : (s.modJob j f).sched = s.sched := rfl

/-! ### State.modReq -/

@[simp] theorem State.modReq_caps (s : State) (r : Nat) (f : Request → Request) : (s.modReq r f).caps = s.caps := rfl
@[simp] theorem State.modReq_isles (s : State) (r : Nat) (f : Request → Request) : (s.modReq r f).isles = s.isles := rfl
@[simp] theorem State.modReq_cores (s : State) (r : Nat) (f : Request → Request) : (s.modReq r f).cores = s.cores := rfl
@[simp] theorem State.modReq_threads (s : State) (r : Nat) (f : Request → Request) : (s.modReq r f).threads = s.threads := rfl
@[simp] theorem State.modReq_gangs (s : State) (r : Nat) (f : Request → Request) : (s.modReq r f).gangs = s.gangs := rfl
@[simp] theorem State.modReq_crews (s : State) (r : Nat) (f : Request → Request) : (s.modReq r f).crews = s.crews := rfl
@[simp] theorem State.modReq_bands (s : State) (r : Nat) (f : Request → Request) : (s.modReq r f).bands = s.bands := rfl
@[simp] theorem State.modReq_jobs (s : State) (r : Nat) (f : Request → Request) : (s.modReq r f).jobs = s.jobs := rfl
@[simp] theorem State.modReq_parts (s : State) (r : Nat) (f : Request → Request) : (s.modReq r f).parts = s.parts := rfl
@[simp] theorem State.modReq_mem (s : State) (r : Nat) (f : Request → Request) : (s.modReq r f).mem = s.mem := rfl
@[simp] theorem State.modReq_net (s : State) (r : Nat) (f : Request → Request) : (s.modReq r f).net = s.net := rfl
@[simp] theorem State.modReq_reqs (s : State) (r : Nat) (f : Request → Request) : (s.modReq r f).reqs = Tab.modify s.reqs r f := rfl
@[simp] theorem State.modReq_insps (s : State) (r : Nat) (f : Request → Request) : (s.modReq r f).insps = s.insps := rfl
@[simp] theorem State.modReq_msgs (s : State) (r : Nat) (f : Request → Request) : (s.modReq r f).msgs = s.msgs := rfl
@[simp] theorem State.modReq_fw (s : State) (r : Nat) (f : Request → Request) : (s.modReq r f).fw = s.fw := rfl
@[simp] theorem State.modReq_sched (s : State) (r : Nat) (f : Request → Request) : (s.modReq r f).sched = s.sched := rfl

/-! ### State.setMem -/

@[simp] theorem State.setMem_caps (s : State) (m : Mem) : (s.setMem m).caps = s.caps := rfl
@[simp] theorem State.setMem_isles (s : State) (m : Mem) : (s.setMem m).isles = s.isles := rfl
@[simp] theorem State.setMem_cores (s : State) (m : Mem) : (s.setMem m).cores = s.cores := rfl
@[simp] theorem State.setMem_threads (s : State) (m : Mem) : (s.setMem m).threads = s.threads := rfl
@[simp] theorem State.setMem_gangs (s : State) (m : Mem) : (s.setMem m).gangs = s.gangs := rfl
@[simp] theorem State.setMem_crews (s : State) (m : Mem) : (s.setMem m).crews = s.crews := rfl
@[simp] theorem State.setMem_bands (s : State) (m : Mem) : (s.setMem m).bands = s.bands := rfl
@[simp] theorem State.setMem_jobs (s : State) (m : Mem) : (s.setMem m).jobs = s.jobs := rfl
@[simp] theorem State.setMem_parts (s : State) (m : Mem) : (s.setMem m).parts = s.parts := rfl
@[simp] theorem State.setMem_mem (s : State) (m : Mem) : (s.setMem m).mem = m := rfl
@[simp] theorem State.setMem_net (s : State) (m : Mem) : (s.setMem m).net = s.net := rfl
@[simp] theorem State.setMem_reqs (s : State) (m : Mem) : (s.setMem m).reqs = s.reqs := rfl
@[simp] theorem State.setMem_insps (s : State) (m : Mem) : (s.setMem m).insps = s.insps := rfl
@[simp] theorem State.setMem_msgs (s : State) (m : Mem) : (s.setMem m).msgs = s.msgs := rfl
@[simp] theorem State.setMem_fw (s : State) (m : Mem) : (s.setMem m).fw = s.fw := rfl
@[simp] theorem State.setMem_sched (s : State) (m : Mem) : (s.setMem m).sched = s.sched := rfl

/-! ### State.setDram -/

@[simp] theorem State.setDram_caps (s : State) (m : Memory) : (s.setDram m).caps = s.caps := rfl
@[simp] theorem State.setDram_isles (s : State) (m : Memory) : (s.setDram m).isles = s.isles := rfl
@[simp] theorem State.setDram_cores (s : State) (m : Memory) : (s.setDram m).cores = s.cores := rfl
@[simp] theorem State.setDram_threads (s : State) (m : Memory) : (s.setDram m).threads = s.threads := rfl
@[simp] theorem State.setDram_gangs (s : State) (m : Memory) : (s.setDram m).gangs = s.gangs := rfl
@[simp] theorem State.setDram_crews (s : State) (m : Memory) : (s.setDram m).crews = s.crews := rfl
@[simp] theorem State.setDram_bands (s : State) (m : Memory) : (s.setDram m).bands = s.bands := rfl
@[simp] theorem State.setDram_jobs (s : State) (m : Memory) : (s.setDram m).jobs = s.jobs := rfl
@[simp] theorem State.setDram_parts (s : State) (m : Memory) : (s.setDram m).parts = s.parts := rfl
@[simp] theorem State.setDram_mem (s : State) (m : Memory) : (s.setDram m).mem = { s.mem with dram := m } := rfl
@[simp] theorem State.setDram_net (s : State) (m : Memory) : (s.setDram m).net = s.net := rfl
@[simp] theorem State.setDram_reqs (s : State) (m : Memory) : (s.setDram m).reqs = s.reqs := rfl
@[simp] theorem State.setDram_insps (s : State) (m : Memory) : (s.setDram m).insps = s.insps := rfl
@[simp] theorem State.setDram_msgs (s : State) (m : Memory) : (s.setDram m).msgs = s.msgs := rfl
@[simp] theorem State.setDram_fw (s : State) (m : Memory) : (s.setDram m).fw = s.fw := rfl
@[simp] theorem State.setDram_sched (s : State) (m : Memory) : (s.setDram m).sched = s.sched := rfl

/-! ### State.setNet -/

@[simp] theorem State.setNet_caps (s : State) (n : Net) : (s.setNet n).caps = s.caps := rfl
@[simp] theorem State.setNet_isles (s : State) (n : Net) : (s.setNet n).isles = s.isles := rfl
@[simp] theorem State.setNet_cores (s : State) (n : Net) : (s.setNet n).cores = s.cores := rfl
@[simp] theorem State.setNet_threads (s : State) (n : Net) : (s.setNet n).threads = s.threads := rfl
@[simp] theorem State.setNet_gangs (s : State) (n : Net) : (s.setNet n).gangs = s.gangs := rfl
@[simp] theorem State.setNet_crews (s : State) (n : Net) : (s.setNet n).crews = s.crews := rfl
@[simp] theorem State.setNet_bands (s : State) (n : Net) : (s.setNet n).bands = s.bands := rfl
@[simp] theorem State.setNet_jobs (s : State) (n : Net) : (s.setNet n).jobs = s.jobs := rfl
@[simp] theorem State.setNet_parts (s : State) (n : Net) : (s.setNet n).parts = s.parts := rfl
@[simp] theorem State.setNet_mem (s : State) (n : Net) : (s.setNet n).mem = s.mem := rfl
@[simp] theorem State.setNet_net (s : State) (n : Net) : (s.setNet n).net = n := rfl
@[simp] theorem State.setNet_reqs (s : State) (n : Net) : (s.setNet n).reqs = s.reqs := rfl
@[simp] theorem State.setNet_insps (s : State) (n : Net) : (s.setNet n).insps = s.insps := rfl
@[simp] theorem State.setNet_msgs (s : State) (n : Net) : (s.setNet n).msgs = s.msgs := rfl
@[simp] theorem State.setNet_fw (s : State) (n : Net) : (s.setNet n).fw = s.fw := rfl
@[simp] theorem State.setNet_sched (s : State) (n : Net) : (s.setNet n).sched = s.sched := rfl

/-! ### State.setFw -/

@[simp] theorem State.setFw_caps (s : State) (f : Firmware) : (s.setFw f).caps = s.caps := rfl
@[simp] theorem State.setFw_isles (s : State) (f : Firmware) : (s.setFw f).isles = s.isles := rfl
@[simp] theorem State.setFw_cores (s : State) (f : Firmware) : (s.setFw f).cores = s.cores := rfl
@[simp] theorem State.setFw_threads (s : State) (f : Firmware) : (s.setFw f).threads = s.threads := rfl
@[simp] theorem State.setFw_gangs (s : State) (f : Firmware) : (s.setFw f).gangs = s.gangs := rfl
@[simp] theorem State.setFw_crews (s : State) (f : Firmware) : (s.setFw f).crews = s.crews := rfl
@[simp] theorem State.setFw_bands (s : State) (f : Firmware) : (s.setFw f).bands = s.bands := rfl
@[simp] theorem State.setFw_jobs (s : State) (f : Firmware) : (s.setFw f).jobs = s.jobs := rfl
@[simp] theorem State.setFw_parts (s : State) (f : Firmware) : (s.setFw f).parts = s.parts := rfl
@[simp] theorem State.setFw_mem (s : State) (f : Firmware) : (s.setFw f).mem = s.mem := rfl
@[simp] theorem State.setFw_net (s : State) (f : Firmware) : (s.setFw f).net = s.net := rfl
@[simp] theorem State.setFw_reqs (s : State) (f : Firmware) : (s.setFw f).reqs = s.reqs := rfl
@[simp] theorem State.setFw_insps (s : State) (f : Firmware) : (s.setFw f).insps = s.insps := rfl
@[simp] theorem State.setFw_msgs (s : State) (f : Firmware) : (s.setFw f).msgs = s.msgs := rfl
@[simp] theorem State.setFw_fw (s : State) (f : Firmware) : (s.setFw f).fw = f := rfl
@[simp] theorem State.setFw_sched (s : State) (f : Firmware) : (s.setFw f).sched = s.sched := rfl

/-! ### State.later -/

@[simp] theorem State.later_caps (s : State) (ts : List Turn) : (s.later ts).caps = s.caps := rfl
@[simp] theorem State.later_isles (s : State) (ts : List Turn) : (s.later ts).isles = s.isles := rfl
@[simp] theorem State.later_cores (s : State) (ts : List Turn) : (s.later ts).cores = s.cores := rfl
@[simp] theorem State.later_threads (s : State) (ts : List Turn) : (s.later ts).threads = s.threads := rfl
@[simp] theorem State.later_gangs (s : State) (ts : List Turn) : (s.later ts).gangs = s.gangs := rfl
@[simp] theorem State.later_crews (s : State) (ts : List Turn) : (s.later ts).crews = s.crews := rfl
@[simp] theorem State.later_bands (s : State) (ts : List Turn) : (s.later ts).bands = s.bands := rfl
@[simp] theorem State.later_jobs (s : State) (ts : List Turn) : (s.later ts).jobs = s.jobs := rfl
@[simp] theorem State.later_parts (s : State) (ts : List Turn) : (s.later ts).parts = s.parts := rfl
@[simp] theorem State.later_mem (s : State) (ts : List Turn) : (s.later ts).mem = s.mem := rfl
@[simp] theorem State.later_net (s : State) (ts : List Turn) : (s.later ts).net = s.net := rfl
@[simp] theorem State.later_reqs (s : State) (ts : List Turn) : (s.later ts).reqs = s.reqs := rfl
@[simp] theorem State.later_insps (s : State) (ts : List Turn) : (s.later ts).insps = s.insps := rfl
@[simp] theorem State.later_msgs (s : State) (ts : List Turn) : (s.later ts).msgs = s.msgs := rfl
@[simp] theorem State.later_fw (s : State) (ts : List Turn) : (s.later ts).fw = s.fw := rfl
@[simp] theorem State.later_sched (s : State) (ts : List Turn) : (s.later ts).sched = { s.sched with agenda := s.sched.agenda ++ ts } := rfl

/-! ### State.sooner -/

@[simp] theorem State.sooner_caps (s : State) (ts : List Turn) : (s.sooner ts).caps = s.caps := rfl
@[simp] theorem State.sooner_isles (s : State) (ts : List Turn) : (s.sooner ts).isles = s.isles := rfl
@[simp] theorem State.sooner_cores (s : State) (ts : List Turn) : (s.sooner ts).cores = s.cores := rfl
@[simp] theorem State.sooner_threads (s : State) (ts : List Turn) : (s.sooner ts).threads = s.threads := rfl
@[simp] theorem State.sooner_gangs (s : State) (ts : List Turn) : (s.sooner ts).gangs = s.gangs := rfl
@[simp] theorem State.sooner_crews (s : State) (ts : List Turn) : (s.sooner ts).crews = s.crews := rfl
@[simp] theorem State.sooner_bands (s : State) (ts : List Turn) : (s.sooner ts).bands = s.bands := rfl
@[simp] theorem State.sooner_jobs (s : State) (ts : List Turn) : (s.sooner ts).jobs = s.jobs := rfl
@[simp] theorem State.sooner_parts (s : State) (ts : List Turn) : (s.sooner ts).parts = s.parts := rfl
@[simp] theorem State.sooner_mem (s : State) (ts : List Turn) : (s.sooner ts).mem = s.mem := rfl
@[simp] theorem State.sooner_net (s : State) (ts : List Turn) : (s.sooner ts).net = s.net := rfl
@[simp] theorem State.sooner_reqs (s : State) (ts : List Turn) : (s.sooner ts).reqs = s.reqs := rfl
@[simp] theorem State.sooner_insps (s : State) (ts : List Turn) : (s.sooner ts).insps = s.insps := rfl
@[simp] theorem State.sooner_msgs (s : State) (ts : List Turn) : (s.sooner ts).msgs = s.msgs := rfl
@[simp] theorem State.sooner_fw (s : State) (ts : List Turn) : (s.sooner ts).fw = s.fw := rfl
@[simp] theorem State.sooner_sched (s : State) (ts : List Turn) : (s.sooner ts).sched = { s.sched with agenda := ts ++ s.sched.agenda } := rfl

/-! ### State.modThread -/

@[simp] theorem State.modThread_caps (s : State) (t : Nat) (f : Thread → Thread) : (s.modThread t f).caps = s.caps := by
  unfold State.modThread; split <;> rfl
@[simp] theorem State.modThread_isles (s : State) (t : Nat) (f : Thread → Thread) : (s.modThread t f).isles = s.isles := by
  unfold State.modThread; split <;> rfl
@[simp] theorem State.modThread_cores (s : State) (t : Nat) (f : Thread → Thread) : (s.modThread t f).cores = s.cores := by
  unfold State.modThread; split <;> rfl
@[simp] theorem State.modThread_gangs (s : State) (t : Nat) (f : Thread → Thread) : (s.modThread t f).gangs = s.gangs := by
  unfold State.modThread; split <;> rfl
@[simp] theorem State.modThread_crews (s : State) (t : Nat) (f : Thread → Thread) : (s.modThread t f).crews = s.crews := by
  unfold State.modThread; split <;> rfl
@[simp] theorem State.modThread_bands (s : State) (t : Nat) (f : Thread → Thread) : (s.modThread t f).bands = s.bands := by
  unfold State.modThread; split <;> rfl
@[simp] theorem State.modThread_jobs (s : State) (t : Nat) (f : Thread → Thread) : (s.modThread t f).jobs = s.jobs := by
  unfold State.modThread; split <;> rfl
@[simp] theorem State.modThread_parts (s : State) (t : Nat) (f : Thread → Thread) : (s.modThread t f).parts = s.parts := by
  unfold State.modThread; split <;> rfl
@[simp] theorem State.modThread_mem (s : State) (t : Nat) (f : Thread → Thread) : (s.modThread t f).mem = s.mem := by
  unfold State.modThread; split <;> rfl
@[simp] theorem State.modThread_net (s : State) (t : Nat) (f : Thread → Thread) : (s.modThread t f).net = s.net := by
  unfold State.modThread; split <;> rfl
@[simp] theorem State.modThread_reqs (s : State) (t : Nat) (f : Thread → Thread) : (s.modThread t f).reqs = s.reqs := by
  unfold State.modThread; split <;> rfl
@[simp] theorem State.modThread_insps (s : State) (t : Nat) (f : Thread → Thread) : (s.modThread t f).insps = s.insps := by
  unfold State.modThread; split <;> rfl
@[simp] theorem State.modThread_msgs (s : State) (t : Nat) (f : Thread → Thread) : (s.modThread t f).msgs = s.msgs := by
  unfold State.modThread; split <;> rfl
@[simp] theorem State.modThread_fw (s : State) (t : Nat) (f : Thread → Thread) : (s.modThread t f).fw = s.fw := by
  unfold State.modThread; split <;> rfl
@[simp] theorem State.modThread_sched (s : State) (t : Nat) (f : Thread → Thread) : (s.modThread t f).sched = s.sched := by
  unfold State.modThread; split <;> rfl

/-! ### Thread.setReg -/

@[simp] theorem Thread.setReg_gang (th : Thread) (r : Nat) (v : Word) : (th.setReg r v).gang = th.gang := rfl
@[simp] theorem Thread.setReg_tid (th : Thread) (r : Nat) (v : Word) : (th.setReg r v).tid = th.tid := rfl
@[simp] theorem Thread.setReg_pc (th : Thread) (r : Nat) (v : Word) : (th.setReg r v).pc = th.pc := rfl
@[simp] theorem Thread.setReg_regs (th : Thread) (r : Nat) (v : Word) : (th.setReg r v).regs = Sparse.set th.regs r v := rfl
@[simp] theorem Thread.setReg_preds (th : Thread) (r : Nat) (v : Word) : (th.setReg r v).preds = th.preds := rfl
@[simp] theorem Thread.setReg_flg (th : Thread) (r : Nat) (v : Word) : (th.setReg r v).flg = th.flg := rfl
@[simp] theorem Thread.setReg_frm (th : Thread) (r : Nat) (v : Word) : (th.setReg r v).frm = th.frm := rfl
@[simp] theorem Thread.setReg_hnd (th : Thread) (r : Nat) (v : Word) : (th.setReg r v).hnd = th.hnd := rfl
@[simp] theorem Thread.setReg_csp (th : Thread) (r : Nat) (v : Word) : (th.setReg r v).csp = th.csp := rfl
@[simp] theorem Thread.setReg_cych (th : Thread) (r : Nat) (v : Word) : (th.setReg r v).cych = th.cych := rfl
@[simp] theorem Thread.setReg_choice (th : Thread) (r : Nat) (v : Word) : (th.setReg r v).choice = th.choice := rfl
@[simp] theorem Thread.setReg_faults (th : Thread) (r : Nat) (v : Word) : (th.setReg r v).faults = th.faults := rfl
@[simp] theorem Thread.setReg_priv (th : Thread) (r : Nat) (v : Word) : (th.setReg r v).priv = th.priv := rfl
@[simp] theorem Thread.setReg_privPoison (th : Thread) (r : Nat) (v : Word) : (th.setReg r v).privPoison = th.privPoison := rfl
@[simp] theorem Thread.setReg_psq (th : Thread) (r : Nat) (v : Word) : (th.setReg r v).psq = th.psq := rfl
@[simp] theorem Thread.setReg_nextSeq (th : Thread) (r : Nat) (v : Word) : (th.setReg r v).nextSeq = th.nextSeq := rfl
@[simp] theorem Thread.setReg_order (th : Thread) (r : Nat) (v : Word) : (th.setReg r v).order = th.order := rfl
@[simp] theorem Thread.setReg_longs (th : Thread) (r : Nat) (v : Word) : (th.setReg r v).longs = th.longs := rfl
@[simp] theorem Thread.setReg_hold (th : Thread) (r : Nat) (v : Word) : (th.setReg r v).hold = th.hold := rfl
@[simp] theorem Thread.setReg_watch (th : Thread) (r : Nat) (v : Word) : (th.setReg r v).watch = th.watch := rfl
@[simp] theorem Thread.setReg_tokens (th : Thread) (r : Nat) (v : Word) : (th.setReg r v).tokens = th.tokens := rfl
@[simp] theorem Thread.setReg_asyncs (th : Thread) (r : Nat) (v : Word) : (th.setReg r v).asyncs = th.asyncs := rfl
@[simp] theorem Thread.setReg_marks (th : Thread) (r : Nat) (v : Word) : (th.setReg r v).marks = { th.marks with keepA := th.marks.keepA.filter fun k => k.reg.toNat != r } := rfl
@[simp] theorem Thread.setReg_poison (th : Thread) (r : Nat) (v : Word) : (th.setReg r v).poison = without th.poison r := rfl
@[simp] theorem Thread.setReg_missed (th : Thread) (r : Nat) (v : Word) : (th.setReg r v).missed = th.missed := rfl
@[simp] theorem Thread.setReg_last (th : Thread) (r : Nat) (v : Word) : (th.setReg r v).last = th.last := rfl
@[simp] theorem Thread.setReg_opa (th : Thread) (r : Nat) (v : Word) : (th.setReg r v).opa = th.opa := rfl
@[simp] theorem Thread.setReg_opb (th : Thread) (r : Nat) (v : Word) : (th.setReg r v).opb = th.opb := rfl

/-! ### Thread.raise -/

@[simp] theorem Thread.raise_gang (th : Thread) (n : Nat) : (th.raise n).gang = th.gang := rfl
@[simp] theorem Thread.raise_tid (th : Thread) (n : Nat) : (th.raise n).tid = th.tid := rfl
@[simp] theorem Thread.raise_pc (th : Thread) (n : Nat) : (th.raise n).pc = th.pc := rfl
@[simp] theorem Thread.raise_regs (th : Thread) (n : Nat) : (th.raise n).regs = th.regs := rfl
@[simp] theorem Thread.raise_preds (th : Thread) (n : Nat) : (th.raise n).preds = th.preds := rfl
@[simp] theorem Thread.raise_flg (th : Thread) (n : Nat) : (th.raise n).flg = th.flg ||| BitVec.ofNat 32 (n % 64) := rfl
@[simp] theorem Thread.raise_frm (th : Thread) (n : Nat) : (th.raise n).frm = th.frm := rfl
@[simp] theorem Thread.raise_hnd (th : Thread) (n : Nat) : (th.raise n).hnd = th.hnd := rfl
@[simp] theorem Thread.raise_csp (th : Thread) (n : Nat) : (th.raise n).csp = th.csp := rfl
@[simp] theorem Thread.raise_cych (th : Thread) (n : Nat) : (th.raise n).cych = th.cych := rfl
@[simp] theorem Thread.raise_choice (th : Thread) (n : Nat) : (th.raise n).choice = th.choice := rfl
@[simp] theorem Thread.raise_faults (th : Thread) (n : Nat) : (th.raise n).faults = th.faults := rfl
@[simp] theorem Thread.raise_priv (th : Thread) (n : Nat) : (th.raise n).priv = th.priv := rfl
@[simp] theorem Thread.raise_privPoison (th : Thread) (n : Nat) : (th.raise n).privPoison = th.privPoison := rfl
@[simp] theorem Thread.raise_psq (th : Thread) (n : Nat) : (th.raise n).psq = th.psq := rfl
@[simp] theorem Thread.raise_nextSeq (th : Thread) (n : Nat) : (th.raise n).nextSeq = th.nextSeq := rfl
@[simp] theorem Thread.raise_order (th : Thread) (n : Nat) : (th.raise n).order = th.order := rfl
@[simp] theorem Thread.raise_longs (th : Thread) (n : Nat) : (th.raise n).longs = th.longs := rfl
@[simp] theorem Thread.raise_hold (th : Thread) (n : Nat) : (th.raise n).hold = th.hold := rfl
@[simp] theorem Thread.raise_watch (th : Thread) (n : Nat) : (th.raise n).watch = th.watch := rfl
@[simp] theorem Thread.raise_tokens (th : Thread) (n : Nat) : (th.raise n).tokens = th.tokens := rfl
@[simp] theorem Thread.raise_asyncs (th : Thread) (n : Nat) : (th.raise n).asyncs = th.asyncs := rfl
@[simp] theorem Thread.raise_marks (th : Thread) (n : Nat) : (th.raise n).marks = th.marks := rfl
@[simp] theorem Thread.raise_poison (th : Thread) (n : Nat) : (th.raise n).poison = th.poison := rfl
@[simp] theorem Thread.raise_missed (th : Thread) (n : Nat) : (th.raise n).missed = th.missed := rfl
@[simp] theorem Thread.raise_last (th : Thread) (n : Nat) : (th.raise n).last = th.last := rfl
@[simp] theorem Thread.raise_opa (th : Thread) (n : Nat) : (th.raise n).opa = th.opa := rfl
@[simp] theorem Thread.raise_opb (th : Thread) (n : Nat) : (th.raise n).opb = th.opb := rfl

/-! ### Thread.leaveHandler -/

@[simp] theorem Thread.leaveHandler_gang (th : Thread) (pc : Addr56) : (th.leaveHandler pc).gang = th.gang := rfl
@[simp] theorem Thread.leaveHandler_tid (th : Thread) (pc : Addr56) : (th.leaveHandler pc).tid = th.tid := rfl
@[simp] theorem Thread.leaveHandler_pc (th : Thread) (pc : Addr56) : (th.leaveHandler pc).pc = pc := rfl
@[simp] theorem Thread.leaveHandler_regs (th : Thread) (pc : Addr56) : (th.leaveHandler pc).regs = th.regs := rfl
@[simp] theorem Thread.leaveHandler_preds (th : Thread) (pc : Addr56) : (th.leaveHandler pc).preds = th.preds := rfl
@[simp] theorem Thread.leaveHandler_flg (th : Thread) (pc : Addr56) : (th.leaveHandler pc).flg = th.flg := rfl
@[simp] theorem Thread.leaveHandler_frm (th : Thread) (pc : Addr56) : (th.leaveHandler pc).frm = th.frm := rfl
@[simp] theorem Thread.leaveHandler_hnd (th : Thread) (pc : Addr56) : (th.leaveHandler pc).hnd = th.hnd := rfl
@[simp] theorem Thread.leaveHandler_csp (th : Thread) (pc : Addr56) : (th.leaveHandler pc).csp = th.csp := rfl
@[simp] theorem Thread.leaveHandler_cych (th : Thread) (pc : Addr56) : (th.leaveHandler pc).cych = th.cych := rfl
@[simp] theorem Thread.leaveHandler_choice (th : Thread) (pc : Addr56) : (th.leaveHandler pc).choice = th.choice := rfl
@[simp] theorem Thread.leaveHandler_faults (th : Thread) (pc : Addr56) : (th.leaveHandler pc).faults = { th.faults with inh := false } := rfl
@[simp] theorem Thread.leaveHandler_priv (th : Thread) (pc : Addr56) : (th.leaveHandler pc).priv = th.priv := rfl
@[simp] theorem Thread.leaveHandler_privPoison (th : Thread) (pc : Addr56) : (th.leaveHandler pc).privPoison = th.privPoison := rfl
@[simp] theorem Thread.leaveHandler_psq (th : Thread) (pc : Addr56) : (th.leaveHandler pc).psq = th.psq := rfl
@[simp] theorem Thread.leaveHandler_nextSeq (th : Thread) (pc : Addr56) : (th.leaveHandler pc).nextSeq = th.nextSeq := rfl
@[simp] theorem Thread.leaveHandler_order (th : Thread) (pc : Addr56) : (th.leaveHandler pc).order = th.order := rfl
@[simp] theorem Thread.leaveHandler_longs (th : Thread) (pc : Addr56) : (th.leaveHandler pc).longs = th.longs := rfl
@[simp] theorem Thread.leaveHandler_hold (th : Thread) (pc : Addr56) : (th.leaveHandler pc).hold = th.hold := rfl
@[simp] theorem Thread.leaveHandler_watch (th : Thread) (pc : Addr56) : (th.leaveHandler pc).watch = th.watch := rfl
@[simp] theorem Thread.leaveHandler_tokens (th : Thread) (pc : Addr56) : (th.leaveHandler pc).tokens = th.tokens := rfl
@[simp] theorem Thread.leaveHandler_asyncs (th : Thread) (pc : Addr56) : (th.leaveHandler pc).asyncs = th.asyncs := rfl
@[simp] theorem Thread.leaveHandler_marks (th : Thread) (pc : Addr56) : (th.leaveHandler pc).marks = th.marks := rfl
@[simp] theorem Thread.leaveHandler_poison (th : Thread) (pc : Addr56) : (th.leaveHandler pc).poison = th.poison := rfl
@[simp] theorem Thread.leaveHandler_missed (th : Thread) (pc : Addr56) : (th.leaveHandler pc).missed = th.missed := rfl
@[simp] theorem Thread.leaveHandler_last (th : Thread) (pc : Addr56) : (th.leaveHandler pc).last = th.last := rfl
@[simp] theorem Thread.leaveHandler_opa (th : Thread) (pc : Addr56) : (th.leaveHandler pc).opa = th.opa := rfl
@[simp] theorem Thread.leaveHandler_opb (th : Thread) (pc : Addr56) : (th.leaveHandler pc).opb = th.opb := rfl

/-! ### Thread.issued -/

@[simp] theorem Thread.issued_gang (th : Thread) (h : Hdr) : (th.issued h).gang = th.gang := rfl
@[simp] theorem Thread.issued_tid (th : Thread) (h : Hdr) : (th.issued h).tid = th.tid := rfl
@[simp] theorem Thread.issued_pc (th : Thread) (h : Hdr) : (th.issued h).pc = th.pc := rfl
@[simp] theorem Thread.issued_regs (th : Thread) (h : Hdr) : (th.issued h).regs = th.regs := rfl
@[simp] theorem Thread.issued_preds (th : Thread) (h : Hdr) : (th.issued h).preds = th.preds := rfl
@[simp] theorem Thread.issued_flg (th : Thread) (h : Hdr) : (th.issued h).flg = th.flg := rfl
@[simp] theorem Thread.issued_frm (th : Thread) (h : Hdr) : (th.issued h).frm = th.frm := rfl
@[simp] theorem Thread.issued_hnd (th : Thread) (h : Hdr) : (th.issued h).hnd = th.hnd := rfl
@[simp] theorem Thread.issued_csp (th : Thread) (h : Hdr) : (th.issued h).csp = th.csp := rfl
@[simp] theorem Thread.issued_cych (th : Thread) (h : Hdr) : (th.issued h).cych = th.cych := rfl
@[simp] theorem Thread.issued_choice (th : Thread) (h : Hdr) : (th.issued h).choice = th.choice := rfl
@[simp] theorem Thread.issued_faults (th : Thread) (h : Hdr) : (th.issued h).faults = th.faults := rfl
@[simp] theorem Thread.issued_priv (th : Thread) (h : Hdr) : (th.issued h).priv = th.priv := rfl
@[simp] theorem Thread.issued_privPoison (th : Thread) (h : Hdr) : (th.issued h).privPoison = th.privPoison := rfl
@[simp] theorem Thread.issued_psq (th : Thread) (h : Hdr) : (th.issued h).psq = th.psq := rfl
@[simp] theorem Thread.issued_nextSeq (th : Thread) (h : Hdr) : (th.issued h).nextSeq = th.nextSeq := rfl
@[simp] theorem Thread.issued_order (th : Thread) (h : Hdr) : (th.issued h).order = th.order + 1 := rfl
@[simp] theorem Thread.issued_longs (th : Thread) (h : Hdr) : (th.issued h).longs = th.longs.map fun o => { o with left := o.left - 1 } := rfl
@[simp] theorem Thread.issued_hold (th : Thread) (h : Hdr) : (th.issued h).hold = th.hold := rfl
@[simp] theorem Thread.issued_watch (th : Thread) (h : Hdr) : (th.issued h).watch = th.watch := rfl
@[simp] theorem Thread.issued_tokens (th : Thread) (h : Hdr) : (th.issued h).tokens = th.tokens := rfl
@[simp] theorem Thread.issued_asyncs (th : Thread) (h : Hdr) : (th.issued h).asyncs = th.asyncs := rfl
@[simp] theorem Thread.issued_marks (th : Thread) (h : Hdr) : (th.issued h).marks = { th.marks with release := false, solo := h.solo, yld := if h.yld then 2 else 0, age := 0 } := rfl
@[simp] theorem Thread.issued_poison (th : Thread) (h : Hdr) : (th.issued h).poison = th.poison := rfl
@[simp] theorem Thread.issued_missed (th : Thread) (h : Hdr) : (th.issued h).missed = th.missed := rfl
@[simp] theorem Thread.issued_last (th : Thread) (h : Hdr) : (th.issued h).last = th.last := rfl
@[simp] theorem Thread.issued_opa (th : Thread) (h : Hdr) : (th.issued h).opa = th.opa := rfl
@[simp] theorem Thread.issued_opb (th : Thread) (h : Hdr) : (th.issued h).opb = th.opb := rfl

/-! ### Thread.setPred, Thread.setPair -/

@[simp] theorem Thread.setPred_gang (th : Thread) (n : BitVec 3) (v : Bool) : (th.setPred n v).gang = th.gang := by
  unfold Thread.setPred; split <;> rfl
@[simp] theorem Thread.setPred_tid (th : Thread) (n : BitVec 3) (v : Bool) : (th.setPred n v).tid = th.tid := by
  unfold Thread.setPred; split <;> rfl
@[simp] theorem Thread.setPred_pc (th : Thread) (n : BitVec 3) (v : Bool) : (th.setPred n v).pc = th.pc := by
  unfold Thread.setPred; split <;> rfl
@[simp] theorem Thread.setPred_regs (th : Thread) (n : BitVec 3) (v : Bool) : (th.setPred n v).regs = th.regs := by
  unfold Thread.setPred; split <;> rfl
@[simp] theorem Thread.setPred_flg (th : Thread) (n : BitVec 3) (v : Bool) : (th.setPred n v).flg = th.flg := by
  unfold Thread.setPred; split <;> rfl
@[simp] theorem Thread.setPred_frm (th : Thread) (n : BitVec 3) (v : Bool) : (th.setPred n v).frm = th.frm := by
  unfold Thread.setPred; split <;> rfl
@[simp] theorem Thread.setPred_hnd (th : Thread) (n : BitVec 3) (v : Bool) : (th.setPred n v).hnd = th.hnd := by
  unfold Thread.setPred; split <;> rfl
@[simp] theorem Thread.setPred_csp (th : Thread) (n : BitVec 3) (v : Bool) : (th.setPred n v).csp = th.csp := by
  unfold Thread.setPred; split <;> rfl
@[simp] theorem Thread.setPred_cych (th : Thread) (n : BitVec 3) (v : Bool) : (th.setPred n v).cych = th.cych := by
  unfold Thread.setPred; split <;> rfl
@[simp] theorem Thread.setPred_choice (th : Thread) (n : BitVec 3) (v : Bool) : (th.setPred n v).choice = th.choice := by
  unfold Thread.setPred; split <;> rfl
@[simp] theorem Thread.setPred_faults (th : Thread) (n : BitVec 3) (v : Bool) : (th.setPred n v).faults = th.faults := by
  unfold Thread.setPred; split <;> rfl
@[simp] theorem Thread.setPred_priv (th : Thread) (n : BitVec 3) (v : Bool) : (th.setPred n v).priv = th.priv := by
  unfold Thread.setPred; split <;> rfl
@[simp] theorem Thread.setPred_privPoison (th : Thread) (n : BitVec 3) (v : Bool) : (th.setPred n v).privPoison = th.privPoison := by
  unfold Thread.setPred; split <;> rfl
@[simp] theorem Thread.setPred_psq (th : Thread) (n : BitVec 3) (v : Bool) : (th.setPred n v).psq = th.psq := by
  unfold Thread.setPred; split <;> rfl
@[simp] theorem Thread.setPred_nextSeq (th : Thread) (n : BitVec 3) (v : Bool) : (th.setPred n v).nextSeq = th.nextSeq := by
  unfold Thread.setPred; split <;> rfl
@[simp] theorem Thread.setPred_order (th : Thread) (n : BitVec 3) (v : Bool) : (th.setPred n v).order = th.order := by
  unfold Thread.setPred; split <;> rfl
@[simp] theorem Thread.setPred_longs (th : Thread) (n : BitVec 3) (v : Bool) : (th.setPred n v).longs = th.longs := by
  unfold Thread.setPred; split <;> rfl
@[simp] theorem Thread.setPred_hold (th : Thread) (n : BitVec 3) (v : Bool) : (th.setPred n v).hold = th.hold := by
  unfold Thread.setPred; split <;> rfl
@[simp] theorem Thread.setPred_watch (th : Thread) (n : BitVec 3) (v : Bool) : (th.setPred n v).watch = th.watch := by
  unfold Thread.setPred; split <;> rfl
@[simp] theorem Thread.setPred_tokens (th : Thread) (n : BitVec 3) (v : Bool) : (th.setPred n v).tokens = th.tokens := by
  unfold Thread.setPred; split <;> rfl
@[simp] theorem Thread.setPred_asyncs (th : Thread) (n : BitVec 3) (v : Bool) : (th.setPred n v).asyncs = th.asyncs := by
  unfold Thread.setPred; split <;> rfl
@[simp] theorem Thread.setPred_marks (th : Thread) (n : BitVec 3) (v : Bool) : (th.setPred n v).marks = th.marks := by
  unfold Thread.setPred; split <;> rfl
@[simp] theorem Thread.setPred_poison (th : Thread) (n : BitVec 3) (v : Bool) : (th.setPred n v).poison = th.poison := by
  unfold Thread.setPred; split <;> rfl
@[simp] theorem Thread.setPred_missed (th : Thread) (n : BitVec 3) (v : Bool) : (th.setPred n v).missed = th.missed := by
  unfold Thread.setPred; split <;> rfl
@[simp] theorem Thread.setPred_last (th : Thread) (n : BitVec 3) (v : Bool) : (th.setPred n v).last = th.last := by
  unfold Thread.setPred; split <;> rfl
@[simp] theorem Thread.setPred_opa (th : Thread) (n : BitVec 3) (v : Bool) : (th.setPred n v).opa = th.opa := by
  unfold Thread.setPred; split <;> rfl
@[simp] theorem Thread.setPred_opb (th : Thread) (n : BitVec 3) (v : Bool) : (th.setPred n v).opb = th.opb := by
  unfold Thread.setPred; split <;> rfl
@[simp] theorem Thread.setPair_gang (th : Thread) (r : Nat) (v : DWord) : (th.setPair r v).gang = th.gang := rfl
@[simp] theorem Thread.setPair_tid (th : Thread) (r : Nat) (v : DWord) : (th.setPair r v).tid = th.tid := rfl
@[simp] theorem Thread.setPair_pc (th : Thread) (r : Nat) (v : DWord) : (th.setPair r v).pc = th.pc := rfl
@[simp] theorem Thread.setPair_preds (th : Thread) (r : Nat) (v : DWord) : (th.setPair r v).preds = th.preds := rfl
@[simp] theorem Thread.setPair_flg (th : Thread) (r : Nat) (v : DWord) : (th.setPair r v).flg = th.flg := rfl
@[simp] theorem Thread.setPair_frm (th : Thread) (r : Nat) (v : DWord) : (th.setPair r v).frm = th.frm := rfl
@[simp] theorem Thread.setPair_hnd (th : Thread) (r : Nat) (v : DWord) : (th.setPair r v).hnd = th.hnd := rfl
@[simp] theorem Thread.setPair_csp (th : Thread) (r : Nat) (v : DWord) : (th.setPair r v).csp = th.csp := rfl
@[simp] theorem Thread.setPair_cych (th : Thread) (r : Nat) (v : DWord) : (th.setPair r v).cych = th.cych := rfl
@[simp] theorem Thread.setPair_choice (th : Thread) (r : Nat) (v : DWord) : (th.setPair r v).choice = th.choice := rfl
@[simp] theorem Thread.setPair_faults (th : Thread) (r : Nat) (v : DWord) : (th.setPair r v).faults = th.faults := rfl
@[simp] theorem Thread.setPair_priv (th : Thread) (r : Nat) (v : DWord) : (th.setPair r v).priv = th.priv := rfl
@[simp] theorem Thread.setPair_privPoison (th : Thread) (r : Nat) (v : DWord) : (th.setPair r v).privPoison = th.privPoison := rfl
@[simp] theorem Thread.setPair_psq (th : Thread) (r : Nat) (v : DWord) : (th.setPair r v).psq = th.psq := rfl
@[simp] theorem Thread.setPair_nextSeq (th : Thread) (r : Nat) (v : DWord) : (th.setPair r v).nextSeq = th.nextSeq := rfl
@[simp] theorem Thread.setPair_order (th : Thread) (r : Nat) (v : DWord) : (th.setPair r v).order = th.order := rfl
@[simp] theorem Thread.setPair_longs (th : Thread) (r : Nat) (v : DWord) : (th.setPair r v).longs = th.longs := rfl
@[simp] theorem Thread.setPair_hold (th : Thread) (r : Nat) (v : DWord) : (th.setPair r v).hold = th.hold := rfl
@[simp] theorem Thread.setPair_watch (th : Thread) (r : Nat) (v : DWord) : (th.setPair r v).watch = th.watch := rfl
@[simp] theorem Thread.setPair_tokens (th : Thread) (r : Nat) (v : DWord) : (th.setPair r v).tokens = th.tokens := rfl
@[simp] theorem Thread.setPair_asyncs (th : Thread) (r : Nat) (v : DWord) : (th.setPair r v).asyncs = th.asyncs := rfl
@[simp] theorem Thread.setPair_missed (th : Thread) (r : Nat) (v : DWord) : (th.setPair r v).missed = th.missed := rfl
@[simp] theorem Thread.setPair_last (th : Thread) (r : Nat) (v : DWord) : (th.setPair r v).last = th.last := rfl
@[simp] theorem Thread.setPair_opa (th : Thread) (r : Nat) (v : DWord) : (th.setPair r v).opa = th.opa := rfl
@[simp] theorem Thread.setPair_opb (th : Thread) (r : Nat) (v : DWord) : (th.setPair r v).opb = th.opb := rfl

/-! ## Accessors after updates -/

@[simp] theorem State.thread_setThread_same (s : State) (t : Nat) (x : Thread) : (s.setThread t x).thread t = some x := by
  simp [State.thread]

theorem State.thread_setThread (s : State) (t u : Nat) (x : Thread) :
    (s.setThread t x).thread u = if u = t then some x else s.thread u := by
  simp [State.thread, Tab.get?_set]

theorem State.thread_setThread_other (s : State) (t u : Nat) (x : Thread) (h : u ≠ t) :
    (s.setThread t x).thread u = s.thread u := by simp [State.thread_setThread, h]

theorem State.thread_modThread (s : State) (t u : Nat) (f : Thread → Thread) :
    (s.modThread t f).thread u = if u = t then (s.thread u).map f else s.thread u := by
  unfold State.modThread
  cases h : s.thread t with
  | none =>
    by_cases hu : u = t
    · subst hu; simp [h]
    · simp [hu]
  | some th =>
    by_cases hu : u = t
    · subst hu; simp [h]
    · simp [hu, State.thread_setThread]

@[simp] theorem State.core_setCore_same (s : State) (c : Nat) (x : Core) : (s.setCore c x).core c = x := by
  simp [State.core]

theorem State.core_setCore_other (s : State) (c d : Nat) (x : Core) (h : d ≠ c) : (s.setCore c x).core d = s.core d := by
  simp [State.core, Tab.getD_set_other _ _ _ _ _ h]

@[simp] theorem State.isle_setIsle_same (s : State) (n : Nat) (x : Isle) : (s.setIsle n x).isle n = x := by
  simp [State.isle]

theorem State.isle_setIsle_other (s : State) (n m : Nat) (x : Isle) (h : m ≠ n) : (s.setIsle n x).isle m = s.isle m := by
  simp [State.isle, Tab.getD_set_other _ _ _ _ _ h]

@[simp] theorem State.part_setPart_same (s : State) (p : Nat) (x : Partition) : (s.setPart p x).part p = x := by
  simp [State.part]

theorem State.part_setPart_other (s : State) (p q : Nat) (x : Partition) (h : q ≠ p) :
    (s.setPart p x).part q = s.part q := by
  simp [State.part, Tab.getD_set_other _ _ _ _ _ h]

/-- What reads a state's threads, gangs and jobs alone is unchanged where those are. -/
theorem State.jobOf_congr {s s' : State} {t : Nat} (ht : (s'.thread t).map (·.gang) = (s.thread t).map (·.gang))
    (hg : s'.gangs = s.gangs) (hj : s'.jobs = s.jobs) : s'.jobOf t = s.jobOf t := by
  unfold State.jobOf State.gangOf State.gang State.job
  cases h1 : s.thread t <;> cases h2 : s'.thread t <;> simp_all

/-! ## Registers, predicates -/

theorem Thread.reg_setReg_same (th : Thread) (r : Nat) (v : Word) (h : Sparse.wf th.regs = true) :
    (th.setReg r v).reg r = v := Sparse.get_set_same _ _ _ h

theorem Thread.reg_setReg_other (th : Thread) (r q : Nat) (v : Word) (h : q ≠ r) :
    (th.setReg r v).reg q = th.reg q := Sparse.get_set_other _ _ _ _ h

theorem Thread.reg_setReg (th : Thread) (r q : Nat) (v : Word) (h : Sparse.wf th.regs = true) :
    (th.setReg r v).reg q = if q = r then v else th.reg q := Sparse.get_set _ _ _ _ h

theorem Thread.wf_setReg (th : Thread) (r : Nat) (v : Word) (h : Sparse.wf th.regs = true) :
    Sparse.wf (th.setReg r v).regs = true := Sparse.wf_set _ _ _ h

theorem Thread.wf_setPair (th : Thread) (r : Nat) (v : DWord) (h : Sparse.wf th.regs = true) :
    Sparse.wf (th.setPair r v).regs = true := Thread.wf_setReg _ _ _ (Thread.wf_setReg _ _ _ h)

theorem Thread.reg_setPair (th : Thread) (r q : Nat) (v : DWord) (h : Sparse.wf th.regs = true) :
    (th.setPair r v).reg q = if q = r then lo32 v else if q = r + 1 then hi32 v else th.reg q := by
  unfold Thread.setPair
  rw [Thread.reg_setReg _ _ _ _ (Thread.wf_setReg _ _ _ h), Thread.reg_setReg _ _ _ _ h]
  by_cases h1 : q = r
  · subst h1; simp
  · simp [h1]

@[simp] theorem Thread.pred_seven (th : Thread) : th.pred 7#3 = true := by simp [Thread.pred]

/-- A write to p7 is discarded (R123). -/
@[simp] theorem Thread.setPred_seven (th : Thread) (v : Bool) : th.setPred 7#3 v = th := by simp [Thread.setPred]

theorem Thread.pred_setPred (th : Thread) (n m : BitVec 3) (v : Bool) :
    (th.setPred n v).pred m = if m = n ∧ n ≠ 7#3 then v else th.pred m := by
  unfold Thread.setPred
  by_cases hn : n = 7#3
  · simp [hn]
  · simp only [hn, if_false, Thread.pred]
    by_cases hm : m = 7#3
    · subst hm; simp [Ne.symm hn]
    · have h8 : m.toNat < 8 := m.isLt
      by_cases h : m = n
      · subst h
        cases v <;> simp [hm, h8]
      · have h' : m.toNat ≠ n.toNat := fun e => h (BitVec.eq_of_toNat_eq e)
        have hc : (!decide (m.toNat < n.toNat) && decide (m.toNat - n.toNat = 0)) = false := by
          simp; omega
        cases v <;> simp [h, h8, hc]

end Sys2Proof.Machine
end

