-- ==== Sys2Proof/Laws/Budget.lean ====
section
/-! SUPPORT. What a charge can do (R267): it changes the budget counts of one isle and the usage counts of one
partition, and nothing else of the machine. -/

namespace Sys2Proof.Machine

/-- A cost of nothing is counted as nothing. -/
theorem Budget.counted_none (f : Budget) : Budget.none.counted f = Budget.none := by
  simp [Budget.counted, Budget.none]

/-- Nothing to pay changes nothing (R267). -/
@[simp] theorem State.pay_none (s : State) (i p v : Nat) : s.pay i p v Budget.none = s := by
  simp [State.pay, Budget.counted_none]

/-- Work that costs nothing may always start (R268). -/
@[simp] theorem State.affords_none (s : State) (i p v : Nat) : s.affords i p v Budget.none = true := by
  simp only [State.affords, Budget.counted_none]
  simp [Budget.none]

/-- The two things that a charge can be. -/
theorem State.pay_cases (s : State) (i p v : Nat) (c : Budget) :
    s.pay i p v c = s ∨
      ∃ (m : Budget) (u : Partition → Tab Budget), s.pay i p v c =
        (s.modIsle i fun x => { x with budgets := Tab.set x.budgets v m }).modPart p fun q =>
        { q with usage := { q.usage with budget := u q } } := by
  simp only [State.pay]
  split
  · exact .inl rfl
  · exact .inr ⟨_, fun q => Tab.set q.usage.budget v ((Tab.getD q.usage.budget v Budget.none).add _), rfl⟩

@[simp] theorem State.pay_caps (s : State) (i p v : Nat) (c : Budget) : (s.pay i p v c).caps = s.caps := by
  obtain h | ⟨_, _, h⟩ := s.pay_cases i p v c
  · rw [h]
  · rw [h]; rfl
@[simp] theorem State.pay_cores (s : State) (i p v : Nat) (c : Budget) : (s.pay i p v c).cores = s.cores := by
  obtain h | ⟨_, _, h⟩ := s.pay_cases i p v c
  · rw [h]
  · rw [h]; rfl
@[simp] theorem State.pay_threads (s : State) (i p v : Nat) (c : Budget) : (s.pay i p v c).threads = s.threads := by
  obtain h | ⟨_, _, h⟩ := s.pay_cases i p v c
  · rw [h]
  · rw [h]; rfl
@[simp] theorem State.pay_gangs (s : State) (i p v : Nat) (c : Budget) : (s.pay i p v c).gangs = s.gangs := by
  obtain h | ⟨_, _, h⟩ := s.pay_cases i p v c
  · rw [h]
  · rw [h]; rfl
@[simp] theorem State.pay_crews (s : State) (i p v : Nat) (c : Budget) : (s.pay i p v c).crews = s.crews := by
  obtain h | ⟨_, _, h⟩ := s.pay_cases i p v c
  · rw [h]
  · rw [h]; rfl
@[simp] theorem State.pay_bands (s : State) (i p v : Nat) (c : Budget) : (s.pay i p v c).bands = s.bands := by
  obtain h | ⟨_, _, h⟩ := s.pay_cases i p v c
  · rw [h]
  · rw [h]; rfl
@[simp] theorem State.pay_jobs (s : State) (i p v : Nat) (c : Budget) : (s.pay i p v c).jobs = s.jobs := by
  obtain h | ⟨_, _, h⟩ := s.pay_cases i p v c
  · rw [h]
  · rw [h]; rfl
@[simp] theorem State.pay_mem (s : State) (i p v : Nat) (c : Budget) : (s.pay i p v c).mem = s.mem := by
  obtain h | ⟨_, _, h⟩ := s.pay_cases i p v c
  · rw [h]
  · rw [h]; rfl
@[simp] theorem State.pay_net (s : State) (i p v : Nat) (c : Budget) : (s.pay i p v c).net = s.net := by
  obtain h | ⟨_, _, h⟩ := s.pay_cases i p v c
  · rw [h]
  · rw [h]; rfl
@[simp] theorem State.pay_reqs (s : State) (i p v : Nat) (c : Budget) : (s.pay i p v c).reqs = s.reqs := by
  obtain h | ⟨_, _, h⟩ := s.pay_cases i p v c
  · rw [h]
  · rw [h]; rfl
@[simp] theorem State.pay_insps (s : State) (i p v : Nat) (c : Budget) : (s.pay i p v c).insps = s.insps := by
  obtain h | ⟨_, _, h⟩ := s.pay_cases i p v c
  · rw [h]
  · rw [h]; rfl
@[simp] theorem State.pay_msgs (s : State) (i p v : Nat) (c : Budget) : (s.pay i p v c).msgs = s.msgs := by
  obtain h | ⟨_, _, h⟩ := s.pay_cases i p v c
  · rw [h]
  · rw [h]; rfl
@[simp] theorem State.pay_fw (s : State) (i p v : Nat) (c : Budget) : (s.pay i p v c).fw = s.fw := by
  obtain h | ⟨_, _, h⟩ := s.pay_cases i p v c
  · rw [h]
  · rw [h]; rfl
@[simp] theorem State.pay_sched (s : State) (i p v : Nat) (c : Budget) : (s.pay i p v c).sched = s.sched := by
  obtain h | ⟨_, _, h⟩ := s.pay_cases i p v c
  · rw [h]
  · rw [h]; rfl

/-- A charge leaves every part of the machine but isles and partitions. -/
theorem State.pay_frame (s : State) (i p v : Nat) (c : Budget) :
    { s.pay i p v c with isles := s.isles, parts := s.parts } = s := by
  obtain h | ⟨_, _, h⟩ := s.pay_cases i p v c
  · rw [h]
  · rw [h]; rfl

/-- A charge leaves every field of every isle but the counts. -/
theorem State.pay_isle (s : State) (i p v : Nat) (c : Budget) (n : Nat) :
    { (s.pay i p v c).isle n with budgets := (s.isle n).budgets } = s.isle n := by
  obtain h | ⟨m, u, h⟩ := s.pay_cases i p v c
  · rw [h]
  · rw [h]
    by_cases e : n = i
    · subst e
      have : ((s.modIsle n fun x => { x with budgets := Tab.set x.budgets v m }).isle n)
          = { s.isle n with budgets := Tab.set (s.isle n).budgets v m } := s.isle_setIsle_same n _
      exact congrArg (fun y : Isle => { y with budgets := (s.isle n).budgets }) this
    · have : ((s.modIsle i fun x => { x with budgets := Tab.set x.budgets v m }).isle n) = s.isle n :=
        s.isle_setIsle_other i n _ e
      exact congrArg (fun y : Isle => { y with budgets := (s.isle n).budgets }) this

/-- A charge leaves every bank. -/
@[simp] theorem State.pay_bankMem (s : State) (i p v : Nat) (c : Budget) (b : Bank) :
    (s.pay i p v c).bankMem b = s.bankMem b := by
  cases b with
  | scr g => simp [State.bankMem, State.gang]
  | clu k => simp [State.bankMem, State.core]
  | lag n =>
    have h := congrArg Isle.lagoon (s.pay_isle i p v c n)
    exact h

end Sys2Proof.Machine
end

