-- ==== Sys2Proof/Laws/Decode.lean ====
section
/-! SUPPORT. The decoder undoes the encoder part by part: operand fields, header, word. -/

namespace Sys2Proof

theorem bit_lt (b : Bool) : bit b < 2 := by cases b <;> decide

theorem bitOf_toNat {n : Nat} (x : BitVec n) (i : Nat) : bitOf x i = decide (x.toNat / 2 ^ i % 2 = 1) := by
  simp [bitOf, BitVec.getLsbD, Nat.testBit_eq_decide_div_mod_eq]

theorem bool_of_bit {n : Nat} {b : Bool} (h : n % 2 = bit b) : decide (n % 2 = 1) = b := by
  rw [h]; cases b <;> decide

theorem selCode_a (z i : Bool) : bitOf (selCode z i) 1 = z := by cases z <;> cases i <;> decide

theorem selCode_b (z i : Bool) : bitOf (selCode z i) 0 = i := by cases z <;> cases i <;> decide

theorem srcA_eq (a : SrcA) (i : Bool) (y : Body) (h1 : y.a = a.field) (h2 : y.sel = selCode a.isZero i) : srcA y = a := by
  unfold srcA; rw [h1, h2, selCode_a]; cases a <;> simp [SrcA.isZero, SrcA.field]

theorem srcB_eq (b : SrcB) (z : Bool) (y : Body) (h1 : y.b = b.field) (h2 : y.sel = selCode z b.isImm)
    (h3 : y.imm = b.immField) : srcB y = b := by
  unfold srcB; rw [h1, h2, h3, selCode_b]; cases b <;> simp [SrcB.isImm, SrcB.field, SrcB.immField]

theorem ofCode_bind {α β : Type} (x : α) (f : α → Option β) : (some x).bind f = f x := rfl

@[simp] theorem IntTy.ofCode_code (x : IntTy) : IntTy.ofCode x.code = some x := by cases x <;> rfl

@[simp] theorem Space.ofCode_code (x : Space) : Space.ofCode x.code = some x := by cases x <;> rfl

@[simp] theorem Width.ofCode_code (x : Width) : Width.ofCode x.code = some x := by cases x <;> rfl

@[simp] theorem Round.ofCode_code (x : Round) : Round.ofCode x.code = some x := by cases x <;> rfl

@[simp] theorem Cc.ofCode_code (x : Cc) : Cc.ofCode x.code = some x := by cases x <;> rfl

@[simp] theorem FCc.ofCode_code (x : FCc) : FCc.ofCode x.code = some x := by cases x <;> rfl

@[simp] theorem ScanOp.ofCode_code (x : ScanOp) : ScanOp.ofCode x.code = some x := by cases x <;> rfl

@[simp] theorem AtomOp.ofCode_code (x : AtomOp) : AtomOp.ofCode x.code = some x := by cases x <;> rfl

@[simp] theorem InspTarget.ofCode_code (x : InspTarget) : InspTarget.ofCode x.code = some x := by cases x <;> rfl

@[simp] theorem SinkKind.ofCode_code (x : SinkKind) : SinkKind.ofCode x.code = some x := by cases x <;> rfl

@[simp] theorem CredOp.ofCode_code (x : CredOp) : CredOp.ofCode x.code = some x := by cases x <;> rfl

@[simp] theorem Keep.ofCode_code (x : Keep) : Keep.ofCode x.code = some x := by cases x <;> rfl

theorem OffArgs.read_body (x : OffArgs) : OffArgs.read x.body = some x := rfl

theorem PairArgs.read_body (x : PairArgs) : PairArgs.read x.body = some x := rfl

theorem BrtArgs.read_body (x : BrtArgs) : BrtArgs.read x.body = some x := by
  have e0 : slice x.body.mod 0 11 = x.count := by
    apply BitVec.eq_of_toNat_eq
    have h_a := x.a.isLt
    have h_off := x.off.isLt
    have h_count := x.count.isLt
    simp only [slice_toNat, BrtArgs.body, BitVec.toNat_ofNat]
    omega
  simp only [BrtArgs.read, e0, Option.pure_def]
  rfl

theorem CountArgs.read_body (x : CountArgs) : CountArgs.read x.body = some x := by
  have e0 : slice x.body.imm 0 16 = x.n := by
    apply BitVec.eq_of_toNat_eq
    have h_n := x.n.isLt
    simp only [slice_toNat, CountArgs.body, BitVec.toNat_ofNat]
    omega
  simp only [CountArgs.read, e0, Option.pure_def]

theorem OneArgs.read_body (x : OneArgs) : OneArgs.read x.body = some x := by
  have e0 : srcB x.body = x.b := srcB_eq x.b _ _ rfl rfl rfl
  simp only [OneArgs.read, e0, Option.pure_def]

theorem IretArgs.read_body (x : IretArgs) : IretArgs.read x.body = some x := by
  have e0 : srcB x.body = x.b := srcB_eq x.b _ _ rfl rfl rfl
  simp only [IretArgs.read, e0, Option.pure_def]

theorem SvcArgs.read_body (x : SvcArgs) : SvcArgs.read x.body = some x := by
  have e0 : slice x.body.imm 0 16 = x.n := by
    apply BitVec.eq_of_toNat_eq
    have h_d := x.d.isLt
    have h_n := x.n.isLt
    simp only [slice_toNat, SvcArgs.body, BitVec.toNat_ofNat]
    omega
  simp only [SvcArgs.read, e0, Option.pure_def]
  rfl

theorem IntSatArgs.read_body (x : IntSatArgs) : IntSatArgs.read x.body = some x := by
  have e0 : slice x.body.mod 0 1 = x.ty.code := by
    apply BitVec.eq_of_toNat_eq
    have h_ty := x.ty.code.isLt
    have h_sat := bit_lt x.sat
    have h_d := x.d.isLt
    simp only [slice_toNat, IntSatArgs.body, BitVec.toNat_ofNat]
    omega
  have e1 : bitOf x.body.mod 1 = x.sat := by
    rw [bitOf_toNat]
    apply bool_of_bit
    have h_ty := x.ty.code.isLt
    have h_sat := bit_lt x.sat
    have h_d := x.d.isLt
    simp only [IntSatArgs.body, BitVec.toNat_ofNat]
    omega
  have e2 : srcA x.body = x.a := srcA_eq x.a _ _ rfl rfl
  have e3 : srcB x.body = x.b := srcB_eq x.b _ _ rfl rfl rfl
  simp only [IntSatArgs.read, e0, e1, e2, e3, Option.bind_eq_bind, ofCode_bind, IntTy.ofCode_code, Option.pure_def]
  rfl

theorem IntTyArgs.read_body (x : IntTyArgs) : IntTyArgs.read x.body = some x := by
  have e0 : slice x.body.mod 0 1 = x.ty.code := by
    apply BitVec.eq_of_toNat_eq
    have h_ty := x.ty.code.isLt
    have h_d := x.d.isLt
    simp only [slice_toNat, IntTyArgs.body, BitVec.toNat_ofNat]
    omega
  have e1 : srcA x.body = x.a := srcA_eq x.a _ _ rfl rfl
  have e2 : srcB x.body = x.b := srcB_eq x.b _ _ rfl rfl rfl
  simp only [IntTyArgs.read, e0, e1, e2, Option.bind_eq_bind, ofCode_bind, IntTy.ofCode_code, Option.pure_def]
  rfl

theorem IntArgs.read_body (x : IntArgs) : IntArgs.read x.body = some x := by
  have e0 : srcA x.body = x.a := srcA_eq x.a _ _ rfl rfl
  have e1 : srcB x.body = x.b := srcB_eq x.b _ _ rfl rfl rfl
  simp only [IntArgs.read, e0, e1, Option.pure_def]
  rfl

theorem MulhArgs.read_body (x : MulhArgs) : MulhArgs.read x.body = some x := by
  have e0 : slice x.body.mod 0 1 = x.ty.code := by
    apply BitVec.eq_of_toNat_eq
    have h_ty := x.ty.code.isLt
    have h_d := x.d.isLt
    have h_a := x.a.isLt
    simp only [slice_toNat, MulhArgs.body, BitVec.toNat_ofNat]
    omega
  have e1 : srcB x.body = x.b := srcB_eq x.b _ _ rfl rfl rfl
  simp only [MulhArgs.read, e0, e1, Option.bind_eq_bind, ofCode_bind, IntTy.ofCode_code, Option.pure_def]
  rfl

theorem MadArgs.read_body (x : MadArgs) : MadArgs.read x.body = some x := by
  have e0 : slice x.body.mod 0 1 = x.ty.code := by
    apply BitVec.eq_of_toNat_eq
    have h_ty := x.ty.code.isLt
    have h_sat := bit_lt x.sat
    have h_d := x.d.isLt
    have h_a := x.a.isLt
    simp only [slice_toNat, MadArgs.body, BitVec.toNat_ofNat]
    omega
  have e1 : bitOf x.body.mod 1 = x.sat := by
    rw [bitOf_toNat]
    apply bool_of_bit
    have h_ty := x.ty.code.isLt
    have h_sat := bit_lt x.sat
    have h_d := x.d.isLt
    have h_a := x.a.isLt
    simp only [MadArgs.body, BitVec.toNat_ofNat]
    omega
  have e2 : srcB x.body = x.b := srcB_eq x.b _ _ rfl rfl rfl
  simp only [MadArgs.read, e0, e1, e2, Option.bind_eq_bind, ofCode_bind, IntTy.ofCode_code, Option.pure_def]
  rfl

theorem MadwArgs.read_body (x : MadwArgs) : MadwArgs.read x.body = some x := by
  have e0 : slice x.body.mod 0 1 = x.ty.code := by
    apply BitVec.eq_of_toNat_eq
    have h_ty := x.ty.code.isLt
    have h_d := x.d.isLt
    have h_a := x.a.isLt
    simp only [slice_toNat, MadwArgs.body, BitVec.toNat_ofNat]
    omega
  have e1 : srcB x.body = x.b := srcB_eq x.b _ _ rfl rfl rfl
  simp only [MadwArgs.read, e0, e1, Option.bind_eq_bind, ofCode_bind, IntTy.ofCode_code, Option.pure_def]
  rfl

theorem WideArgs.read_body (x : WideArgs) : WideArgs.read x.body = some x := by
  have e0 : srcB x.body = x.b := srcB_eq x.b _ _ rfl rfl rfl
  simp only [WideArgs.read, e0, Option.pure_def]
  rfl

theorem UnSatArgs.read_body (x : UnSatArgs) : UnSatArgs.read x.body = some x := by
  have e0 : bitOf x.body.mod 1 = x.sat := by
    rw [bitOf_toNat]
    apply bool_of_bit
    have h_sat := bit_lt x.sat
    have h_d := x.d.isLt
    have h_b := x.b.isLt
    simp only [UnSatArgs.body, BitVec.toNat_ofNat]
    omega
  simp only [UnSatArgs.read, e0, Option.pure_def]
  rfl

theorem UnArgs.read_body (x : UnArgs) : UnArgs.read x.body = some x := rfl

theorem LeaArgs.read_body (x : LeaArgs) : LeaArgs.read x.body = some x := by
  have e0 : slice x.body.mod 0 1 = x.ty.code := by
    apply BitVec.eq_of_toNat_eq
    have h_ty := x.ty.code.isLt
    have h_d := x.d.isLt
    have h_b := x.b.isLt
    have h_sh := x.sh.isLt
    simp only [slice_toNat, LeaArgs.body, BitVec.toNat_ofNat]
    omega
  have e1 : srcA x.body = x.a := srcA_eq x.a _ _ rfl rfl
  have e2 : slice x.body.imm 0 5 = x.sh := by
    apply BitVec.eq_of_toNat_eq
    have h_ty := x.ty.code.isLt
    have h_d := x.d.isLt
    have h_b := x.b.isLt
    have h_sh := x.sh.isLt
    simp only [slice_toNat, LeaArgs.body, BitVec.toNat_ofNat]
    omega
  simp only [LeaArgs.read, e0, e1, e2, Option.bind_eq_bind, ofCode_bind, IntTy.ofCode_code, Option.pure_def]
  rfl

theorem PrmbArgs.read_body (x : PrmbArgs) : PrmbArgs.read x.body = some x := by
  have e0 : srcA x.body = x.a := srcA_eq x.a _ _ rfl rfl
  have e1 : slice x.body.imm 0 16 = x.pick := by
    apply BitVec.eq_of_toNat_eq
    have h_d := x.d.isLt
    have h_b := x.b.isLt
    have h_pick := x.pick.isLt
    simp only [slice_toNat, PrmbArgs.body, BitVec.toNat_ofNat]
    omega
  simp only [PrmbArgs.read, e0, e1, Option.pure_def]
  rfl

theorem SelArgs.read_body (x : SelArgs) : SelArgs.read x.body = some x := by
  have e0 : srcA x.body = x.a := srcA_eq x.a _ _ rfl rfl
  have e1 : slice x.body.imm 0 3 = x.p := by
    apply BitVec.eq_of_toNat_eq
    have h_d := x.d.isLt
    have h_b := x.b.isLt
    have h_p := x.p.isLt
    have h_neg := bit_lt x.neg
    simp only [slice_toNat, SelArgs.body, BitVec.toNat_ofNat]
    omega
  have e2 : bitOf x.body.imm 3 = x.neg := by
    rw [bitOf_toNat]
    apply bool_of_bit
    have h_d := x.d.isLt
    have h_b := x.b.isLt
    have h_p := x.p.isLt
    have h_neg := bit_lt x.neg
    simp only [SelArgs.body, BitVec.toNat_ofNat]
    omega
  simp only [SelArgs.read, e0, e1, e2, Option.pure_def]
  rfl

theorem MovArgs.read_body (x : MovArgs) : MovArgs.read x.body = some x := by
  have e0 : srcB x.body = x.b := srcB_eq x.b _ _ rfl rfl rfl
  simp only [MovArgs.read, e0, Option.pure_def]
  rfl

theorem IcmpArgs.read_body (x : IcmpArgs) : IcmpArgs.read x.body = some x := by
  have e0 : slice x.body.mod 0 3 = x.cc.code := by
    apply BitVec.eq_of_toNat_eq
    have h_cc := x.cc.code.isLt
    have h_ty := x.ty.code.isLt
    have h_p := x.p.isLt
    simp only [slice_toNat, IcmpArgs.body, BitVec.toNat_ofNat]
    omega
  have e1 : slice x.body.mod 3 1 = x.ty.code := by
    apply BitVec.eq_of_toNat_eq
    have h_cc := x.cc.code.isLt
    have h_ty := x.ty.code.isLt
    have h_p := x.p.isLt
    simp only [slice_toNat, IcmpArgs.body, BitVec.toNat_ofNat]
    omega
  have e2 : slice x.body.d 0 3 = x.p := by
    apply BitVec.eq_of_toNat_eq
    have h_cc := x.cc.code.isLt
    have h_ty := x.ty.code.isLt
    have h_p := x.p.isLt
    simp only [slice_toNat, IcmpArgs.body, BitVec.toNat_setWidth]
    omega
  have e3 : srcA x.body = x.a := srcA_eq x.a _ _ rfl rfl
  have e4 : srcB x.body = x.b := srcB_eq x.b _ _ rfl rfl rfl
  simp only [IcmpArgs.read, e0, e1, e2, e3, e4, Option.bind_eq_bind, ofCode_bind, Cc.ofCode_code, IntTy.ofCode_code, Option.pure_def]

theorem PlopArgs.read_body (x : PlopArgs) : PlopArgs.read x.body = some x := by
  have e0 : slice x.body.d 0 3 = x.p := by
    apply BitVec.eq_of_toNat_eq
    have h_p := x.p.isLt
    have h_pa := x.pa.isLt
    have h_pb := x.pb.isLt
    have h_pc := x.pc.isLt
    have h_table := x.table.isLt
    simp only [slice_toNat, PlopArgs.body, BitVec.toNat_setWidth]
    omega
  have e1 : slice x.body.a 0 3 = x.pa := by
    apply BitVec.eq_of_toNat_eq
    have h_p := x.p.isLt
    have h_pa := x.pa.isLt
    have h_pb := x.pb.isLt
    have h_pc := x.pc.isLt
    have h_table := x.table.isLt
    simp only [slice_toNat, PlopArgs.body, BitVec.toNat_setWidth]
    omega
  have e2 : slice x.body.b 0 3 = x.pb := by
    apply BitVec.eq_of_toNat_eq
    have h_p := x.p.isLt
    have h_pa := x.pa.isLt
    have h_pb := x.pb.isLt
    have h_pc := x.pc.isLt
    have h_table := x.table.isLt
    simp only [slice_toNat, PlopArgs.body, BitVec.toNat_setWidth]
    omega
  have e3 : slice x.body.imm 0 3 = x.pc := by
    apply BitVec.eq_of_toNat_eq
    have h_p := x.p.isLt
    have h_pa := x.pa.isLt
    have h_pb := x.pb.isLt
    have h_pc := x.pc.isLt
    have h_table := x.table.isLt
    simp only [slice_toNat, PlopArgs.body, BitVec.toNat_ofNat]
    omega
  have e4 : slice x.body.mod 0 8 = x.table := by
    apply BitVec.eq_of_toNat_eq
    have h_p := x.p.isLt
    have h_pa := x.pa.isLt
    have h_pb := x.pb.isLt
    have h_pc := x.pc.isLt
    have h_table := x.table.isLt
    simp only [slice_toNat, PlopArgs.body, BitVec.toNat_ofNat]
    omega
  simp only [PlopArgs.read, e0, e1, e2, e3, e4, Option.pure_def]

theorem DstArgs.read_body (x : DstArgs) : DstArgs.read x.body = some x := rfl

theorem DstPairArgs.read_body (x : DstPairArgs) : DstPairArgs.read x.body = some x := rfl

theorem G2pArgs.read_body (x : G2pArgs) : G2pArgs.read x.body = some x := by
  have e0 : slice x.body.imm 0 7 = x.mask := by
    apply BitVec.eq_of_toNat_eq
    have h_b := x.b.isLt
    have h_mask := x.mask.isLt
    simp only [slice_toNat, G2pArgs.body, BitVec.toNat_ofNat]
    omega
  simp only [G2pArgs.read, e0, Option.pure_def]
  rfl

theorem ShflArgs.read_body (x : ShflArgs) : ShflArgs.read x.body = some x := by
  have e0 : srcB x.body = x.b := srcB_eq x.b _ _ rfl rfl rfl
  simp only [ShflArgs.read, e0, Option.pure_def]
  rfl

theorem VotePredArgs.read_body (x : VotePredArgs) : VotePredArgs.read x.body = some x := by
  have e0 : slice x.body.d 0 3 = x.p := by
    apply BitVec.eq_of_toNat_eq
    have h_p := x.p.isLt
    have h_pa := x.pa.isLt
    simp only [slice_toNat, VotePredArgs.body, BitVec.toNat_setWidth]
    omega
  have e1 : slice x.body.a 0 3 = x.pa := by
    apply BitVec.eq_of_toNat_eq
    have h_p := x.p.isLt
    have h_pa := x.pa.isLt
    simp only [slice_toNat, VotePredArgs.body, BitVec.toNat_setWidth]
    omega
  simp only [VotePredArgs.read, e0, e1, Option.pure_def]

theorem VoteRegArgs.read_body (x : VoteRegArgs) : VoteRegArgs.read x.body = some x := by
  have e0 : slice x.body.a 0 3 = x.pa := by
    apply BitVec.eq_of_toNat_eq
    have h_d := x.d.isLt
    have h_pa := x.pa.isLt
    simp only [slice_toNat, VoteRegArgs.body, BitVec.toNat_setWidth]
    omega
  simp only [VoteRegArgs.read, e0, Option.pure_def]
  rfl

theorem CredArgs.read_body (x : CredArgs) : CredArgs.read x.body = some x := by
  have e0 : slice x.body.mod 0 1 = x.ty.code := by
    apply BitVec.eq_of_toNat_eq
    have h_ty := x.ty.code.isLt
    have h_d := x.d.isLt
    simp only [slice_toNat, CredArgs.body, BitVec.toNat_ofNat]
    omega
  have e1 : srcB x.body = x.b := srcB_eq x.b _ _ rfl rfl rfl
  simp only [CredArgs.read, e0, e1, Option.bind_eq_bind, ofCode_bind, IntTy.ofCode_code, Option.pure_def]
  rfl

theorem CscanArgs.read_body (x : CscanArgs) : CscanArgs.read x.body = some x := by
  have e0 : slice x.body.mod 0 1 = x.ty.code := by
    apply BitVec.eq_of_toNat_eq
    have h_ty := x.ty.code.isLt
    have h_op := x.op.code.isLt
    have h_d := x.d.isLt
    simp only [slice_toNat, CscanArgs.body, BitVec.toNat_ofNat]
    omega
  have e1 : slice x.body.mod 1 3 = x.op.code := by
    apply BitVec.eq_of_toNat_eq
    have h_ty := x.ty.code.isLt
    have h_op := x.op.code.isLt
    have h_d := x.d.isLt
    simp only [slice_toNat, CscanArgs.body, BitVec.toNat_ofNat]
    omega
  have e2 : srcB x.body = x.b := srcB_eq x.b _ _ rfl rfl rfl
  simp only [CscanArgs.read, e0, e1, e2, Option.bind_eq_bind, ofCode_bind, IntTy.ofCode_code, ScanOp.ofCode_code, Option.pure_def]
  rfl

theorem ElectArgs.read_body (x : ElectArgs) : ElectArgs.read x.body = some x := by
  have e0 : slice x.body.d 0 3 = x.p := by
    apply BitVec.eq_of_toNat_eq
    have h_p := x.p.isLt
    simp only [slice_toNat, ElectArgs.body, BitVec.toNat_setWidth]
    omega
  simp only [ElectArgs.read, e0, Option.pure_def]

theorem FpArgs.read_body (x : FpArgs) : FpArgs.read x.body = some x := by
  have e0 : slice x.body.mod 0 3 = x.rnd.code := by
    apply BitVec.eq_of_toNat_eq
    have h_rnd := x.rnd.code.isLt
    have h_na := bit_lt x.na
    have h_aa := bit_lt x.aa
    have h_nb := bit_lt x.nb
    have h_ab := bit_lt x.ab
    have h_sat := bit_lt x.sat
    have h_d := x.d.isLt
    simp only [slice_toNat, FpArgs.body, BitVec.toNat_ofNat]
    omega
  have e1 : bitOf x.body.mod 3 = x.na := by
    rw [bitOf_toNat]
    apply bool_of_bit
    have h_rnd := x.rnd.code.isLt
    have h_na := bit_lt x.na
    have h_aa := bit_lt x.aa
    have h_nb := bit_lt x.nb
    have h_ab := bit_lt x.ab
    have h_sat := bit_lt x.sat
    have h_d := x.d.isLt
    simp only [FpArgs.body, BitVec.toNat_ofNat]
    omega
  have e2 : bitOf x.body.mod 4 = x.aa := by
    rw [bitOf_toNat]
    apply bool_of_bit
    have h_rnd := x.rnd.code.isLt
    have h_na := bit_lt x.na
    have h_aa := bit_lt x.aa
    have h_nb := bit_lt x.nb
    have h_ab := bit_lt x.ab
    have h_sat := bit_lt x.sat
    have h_d := x.d.isLt
    simp only [FpArgs.body, BitVec.toNat_ofNat]
    omega
  have e3 : bitOf x.body.mod 5 = x.nb := by
    rw [bitOf_toNat]
    apply bool_of_bit
    have h_rnd := x.rnd.code.isLt
    have h_na := bit_lt x.na
    have h_aa := bit_lt x.aa
    have h_nb := bit_lt x.nb
    have h_ab := bit_lt x.ab
    have h_sat := bit_lt x.sat
    have h_d := x.d.isLt
    simp only [FpArgs.body, BitVec.toNat_ofNat]
    omega
  have e4 : bitOf x.body.mod 6 = x.ab := by
    rw [bitOf_toNat]
    apply bool_of_bit
    have h_rnd := x.rnd.code.isLt
    have h_na := bit_lt x.na
    have h_aa := bit_lt x.aa
    have h_nb := bit_lt x.nb
    have h_ab := bit_lt x.ab
    have h_sat := bit_lt x.sat
    have h_d := x.d.isLt
    simp only [FpArgs.body, BitVec.toNat_ofNat]
    omega
  have e5 : bitOf x.body.mod 7 = x.sat := by
    rw [bitOf_toNat]
    apply bool_of_bit
    have h_rnd := x.rnd.code.isLt
    have h_na := bit_lt x.na
    have h_aa := bit_lt x.aa
    have h_nb := bit_lt x.nb
    have h_ab := bit_lt x.ab
    have h_sat := bit_lt x.sat
    have h_d := x.d.isLt
    simp only [FpArgs.body, BitVec.toNat_ofNat]
    omega
  have e6 : srcA x.body = x.a := srcA_eq x.a _ _ rfl rfl
  have e7 : srcB x.body = x.b := srcB_eq x.b _ _ rfl rfl rfl
  simp only [FpArgs.read, e0, e1, e2, e3, e4, e5, e6, e7, Option.bind_eq_bind, ofCode_bind, Round.ofCode_code, Option.pure_def]
  rfl

theorem DpArgs.read_body (x : DpArgs) : DpArgs.read x.body = some x := by
  have e0 : slice x.body.mod 0 3 = x.rnd.code := by
    apply BitVec.eq_of_toNat_eq
    have h_rnd := x.rnd.code.isLt
    have h_na := bit_lt x.na
    have h_aa := bit_lt x.aa
    have h_nb := bit_lt x.nb
    have h_ab := bit_lt x.ab
    have h_sat := bit_lt x.sat
    have h_d := x.d.isLt
    simp only [slice_toNat, DpArgs.body, BitVec.toNat_ofNat]
    omega
  have e1 : bitOf x.body.mod 3 = x.na := by
    rw [bitOf_toNat]
    apply bool_of_bit
    have h_rnd := x.rnd.code.isLt
    have h_na := bit_lt x.na
    have h_aa := bit_lt x.aa
    have h_nb := bit_lt x.nb
    have h_ab := bit_lt x.ab
    have h_sat := bit_lt x.sat
    have h_d := x.d.isLt
    simp only [DpArgs.body, BitVec.toNat_ofNat]
    omega
  have e2 : bitOf x.body.mod 4 = x.aa := by
    rw [bitOf_toNat]
    apply bool_of_bit
    have h_rnd := x.rnd.code.isLt
    have h_na := bit_lt x.na
    have h_aa := bit_lt x.aa
    have h_nb := bit_lt x.nb
    have h_ab := bit_lt x.ab
    have h_sat := bit_lt x.sat
    have h_d := x.d.isLt
    simp only [DpArgs.body, BitVec.toNat_ofNat]
    omega
  have e3 : bitOf x.body.mod 5 = x.nb := by
    rw [bitOf_toNat]
    apply bool_of_bit
    have h_rnd := x.rnd.code.isLt
    have h_na := bit_lt x.na
    have h_aa := bit_lt x.aa
    have h_nb := bit_lt x.nb
    have h_ab := bit_lt x.ab
    have h_sat := bit_lt x.sat
    have h_d := x.d.isLt
    simp only [DpArgs.body, BitVec.toNat_ofNat]
    omega
  have e4 : bitOf x.body.mod 6 = x.ab := by
    rw [bitOf_toNat]
    apply bool_of_bit
    have h_rnd := x.rnd.code.isLt
    have h_na := bit_lt x.na
    have h_aa := bit_lt x.aa
    have h_nb := bit_lt x.nb
    have h_ab := bit_lt x.ab
    have h_sat := bit_lt x.sat
    have h_d := x.d.isLt
    simp only [DpArgs.body, BitVec.toNat_ofNat]
    omega
  have e5 : bitOf x.body.mod 7 = x.sat := by
    rw [bitOf_toNat]
    apply bool_of_bit
    have h_rnd := x.rnd.code.isLt
    have h_na := bit_lt x.na
    have h_aa := bit_lt x.aa
    have h_nb := bit_lt x.nb
    have h_ab := bit_lt x.ab
    have h_sat := bit_lt x.sat
    have h_d := x.d.isLt
    simp only [DpArgs.body, BitVec.toNat_ofNat]
    omega
  have e6 : srcA x.body = x.a := srcA_eq x.a _ _ rfl rfl
  have e7 : srcB x.body = x.b := srcB_eq x.b _ _ rfl rfl rfl
  simp only [DpArgs.read, e0, e1, e2, e3, e4, e5, e6, e7, Option.bind_eq_bind, ofCode_bind, Round.ofCode_code, Option.pure_def]
  rfl

theorem FminArgs.read_body (x : FminArgs) : FminArgs.read x.body = some x := by
  have e0 : bitOf x.body.mod 3 = x.na := by
    rw [bitOf_toNat]
    apply bool_of_bit
    have h_na := bit_lt x.na
    have h_aa := bit_lt x.aa
    have h_nb := bit_lt x.nb
    have h_ab := bit_lt x.ab
    have h_d := x.d.isLt
    simp only [FminArgs.body, BitVec.toNat_ofNat]
    omega
  have e1 : bitOf x.body.mod 4 = x.aa := by
    rw [bitOf_toNat]
    apply bool_of_bit
    have h_na := bit_lt x.na
    have h_aa := bit_lt x.aa
    have h_nb := bit_lt x.nb
    have h_ab := bit_lt x.ab
    have h_d := x.d.isLt
    simp only [FminArgs.body, BitVec.toNat_ofNat]
    omega
  have e2 : bitOf x.body.mod 5 = x.nb := by
    rw [bitOf_toNat]
    apply bool_of_bit
    have h_na := bit_lt x.na
    have h_aa := bit_lt x.aa
    have h_nb := bit_lt x.nb
    have h_ab := bit_lt x.ab
    have h_d := x.d.isLt
    simp only [FminArgs.body, BitVec.toNat_ofNat]
    omega
  have e3 : bitOf x.body.mod 6 = x.ab := by
    rw [bitOf_toNat]
    apply bool_of_bit
    have h_na := bit_lt x.na
    have h_aa := bit_lt x.aa
    have h_nb := bit_lt x.nb
    have h_ab := bit_lt x.ab
    have h_d := x.d.isLt
    simp only [FminArgs.body, BitVec.toNat_ofNat]
    omega
  have e4 : srcA x.body = x.a := srcA_eq x.a _ _ rfl rfl
  have e5 : srcB x.body = x.b := srcB_eq x.b _ _ rfl rfl rfl
  simp only [FminArgs.read, e0, e1, e2, e3, e4, e5, Option.pure_def]
  rfl

theorem FcmpArgs.read_body (x : FcmpArgs) : FcmpArgs.read x.body = some x := by
  have e0 : slice x.body.mod 0 3 = x.cc.code := by
    apply BitVec.eq_of_toNat_eq
    have h_cc := x.cc.code.isLt
    have h_na := bit_lt x.na
    have h_aa := bit_lt x.aa
    have h_nb := bit_lt x.nb
    have h_ab := bit_lt x.ab
    have h_p := x.p.isLt
    simp only [slice_toNat, FcmpArgs.body, BitVec.toNat_ofNat]
    omega
  have e1 : bitOf x.body.mod 3 = x.na := by
    rw [bitOf_toNat]
    apply bool_of_bit
    have h_cc := x.cc.code.isLt
    have h_na := bit_lt x.na
    have h_aa := bit_lt x.aa
    have h_nb := bit_lt x.nb
    have h_ab := bit_lt x.ab
    have h_p := x.p.isLt
    simp only [FcmpArgs.body, BitVec.toNat_ofNat]
    omega
  have e2 : bitOf x.body.mod 4 = x.aa := by
    rw [bitOf_toNat]
    apply bool_of_bit
    have h_cc := x.cc.code.isLt
    have h_na := bit_lt x.na
    have h_aa := bit_lt x.aa
    have h_nb := bit_lt x.nb
    have h_ab := bit_lt x.ab
    have h_p := x.p.isLt
    simp only [FcmpArgs.body, BitVec.toNat_ofNat]
    omega
  have e3 : bitOf x.body.mod 5 = x.nb := by
    rw [bitOf_toNat]
    apply bool_of_bit
    have h_cc := x.cc.code.isLt
    have h_na := bit_lt x.na
    have h_aa := bit_lt x.aa
    have h_nb := bit_lt x.nb
    have h_ab := bit_lt x.ab
    have h_p := x.p.isLt
    simp only [FcmpArgs.body, BitVec.toNat_ofNat]
    omega
  have e4 : bitOf x.body.mod 6 = x.ab := by
    rw [bitOf_toNat]
    apply bool_of_bit
    have h_cc := x.cc.code.isLt
    have h_na := bit_lt x.na
    have h_aa := bit_lt x.aa
    have h_nb := bit_lt x.nb
    have h_ab := bit_lt x.ab
    have h_p := x.p.isLt
    simp only [FcmpArgs.body, BitVec.toNat_ofNat]
    omega
  have e5 : slice x.body.d 0 3 = x.p := by
    apply BitVec.eq_of_toNat_eq
    have h_cc := x.cc.code.isLt
    have h_na := bit_lt x.na
    have h_aa := bit_lt x.aa
    have h_nb := bit_lt x.nb
    have h_ab := bit_lt x.ab
    have h_p := x.p.isLt
    simp only [slice_toNat, FcmpArgs.body, BitVec.toNat_setWidth]
    omega
  have e6 : srcA x.body = x.a := srcA_eq x.a _ _ rfl rfl
  have e7 : srcB x.body = x.b := srcB_eq x.b _ _ rfl rfl rfl
  simp only [FcmpArgs.read, e0, e1, e2, e3, e4, e5, e6, e7, Option.bind_eq_bind, ofCode_bind, FCc.ofCode_code, Option.pure_def]

theorem DcmpArgs.read_body (x : DcmpArgs) : DcmpArgs.read x.body = some x := by
  have e0 : slice x.body.mod 0 3 = x.cc.code := by
    apply BitVec.eq_of_toNat_eq
    have h_cc := x.cc.code.isLt
    have h_na := bit_lt x.na
    have h_aa := bit_lt x.aa
    have h_nb := bit_lt x.nb
    have h_ab := bit_lt x.ab
    have h_p := x.p.isLt
    simp only [slice_toNat, DcmpArgs.body, BitVec.toNat_ofNat]
    omega
  have e1 : bitOf x.body.mod 3 = x.na := by
    rw [bitOf_toNat]
    apply bool_of_bit
    have h_cc := x.cc.code.isLt
    have h_na := bit_lt x.na
    have h_aa := bit_lt x.aa
    have h_nb := bit_lt x.nb
    have h_ab := bit_lt x.ab
    have h_p := x.p.isLt
    simp only [DcmpArgs.body, BitVec.toNat_ofNat]
    omega
  have e2 : bitOf x.body.mod 4 = x.aa := by
    rw [bitOf_toNat]
    apply bool_of_bit
    have h_cc := x.cc.code.isLt
    have h_na := bit_lt x.na
    have h_aa := bit_lt x.aa
    have h_nb := bit_lt x.nb
    have h_ab := bit_lt x.ab
    have h_p := x.p.isLt
    simp only [DcmpArgs.body, BitVec.toNat_ofNat]
    omega
  have e3 : bitOf x.body.mod 5 = x.nb := by
    rw [bitOf_toNat]
    apply bool_of_bit
    have h_cc := x.cc.code.isLt
    have h_na := bit_lt x.na
    have h_aa := bit_lt x.aa
    have h_nb := bit_lt x.nb
    have h_ab := bit_lt x.ab
    have h_p := x.p.isLt
    simp only [DcmpArgs.body, BitVec.toNat_ofNat]
    omega
  have e4 : bitOf x.body.mod 6 = x.ab := by
    rw [bitOf_toNat]
    apply bool_of_bit
    have h_cc := x.cc.code.isLt
    have h_na := bit_lt x.na
    have h_aa := bit_lt x.aa
    have h_nb := bit_lt x.nb
    have h_ab := bit_lt x.ab
    have h_p := x.p.isLt
    simp only [DcmpArgs.body, BitVec.toNat_ofNat]
    omega
  have e5 : slice x.body.d 0 3 = x.p := by
    apply BitVec.eq_of_toNat_eq
    have h_cc := x.cc.code.isLt
    have h_na := bit_lt x.na
    have h_aa := bit_lt x.aa
    have h_nb := bit_lt x.nb
    have h_ab := bit_lt x.ab
    have h_p := x.p.isLt
    simp only [slice_toNat, DcmpArgs.body, BitVec.toNat_setWidth]
    omega
  have e6 : srcA x.body = x.a := srcA_eq x.a _ _ rfl rfl
  have e7 : srcB x.body = x.b := srcB_eq x.b _ _ rfl rfl rfl
  simp only [DcmpArgs.read, e0, e1, e2, e3, e4, e5, e6, e7, Option.bind_eq_bind, ofCode_bind, FCc.ofCode_code, Option.pure_def]

theorem FunArgs.read_body (x : FunArgs) : FunArgs.read x.body = some x := by
  have e0 : slice x.body.mod 0 3 = x.rnd.code := by
    apply BitVec.eq_of_toNat_eq
    have h_rnd := x.rnd.code.isLt
    have h_nb := bit_lt x.nb
    have h_ab := bit_lt x.ab
    have h_sat := bit_lt x.sat
    have h_d := x.d.isLt
    simp only [slice_toNat, FunArgs.body, BitVec.toNat_ofNat]
    omega
  have e1 : bitOf x.body.mod 5 = x.nb := by
    rw [bitOf_toNat]
    apply bool_of_bit
    have h_rnd := x.rnd.code.isLt
    have h_nb := bit_lt x.nb
    have h_ab := bit_lt x.ab
    have h_sat := bit_lt x.sat
    have h_d := x.d.isLt
    simp only [FunArgs.body, BitVec.toNat_ofNat]
    omega
  have e2 : bitOf x.body.mod 6 = x.ab := by
    rw [bitOf_toNat]
    apply bool_of_bit
    have h_rnd := x.rnd.code.isLt
    have h_nb := bit_lt x.nb
    have h_ab := bit_lt x.ab
    have h_sat := bit_lt x.sat
    have h_d := x.d.isLt
    simp only [FunArgs.body, BitVec.toNat_ofNat]
    omega
  have e3 : bitOf x.body.mod 7 = x.sat := by
    rw [bitOf_toNat]
    apply bool_of_bit
    have h_rnd := x.rnd.code.isLt
    have h_nb := bit_lt x.nb
    have h_ab := bit_lt x.ab
    have h_sat := bit_lt x.sat
    have h_d := x.d.isLt
    simp only [FunArgs.body, BitVec.toNat_ofNat]
    omega
  have e4 : srcB x.body = x.b := srcB_eq x.b _ _ rfl rfl rfl
  simp only [FunArgs.read, e0, e1, e2, e3, e4, Option.bind_eq_bind, ofCode_bind, Round.ofCode_code, Option.pure_def]
  rfl

theorem FscaleArgs.read_body (x : FscaleArgs) : FscaleArgs.read x.body = some x := by
  have e0 : slice x.body.mod 0 3 = x.rnd.code := by
    apply BitVec.eq_of_toNat_eq
    have h_rnd := x.rnd.code.isLt
    have h_na := bit_lt x.na
    have h_aa := bit_lt x.aa
    have h_sat := bit_lt x.sat
    have h_d := x.d.isLt
    have h_a := x.a.isLt
    simp only [slice_toNat, FscaleArgs.body, BitVec.toNat_ofNat]
    omega
  have e1 : bitOf x.body.mod 3 = x.na := by
    rw [bitOf_toNat]
    apply bool_of_bit
    have h_rnd := x.rnd.code.isLt
    have h_na := bit_lt x.na
    have h_aa := bit_lt x.aa
    have h_sat := bit_lt x.sat
    have h_d := x.d.isLt
    have h_a := x.a.isLt
    simp only [FscaleArgs.body, BitVec.toNat_ofNat]
    omega
  have e2 : bitOf x.body.mod 4 = x.aa := by
    rw [bitOf_toNat]
    apply bool_of_bit
    have h_rnd := x.rnd.code.isLt
    have h_na := bit_lt x.na
    have h_aa := bit_lt x.aa
    have h_sat := bit_lt x.sat
    have h_d := x.d.isLt
    have h_a := x.a.isLt
    simp only [FscaleArgs.body, BitVec.toNat_ofNat]
    omega
  have e3 : bitOf x.body.mod 7 = x.sat := by
    rw [bitOf_toNat]
    apply bool_of_bit
    have h_rnd := x.rnd.code.isLt
    have h_na := bit_lt x.na
    have h_aa := bit_lt x.aa
    have h_sat := bit_lt x.sat
    have h_d := x.d.isLt
    have h_a := x.a.isLt
    simp only [FscaleArgs.body, BitVec.toNat_ofNat]
    omega
  have e4 : srcB x.body = x.b := srcB_eq x.b _ _ rfl rfl rfl
  simp only [FscaleArgs.read, e0, e1, e2, e3, e4, Option.bind_eq_bind, ofCode_bind, Round.ofCode_code, Option.pure_def]
  rfl

theorem FrintArgs.read_body (x : FrintArgs) : FrintArgs.read x.body = some x := by
  have e0 : slice x.body.mod 0 3 = x.rnd.code := by
    apply BitVec.eq_of_toNat_eq
    have h_rnd := x.rnd.code.isLt
    have h_nb := bit_lt x.nb
    have h_ab := bit_lt x.ab
    have h_d := x.d.isLt
    simp only [slice_toNat, FrintArgs.body, BitVec.toNat_ofNat]
    omega
  have e1 : bitOf x.body.mod 5 = x.nb := by
    rw [bitOf_toNat]
    apply bool_of_bit
    have h_rnd := x.rnd.code.isLt
    have h_nb := bit_lt x.nb
    have h_ab := bit_lt x.ab
    have h_d := x.d.isLt
    simp only [FrintArgs.body, BitVec.toNat_ofNat]
    omega
  have e2 : bitOf x.body.mod 6 = x.ab := by
    rw [bitOf_toNat]
    apply bool_of_bit
    have h_rnd := x.rnd.code.isLt
    have h_nb := bit_lt x.nb
    have h_ab := bit_lt x.ab
    have h_d := x.d.isLt
    simp only [FrintArgs.body, BitVec.toNat_ofNat]
    omega
  have e3 : srcB x.body = x.b := srcB_eq x.b _ _ rfl rfl rfl
  simp only [FrintArgs.read, e0, e1, e2, e3, Option.bind_eq_bind, ofCode_bind, Round.ofCode_code, Option.pure_def]
  rfl

theorem FcvtArgs.read_body (x : FcvtArgs) : FcvtArgs.read x.body = some x := by
  have e0 : slice x.body.mod 0 5 = x.ed := by
    apply BitVec.eq_of_toNat_eq
    have h_ed := x.ed.isLt
    have h_d := x.d.isLt
    have h_a := x.a.isLt
    have h_es := x.es.isLt
    have h_rnd := x.rnd.code.isLt
    simp only [slice_toNat, FcvtArgs.body, BitVec.toNat_ofNat]
    omega
  have e1 : slice x.body.imm 0 5 = x.es := by
    apply BitVec.eq_of_toNat_eq
    have h_ed := x.ed.isLt
    have h_d := x.d.isLt
    have h_a := x.a.isLt
    have h_es := x.es.isLt
    have h_rnd := x.rnd.code.isLt
    simp only [slice_toNat, FcvtArgs.body, BitVec.toNat_ofNat]
    omega
  have e2 : slice x.body.imm 8 3 = x.rnd.code := by
    apply BitVec.eq_of_toNat_eq
    have h_ed := x.ed.isLt
    have h_d := x.d.isLt
    have h_a := x.a.isLt
    have h_es := x.es.isLt
    have h_rnd := x.rnd.code.isLt
    simp only [slice_toNat, FcvtArgs.body, BitVec.toNat_ofNat]
    omega
  simp only [FcvtArgs.read, e0, e1, e2, Option.bind_eq_bind, ofCode_bind, Round.ofCode_code, Option.pure_def]
  rfl

theorem FtoiArgs.read_body (x : FtoiArgs) : FtoiArgs.read x.body = some x := by
  have e0 : slice x.body.mod 0 3 = x.rnd.code := by
    apply BitVec.eq_of_toNat_eq
    have h_rnd := x.rnd.code.isLt
    have h_ty := x.ty.code.isLt
    have h_d := x.d.isLt
    have h_b := x.b.isLt
    simp only [slice_toNat, FtoiArgs.body, BitVec.toNat_ofNat]
    omega
  have e1 : slice x.body.mod 3 1 = x.ty.code := by
    apply BitVec.eq_of_toNat_eq
    have h_rnd := x.rnd.code.isLt
    have h_ty := x.ty.code.isLt
    have h_d := x.d.isLt
    have h_b := x.b.isLt
    simp only [slice_toNat, FtoiArgs.body, BitVec.toNat_ofNat]
    omega
  simp only [FtoiArgs.read, e0, e1, Option.bind_eq_bind, ofCode_bind, Round.ofCode_code, IntTy.ofCode_code, Option.pure_def]
  rfl

theorem ItofArgs.read_body (x : ItofArgs) : ItofArgs.read x.body = some x := by
  have e0 : slice x.body.mod 0 3 = x.rnd.code := by
    apply BitVec.eq_of_toNat_eq
    have h_rnd := x.rnd.code.isLt
    have h_ty := x.ty.code.isLt
    have h_d := x.d.isLt
    simp only [slice_toNat, ItofArgs.body, BitVec.toNat_ofNat]
    omega
  have e1 : slice x.body.mod 3 1 = x.ty.code := by
    apply BitVec.eq_of_toNat_eq
    have h_rnd := x.rnd.code.isLt
    have h_ty := x.ty.code.isLt
    have h_d := x.d.isLt
    simp only [slice_toNat, ItofArgs.body, BitVec.toNat_ofNat]
    omega
  have e2 : srcB x.body = x.b := srcB_eq x.b _ _ rfl rfl rfl
  simp only [ItofArgs.read, e0, e1, e2, Option.bind_eq_bind, ofCode_bind, Round.ofCode_code, IntTy.ofCode_code, Option.pure_def]
  rfl

theorem PackedArgs.read_body (x : PackedArgs) : PackedArgs.read x.body = some x := by
  have e0 : slice x.body.mod 0 3 = x.rnd.code := by
    apply BitVec.eq_of_toNat_eq
    have h_rnd := x.rnd.code.isLt
    have h_na := bit_lt x.na
    have h_aa := bit_lt x.aa
    have h_nb := bit_lt x.nb
    have h_ab := bit_lt x.ab
    have h_sat := bit_lt x.sat
    have h_d := x.d.isLt
    have h_b := x.b.isLt
    have h_e := x.e.isLt
    simp only [slice_toNat, PackedArgs.body, BitVec.toNat_ofNat]
    omega
  have e1 : bitOf x.body.mod 3 = x.na := by
    rw [bitOf_toNat]
    apply bool_of_bit
    have h_rnd := x.rnd.code.isLt
    have h_na := bit_lt x.na
    have h_aa := bit_lt x.aa
    have h_nb := bit_lt x.nb
    have h_ab := bit_lt x.ab
    have h_sat := bit_lt x.sat
    have h_d := x.d.isLt
    have h_b := x.b.isLt
    have h_e := x.e.isLt
    simp only [PackedArgs.body, BitVec.toNat_ofNat]
    omega
  have e2 : bitOf x.body.mod 4 = x.aa := by
    rw [bitOf_toNat]
    apply bool_of_bit
    have h_rnd := x.rnd.code.isLt
    have h_na := bit_lt x.na
    have h_aa := bit_lt x.aa
    have h_nb := bit_lt x.nb
    have h_ab := bit_lt x.ab
    have h_sat := bit_lt x.sat
    have h_d := x.d.isLt
    have h_b := x.b.isLt
    have h_e := x.e.isLt
    simp only [PackedArgs.body, BitVec.toNat_ofNat]
    omega
  have e3 : bitOf x.body.mod 5 = x.nb := by
    rw [bitOf_toNat]
    apply bool_of_bit
    have h_rnd := x.rnd.code.isLt
    have h_na := bit_lt x.na
    have h_aa := bit_lt x.aa
    have h_nb := bit_lt x.nb
    have h_ab := bit_lt x.ab
    have h_sat := bit_lt x.sat
    have h_d := x.d.isLt
    have h_b := x.b.isLt
    have h_e := x.e.isLt
    simp only [PackedArgs.body, BitVec.toNat_ofNat]
    omega
  have e4 : bitOf x.body.mod 6 = x.ab := by
    rw [bitOf_toNat]
    apply bool_of_bit
    have h_rnd := x.rnd.code.isLt
    have h_na := bit_lt x.na
    have h_aa := bit_lt x.aa
    have h_nb := bit_lt x.nb
    have h_ab := bit_lt x.ab
    have h_sat := bit_lt x.sat
    have h_d := x.d.isLt
    have h_b := x.b.isLt
    have h_e := x.e.isLt
    simp only [PackedArgs.body, BitVec.toNat_ofNat]
    omega
  have e5 : bitOf x.body.mod 7 = x.sat := by
    rw [bitOf_toNat]
    apply bool_of_bit
    have h_rnd := x.rnd.code.isLt
    have h_na := bit_lt x.na
    have h_aa := bit_lt x.aa
    have h_nb := bit_lt x.nb
    have h_ab := bit_lt x.ab
    have h_sat := bit_lt x.sat
    have h_d := x.d.isLt
    have h_b := x.b.isLt
    have h_e := x.e.isLt
    simp only [PackedArgs.body, BitVec.toNat_ofNat]
    omega
  have e6 : srcA x.body = x.a := srcA_eq x.a _ _ rfl rfl
  have e7 : slice x.body.imm 0 5 = x.e := by
    apply BitVec.eq_of_toNat_eq
    have h_rnd := x.rnd.code.isLt
    have h_na := bit_lt x.na
    have h_aa := bit_lt x.aa
    have h_nb := bit_lt x.nb
    have h_ab := bit_lt x.ab
    have h_sat := bit_lt x.sat
    have h_d := x.d.isLt
    have h_b := x.b.isLt
    have h_e := x.e.isLt
    simp only [slice_toNat, PackedArgs.body, BitVec.toNat_ofNat]
    omega
  simp only [PackedArgs.read, e0, e1, e2, e3, e4, e5, e6, e7, Option.bind_eq_bind, ofCode_bind, Round.ofCode_code, Option.pure_def]
  rfl

theorem FdotArgs.read_body (x : FdotArgs) : FdotArgs.read x.body = some x := by
  have e0 : slice x.body.imm 0 5 = x.ea := by
    apply BitVec.eq_of_toNat_eq
    have h_d := x.d.isLt
    have h_a := x.a.isLt
    have h_b := x.b.isLt
    have h_ea := x.ea.isLt
    have h_eb := x.eb.isLt
    simp only [slice_toNat, FdotArgs.body, BitVec.toNat_ofNat]
    omega
  have e1 : slice x.body.imm 8 5 = x.eb := by
    apply BitVec.eq_of_toNat_eq
    have h_d := x.d.isLt
    have h_a := x.a.isLt
    have h_b := x.b.isLt
    have h_ea := x.ea.isLt
    have h_eb := x.eb.isLt
    simp only [slice_toNat, FdotArgs.body, BitVec.toNat_ofNat]
    omega
  simp only [FdotArgs.read, e0, e1, Option.pure_def]
  rfl

theorem Pair3Args.read_body (x : Pair3Args) : Pair3Args.read x.body = some x := rfl

theorem MemArgs.read_body (x : MemArgs) : MemArgs.read x.body = some x := by
  have e0 : slice x.body.mod 0 3 = x.space.code := by
    apply BitVec.eq_of_toNat_eq
    have h_space := x.space.code.isLt
    have h_width := x.width.code.isLt
    have h_hint := x.hint.isLt
    have h_d := x.d.isLt
    have h_off := x.off.isLt
    simp only [slice_toNat, MemArgs.body, BitVec.toNat_ofNat]
    omega
  have e1 : slice x.body.mod 3 3 = x.width.code := by
    apply BitVec.eq_of_toNat_eq
    have h_space := x.space.code.isLt
    have h_width := x.width.code.isLt
    have h_hint := x.hint.isLt
    have h_d := x.d.isLt
    have h_off := x.off.isLt
    simp only [slice_toNat, MemArgs.body, BitVec.toNat_ofNat]
    omega
  have e2 : slice x.body.mod 9 2 = x.hint := by
    apply BitVec.eq_of_toNat_eq
    have h_space := x.space.code.isLt
    have h_width := x.width.code.isLt
    have h_hint := x.hint.isLt
    have h_d := x.d.isLt
    have h_off := x.off.isLt
    simp only [slice_toNat, MemArgs.body, BitVec.toNat_ofNat]
    omega
  have e3 : srcA x.body = x.a := srcA_eq x.a _ _ rfl rfl
  simp only [MemArgs.read, e0, e1, e2, e3, Option.bind_eq_bind, ofCode_bind, Space.ofCode_code, Width.ofCode_code, Option.pure_def]
  rfl

theorem ElemArgs.read_body (x : ElemArgs) : ElemArgs.read x.body = some x := by
  have e0 : slice x.body.mod 3 3 = x.width.code := by
    apply BitVec.eq_of_toNat_eq
    have h_width := x.width.code.isLt
    have h_d := x.d.isLt
    have h_a := x.a.isLt
    have h_e := x.e.isLt
    simp only [slice_toNat, ElemArgs.body, BitVec.toNat_ofNat]
    omega
  simp only [ElemArgs.read, e0, Option.bind_eq_bind, ofCode_bind, Width.ofCode_code, Option.pure_def]
  rfl

theorem PrefArgs.read_body (x : PrefArgs) : PrefArgs.read x.body = some x := by
  have e0 : slice x.body.mod 9 2 = x.hint := by
    apply BitVec.eq_of_toNat_eq
    have h_hint := x.hint.isLt
    have h_off := x.off.isLt
    simp only [slice_toNat, PrefArgs.body, BitVec.toNat_ofNat]
    omega
  have e1 : srcA x.body = x.a := srcA_eq x.a _ _ rfl rfl
  simp only [PrefArgs.read, e0, e1, Option.pure_def]
  rfl

theorem CinvArgs.read_body (t : BitVec 3) (x : CinvArgs) : CinvArgs.read (CinvArgs.body t x) = some x := by
  have e0 : srcB (CinvArgs.body t x) = x.len := srcB_eq x.len _ _ rfl rfl rfl
  simp only [CinvArgs.read, e0, Option.pure_def]
  rfl

theorem AtomArgs.read_body (x : AtomArgs) : AtomArgs.read x.body = some x := by
  have e0 : slice x.body.mod 0 3 = x.space.code := by
    apply BitVec.eq_of_toNat_eq
    have h_space := x.space.code.isLt
    have h_width := x.width.code.isLt
    have h_scope := x.scope.isLt
    have h_hint := x.hint.isLt
    have h_d := x.d.isLt
    have h_b := x.b.isLt
    have h_off := x.off.isLt
    simp only [slice_toNat, AtomArgs.body, BitVec.toNat_ofNat]
    omega
  have e1 : slice x.body.mod 3 3 = x.width.code := by
    apply BitVec.eq_of_toNat_eq
    have h_space := x.space.code.isLt
    have h_width := x.width.code.isLt
    have h_scope := x.scope.isLt
    have h_hint := x.hint.isLt
    have h_d := x.d.isLt
    have h_b := x.b.isLt
    have h_off := x.off.isLt
    simp only [slice_toNat, AtomArgs.body, BitVec.toNat_ofNat]
    omega
  have e2 : slice x.body.mod 6 3 = x.scope := by
    apply BitVec.eq_of_toNat_eq
    have h_space := x.space.code.isLt
    have h_width := x.width.code.isLt
    have h_scope := x.scope.isLt
    have h_hint := x.hint.isLt
    have h_d := x.d.isLt
    have h_b := x.b.isLt
    have h_off := x.off.isLt
    simp only [slice_toNat, AtomArgs.body, BitVec.toNat_ofNat]
    omega
  have e3 : slice x.body.mod 9 2 = x.hint := by
    apply BitVec.eq_of_toNat_eq
    have h_space := x.space.code.isLt
    have h_width := x.width.code.isLt
    have h_scope := x.scope.isLt
    have h_hint := x.hint.isLt
    have h_d := x.d.isLt
    have h_b := x.b.isLt
    have h_off := x.off.isLt
    simp only [slice_toNat, AtomArgs.body, BitVec.toNat_ofNat]
    omega
  have e4 : srcA x.body = x.a := srcA_eq x.a _ _ rfl rfl
  simp only [AtomArgs.read, e0, e1, e2, e3, e4, Option.bind_eq_bind, ofCode_bind, Space.ofCode_code, Width.ofCode_code, Option.pure_def]
  rfl

theorem RedArgs.read_body (x : RedArgs) : RedArgs.read x.body = some x := by
  have e0 : slice x.body.d 0 4 = x.op.code := by
    apply BitVec.eq_of_toNat_eq
    have h_op := x.op.code.isLt
    have h_space := x.space.code.isLt
    have h_width := x.width.code.isLt
    have h_scope := x.scope.isLt
    have h_hint := x.hint.isLt
    have h_b := x.b.isLt
    have h_off := x.off.isLt
    simp only [slice_toNat, RedArgs.body, BitVec.toNat_setWidth]
    omega
  have e1 : slice x.body.mod 0 3 = x.space.code := by
    apply BitVec.eq_of_toNat_eq
    have h_op := x.op.code.isLt
    have h_space := x.space.code.isLt
    have h_width := x.width.code.isLt
    have h_scope := x.scope.isLt
    have h_hint := x.hint.isLt
    have h_b := x.b.isLt
    have h_off := x.off.isLt
    simp only [slice_toNat, RedArgs.body, BitVec.toNat_ofNat]
    omega
  have e2 : slice x.body.mod 3 3 = x.width.code := by
    apply BitVec.eq_of_toNat_eq
    have h_op := x.op.code.isLt
    have h_space := x.space.code.isLt
    have h_width := x.width.code.isLt
    have h_scope := x.scope.isLt
    have h_hint := x.hint.isLt
    have h_b := x.b.isLt
    have h_off := x.off.isLt
    simp only [slice_toNat, RedArgs.body, BitVec.toNat_ofNat]
    omega
  have e3 : slice x.body.mod 6 3 = x.scope := by
    apply BitVec.eq_of_toNat_eq
    have h_op := x.op.code.isLt
    have h_space := x.space.code.isLt
    have h_width := x.width.code.isLt
    have h_scope := x.scope.isLt
    have h_hint := x.hint.isLt
    have h_b := x.b.isLt
    have h_off := x.off.isLt
    simp only [slice_toNat, RedArgs.body, BitVec.toNat_ofNat]
    omega
  have e4 : slice x.body.mod 9 2 = x.hint := by
    apply BitVec.eq_of_toNat_eq
    have h_op := x.op.code.isLt
    have h_space := x.space.code.isLt
    have h_width := x.width.code.isLt
    have h_scope := x.scope.isLt
    have h_hint := x.hint.isLt
    have h_b := x.b.isLt
    have h_off := x.off.isLt
    simp only [slice_toNat, RedArgs.body, BitVec.toNat_ofNat]
    omega
  have e5 : srcA x.body = x.a := srcA_eq x.a _ _ rfl rfl
  simp only [RedArgs.read, e0, e1, e2, e3, e4, e5, Option.bind_eq_bind, ofCode_bind, AtomOp.ofCode_code, Space.ofCode_code, Width.ofCode_code, Option.pure_def]
  rfl

theorem AtombArgs.read_body (x : AtombArgs) : AtombArgs.read x.body = some x := by
  have e0 : slice x.body.mod 0 3 = x.space.code := by
    apply BitVec.eq_of_toNat_eq
    have h_space := x.space.code.isLt
    have h_scope := x.scope.isLt
    have h_hint := x.hint.isLt
    have h_d := x.d.isLt
    have h_b := x.b.isLt
    have h_off := x.off.isLt
    simp only [slice_toNat, AtombArgs.body, BitVec.toNat_ofNat]
    omega
  have e1 : slice x.body.mod 6 3 = x.scope := by
    apply BitVec.eq_of_toNat_eq
    have h_space := x.space.code.isLt
    have h_scope := x.scope.isLt
    have h_hint := x.hint.isLt
    have h_d := x.d.isLt
    have h_b := x.b.isLt
    have h_off := x.off.isLt
    simp only [slice_toNat, AtombArgs.body, BitVec.toNat_ofNat]
    omega
  have e2 : slice x.body.mod 9 2 = x.hint := by
    apply BitVec.eq_of_toNat_eq
    have h_space := x.space.code.isLt
    have h_scope := x.scope.isLt
    have h_hint := x.hint.isLt
    have h_d := x.d.isLt
    have h_b := x.b.isLt
    have h_off := x.off.isLt
    simp only [slice_toNat, AtombArgs.body, BitVec.toNat_ofNat]
    omega
  have e3 : srcA x.body = x.a := srcA_eq x.a _ _ rfl rfl
  simp only [AtombArgs.read, e0, e1, e2, e3, Option.bind_eq_bind, ofCode_bind, Space.ofCode_code, Option.pure_def]
  rfl

theorem InspArgs.read_body (x : InspArgs) : InspArgs.read x.body = some x := by
  have e0 : slice x.body.mod 6 3 = x.scope := by
    apply BitVec.eq_of_toNat_eq
    have h_scope := x.scope.isLt
    have h_d := x.d.isLt
    have h_a := x.a.isLt
    simp only [slice_toNat, InspArgs.body, BitVec.toNat_ofNat]
    omega
  simp only [InspArgs.read, e0, Option.pure_def]
  rfl

theorem InspRangeArgs.read_body (x : InspRangeArgs) : InspRangeArgs.read x.body = some x := by
  have e0 : slice x.body.mod 0 3 = x.space.code := by
    apply BitVec.eq_of_toNat_eq
    have h_space := x.space.code.isLt
    have h_scope := x.scope.isLt
    have h_d := x.d.isLt
    have h_a := x.a.isLt
    simp only [slice_toNat, InspRangeArgs.body, BitVec.toNat_ofNat]
    omega
  have e1 : slice x.body.mod 6 3 = x.scope := by
    apply BitVec.eq_of_toNat_eq
    have h_space := x.space.code.isLt
    have h_scope := x.scope.isLt
    have h_d := x.d.isLt
    have h_a := x.a.isLt
    simp only [slice_toNat, InspRangeArgs.body, BitVec.toNat_ofNat]
    omega
  have e2 : srcB x.body = x.len := srcB_eq x.len _ _ rfl rfl rfl
  simp only [InspRangeArgs.read, e0, e1, e2, Option.bind_eq_bind, ofCode_bind, Space.ofCode_code, Option.pure_def]
  rfl

theorem MonitorArgs.read_body (x : MonitorArgs) : MonitorArgs.read x.body = some x := by
  have e0 : slice x.body.mod 0 3 = x.space.code := by
    apply BitVec.eq_of_toNat_eq
    have h_space := x.space.code.isLt
    have h_off := x.off.isLt
    simp only [slice_toNat, MonitorArgs.body, BitVec.toNat_ofNat]
    omega
  have e1 : srcA x.body = x.a := srcA_eq x.a _ _ rfl rfl
  simp only [MonitorArgs.read, e0, e1, Option.bind_eq_bind, ofCode_bind, Space.ofCode_code, Option.pure_def]
  rfl

theorem BarinitArgs.read_body (x : BarinitArgs) : BarinitArgs.read x.body = some x := by
  have e0 : slice x.body.mod 0 3 = x.space.code := by
    apply BitVec.eq_of_toNat_eq
    have h_space := x.space.code.isLt
    have h_a := x.a.isLt
    simp only [slice_toNat, BarinitArgs.body, BitVec.toNat_ofNat]
    omega
  have e1 : srcB x.body = x.n := srcB_eq x.n _ _ rfl rfl rfl
  simp only [BarinitArgs.read, e0, e1, Option.bind_eq_bind, ofCode_bind, Space.ofCode_code, Option.pure_def]
  rfl

theorem BaraArgs.read_body (x : BaraArgs) : BaraArgs.read x.body = some x := by
  have e0 : slice x.body.mod 0 3 = x.space.code := by
    apply BitVec.eq_of_toNat_eq
    have h_space := x.space.code.isLt
    have h_d := x.d.isLt
    have h_a := x.a.isLt
    simp only [slice_toNat, BaraArgs.body, BitVec.toNat_ofNat]
    omega
  have e1 : srcB x.body = x.n := srcB_eq x.n _ _ rfl rfl rfl
  simp only [BaraArgs.read, e0, e1, Option.bind_eq_bind, ofCode_bind, Space.ofCode_code, Option.pure_def]
  rfl

theorem BarwArgs.read_body (x : BarwArgs) : BarwArgs.read x.body = some x := by
  have e0 : slice x.body.mod 0 3 = x.space.code := by
    apply BitVec.eq_of_toNat_eq
    have h_space := x.space.code.isLt
    have h_target := x.target.code.isLt
    have h_scope := x.scope.isLt
    have h_d := x.d.isLt
    have h_a := x.a.isLt
    have h_b := x.b.isLt
    simp only [slice_toNat, BarwArgs.body, BitVec.toNat_ofNat]
    omega
  have e1 : slice x.body.mod 3 2 = x.target.code := by
    apply BitVec.eq_of_toNat_eq
    have h_space := x.space.code.isLt
    have h_target := x.target.code.isLt
    have h_scope := x.scope.isLt
    have h_d := x.d.isLt
    have h_a := x.a.isLt
    have h_b := x.b.isLt
    simp only [slice_toNat, BarwArgs.body, BitVec.toNat_ofNat]
    omega
  have e2 : slice x.body.mod 5 3 = x.scope := by
    apply BitVec.eq_of_toNat_eq
    have h_space := x.space.code.isLt
    have h_target := x.target.code.isLt
    have h_scope := x.scope.isLt
    have h_d := x.d.isLt
    have h_a := x.a.isLt
    have h_b := x.b.isLt
    simp only [slice_toNat, BarwArgs.body, BitVec.toNat_ofNat]
    omega
  simp only [BarwArgs.read, e0, e1, e2, Option.bind_eq_bind, ofCode_bind, Space.ofCode_code, InspTarget.ofCode_code, Option.pure_def]
  rfl

theorem ElideArgs.read_body (x : ElideArgs) : ElideArgs.read x.body = some x := rfl

theorem CopyArgs.read_body (x : CopyArgs) : CopyArgs.read x.body = some x := by
  have e0 : slice x.body.mod 0 2 = x.kind.code := by
    apply BitVec.eq_of_toNat_eq
    have h_kind := x.kind.code.isLt
    have h_target := x.target.code.isLt
    have h_sc := x.sc.isLt
    have h_ss := x.ss.isLt
    have h_ds := x.ds.isLt
    have h_d := x.d.isLt
    have h_a := x.a.isLt
    have h_b := x.b.isLt
    have h_len := x.len.isLt
    simp only [slice_toNat, CopyArgs.body, BitVec.toNat_ofNat]
    omega
  have e1 : slice x.body.mod 2 2 = x.target.code := by
    apply BitVec.eq_of_toNat_eq
    have h_kind := x.kind.code.isLt
    have h_target := x.target.code.isLt
    have h_sc := x.sc.isLt
    have h_ss := x.ss.isLt
    have h_ds := x.ds.isLt
    have h_d := x.d.isLt
    have h_a := x.a.isLt
    have h_b := x.b.isLt
    have h_len := x.len.isLt
    simp only [slice_toNat, CopyArgs.body, BitVec.toNat_ofNat]
    omega
  have e2 : slice x.body.mod 4 3 = x.sc := by
    apply BitVec.eq_of_toNat_eq
    have h_kind := x.kind.code.isLt
    have h_target := x.target.code.isLt
    have h_sc := x.sc.isLt
    have h_ss := x.ss.isLt
    have h_ds := x.ds.isLt
    have h_d := x.d.isLt
    have h_a := x.a.isLt
    have h_b := x.b.isLt
    have h_len := x.len.isLt
    simp only [slice_toNat, CopyArgs.body, BitVec.toNat_ofNat]
    omega
  have e3 : slice x.body.mod 7 2 = x.ss := by
    apply BitVec.eq_of_toNat_eq
    have h_kind := x.kind.code.isLt
    have h_target := x.target.code.isLt
    have h_sc := x.sc.isLt
    have h_ss := x.ss.isLt
    have h_ds := x.ds.isLt
    have h_d := x.d.isLt
    have h_a := x.a.isLt
    have h_b := x.b.isLt
    have h_len := x.len.isLt
    simp only [slice_toNat, CopyArgs.body, BitVec.toNat_ofNat]
    omega
  have e4 : slice x.body.mod 9 2 = x.ds := by
    apply BitVec.eq_of_toNat_eq
    have h_kind := x.kind.code.isLt
    have h_target := x.target.code.isLt
    have h_sc := x.sc.isLt
    have h_ss := x.ss.isLt
    have h_ds := x.ds.isLt
    have h_d := x.d.isLt
    have h_a := x.a.isLt
    have h_b := x.b.isLt
    have h_len := x.len.isLt
    simp only [slice_toNat, CopyArgs.body, BitVec.toNat_ofNat]
    omega
  simp only [CopyArgs.read, e0, e1, e2, e3, e4, Option.bind_eq_bind, ofCode_bind, SinkKind.ofCode_code, InspTarget.ofCode_code, Option.pure_def]
  rfl

theorem KickArgs.read_body (x : KickArgs) : KickArgs.read x.body = some x := by
  have e0 : slice x.body.mod 0 2 = x.kind.code := by
    apply BitVec.eq_of_toNat_eq
    have h_kind := x.kind.code.isLt
    have h_target := x.target.code.isLt
    have h_sc := x.sc.isLt
    have h_d := x.d.isLt
    have h_a := x.a.isLt
    simp only [slice_toNat, KickArgs.body, BitVec.toNat_ofNat]
    omega
  have e1 : slice x.body.mod 2 2 = x.target.code := by
    apply BitVec.eq_of_toNat_eq
    have h_kind := x.kind.code.isLt
    have h_target := x.target.code.isLt
    have h_sc := x.sc.isLt
    have h_d := x.d.isLt
    have h_a := x.a.isLt
    simp only [slice_toNat, KickArgs.body, BitVec.toNat_ofNat]
    omega
  have e2 : slice x.body.mod 4 3 = x.sc := by
    apply BitVec.eq_of_toNat_eq
    have h_kind := x.kind.code.isLt
    have h_target := x.target.code.isLt
    have h_sc := x.sc.isLt
    have h_d := x.d.isLt
    have h_a := x.a.isLt
    simp only [slice_toNat, KickArgs.body, BitVec.toNat_ofNat]
    omega
  have e3 : srcB x.body = x.n := srcB_eq x.n _ _ rfl rfl rfl
  simp only [KickArgs.read, e0, e1, e2, e3, Option.bind_eq_bind, ofCode_bind, SinkKind.ofCode_code, InspTarget.ofCode_code, Option.pure_def]
  rfl

theorem TilehArgs.read_body (x : TilehArgs) : TilehArgs.read x.body = some x := by
  have e0 : slice x.body.imm 0 6 = x.slot := by
    apply BitVec.eq_of_toNat_eq
    have h_a := x.a.isLt
    have h_slot := x.slot.isLt
    simp only [slice_toNat, TilehArgs.body, BitVec.toNat_ofNat]
    omega
  simp only [TilehArgs.read, e0, Option.pure_def]
  rfl

theorem TilefArgs.read_body (x : TilefArgs) : TilefArgs.read x.body = some x := by
  have e0 : slice x.body.mod 0 2 = x.kind.code := by
    apply BitVec.eq_of_toNat_eq
    have h_kind := x.kind.code.isLt
    have h_target := x.target.code.isLt
    have h_sc := x.sc.isLt
    have h_d := x.d.isLt
    have h_a := x.a.isLt
    have h_b := x.b.isLt
    simp only [slice_toNat, TilefArgs.body, BitVec.toNat_ofNat]
    omega
  have e1 : slice x.body.mod 2 2 = x.target.code := by
    apply BitVec.eq_of_toNat_eq
    have h_kind := x.kind.code.isLt
    have h_target := x.target.code.isLt
    have h_sc := x.sc.isLt
    have h_d := x.d.isLt
    have h_a := x.a.isLt
    have h_b := x.b.isLt
    simp only [slice_toNat, TilefArgs.body, BitVec.toNat_ofNat]
    omega
  have e2 : slice x.body.mod 4 3 = x.sc := by
    apply BitVec.eq_of_toNat_eq
    have h_kind := x.kind.code.isLt
    have h_target := x.target.code.isLt
    have h_sc := x.sc.isLt
    have h_d := x.d.isLt
    have h_a := x.a.isLt
    have h_b := x.b.isLt
    simp only [slice_toNat, TilefArgs.body, BitVec.toNat_ofNat]
    omega
  simp only [TilefArgs.read, e0, e1, e2, Option.bind_eq_bind, ofCode_bind, SinkKind.ofCode_code, InspTarget.ofCode_code, Option.pure_def]
  rfl

theorem FabxArgs.read_body (kind : BitVec 2) (x : FabxArgs) : FabxArgs.read (FabxArgs.body kind x) = some x := by
  have e0 : slice (FabxArgs.body kind x).mod 0 2 = x.kind.code := by
    apply BitVec.eq_of_toNat_eq
    have h_kind := x.kind.code.isLt
    have h_target := x.target.code.isLt
    have h_sc := x.sc.isLt
    have h_ss := x.ss.isLt
    have h_d := x.d.isLt
    have h_a := x.a.isLt
    have h_b := x.b.isLt
    have h_len := x.len.isLt
    have h_ex := kind.isLt
    simp only [slice_toNat, FabxArgs.body, BitVec.toNat_ofNat]
    omega
  have e1 : slice (FabxArgs.body kind x).mod 2 2 = x.target.code := by
    apply BitVec.eq_of_toNat_eq
    have h_kind := x.kind.code.isLt
    have h_target := x.target.code.isLt
    have h_sc := x.sc.isLt
    have h_ss := x.ss.isLt
    have h_d := x.d.isLt
    have h_a := x.a.isLt
    have h_b := x.b.isLt
    have h_len := x.len.isLt
    have h_ex := kind.isLt
    simp only [slice_toNat, FabxArgs.body, BitVec.toNat_ofNat]
    omega
  have e2 : slice (FabxArgs.body kind x).mod 4 3 = x.sc := by
    apply BitVec.eq_of_toNat_eq
    have h_kind := x.kind.code.isLt
    have h_target := x.target.code.isLt
    have h_sc := x.sc.isLt
    have h_ss := x.ss.isLt
    have h_d := x.d.isLt
    have h_a := x.a.isLt
    have h_b := x.b.isLt
    have h_len := x.len.isLt
    have h_ex := kind.isLt
    simp only [slice_toNat, FabxArgs.body, BitVec.toNat_ofNat]
    omega
  have e3 : slice (FabxArgs.body kind x).mod 7 2 = x.ss := by
    apply BitVec.eq_of_toNat_eq
    have h_kind := x.kind.code.isLt
    have h_target := x.target.code.isLt
    have h_sc := x.sc.isLt
    have h_ss := x.ss.isLt
    have h_d := x.d.isLt
    have h_a := x.a.isLt
    have h_b := x.b.isLt
    have h_len := x.len.isLt
    have h_ex := kind.isLt
    simp only [slice_toNat, FabxArgs.body, BitVec.toNat_ofNat]
    omega
  simp only [FabxArgs.read, e0, e1, e2, e3, Option.bind_eq_bind, ofCode_bind, SinkKind.ofCode_code, InspTarget.ofCode_code, Option.pure_def]
  rfl

theorem MmaArgs.read_body (x : MmaArgs) : MmaArgs.read x.body = some x := by
  have e0 : slice x.body.mod 0 2 = x.kind.code := by
    apply BitVec.eq_of_toNat_eq
    have h_kind := x.kind.code.isLt
    have h_target := x.target.code.isLt
    have h_sc := x.sc.isLt
    have h_d := x.d.isLt
    have h_a := x.a.isLt
    simp only [slice_toNat, MmaArgs.body, BitVec.toNat_ofNat]
    omega
  have e1 : slice x.body.mod 2 2 = x.target.code := by
    apply BitVec.eq_of_toNat_eq
    have h_kind := x.kind.code.isLt
    have h_target := x.target.code.isLt
    have h_sc := x.sc.isLt
    have h_d := x.d.isLt
    have h_a := x.a.isLt
    simp only [slice_toNat, MmaArgs.body, BitVec.toNat_ofNat]
    omega
  have e2 : slice x.body.mod 4 3 = x.sc := by
    apply BitVec.eq_of_toNat_eq
    have h_kind := x.kind.code.isLt
    have h_target := x.target.code.isLt
    have h_sc := x.sc.isLt
    have h_d := x.d.isLt
    have h_a := x.a.isLt
    simp only [slice_toNat, MmaArgs.body, BitVec.toNat_ofNat]
    omega
  simp only [MmaArgs.read, e0, e1, e2, Option.bind_eq_bind, ofCode_bind, SinkKind.ofCode_code, InspTarget.ofCode_code, Option.pure_def]
  rfl

theorem MloadbArgs.read_body (x : MloadbArgs) : MloadbArgs.read x.body = some x := by
  have e0 : slice x.body.mod 0 2 = x.kind.code := by
    apply BitVec.eq_of_toNat_eq
    have h_kind := x.kind.code.isLt
    have h_target := x.target.code.isLt
    have h_sc := x.sc.isLt
    have h_d := x.d.isLt
    have h_a := x.a.isLt
    have h_b := x.b.isLt
    have h_k := x.k.isLt
    simp only [slice_toNat, MloadbArgs.body, BitVec.toNat_ofNat]
    omega
  have e1 : slice x.body.mod 2 2 = x.target.code := by
    apply BitVec.eq_of_toNat_eq
    have h_kind := x.kind.code.isLt
    have h_target := x.target.code.isLt
    have h_sc := x.sc.isLt
    have h_d := x.d.isLt
    have h_a := x.a.isLt
    have h_b := x.b.isLt
    have h_k := x.k.isLt
    simp only [slice_toNat, MloadbArgs.body, BitVec.toNat_ofNat]
    omega
  have e2 : slice x.body.mod 4 3 = x.sc := by
    apply BitVec.eq_of_toNat_eq
    have h_kind := x.kind.code.isLt
    have h_target := x.target.code.isLt
    have h_sc := x.sc.isLt
    have h_d := x.d.isLt
    have h_a := x.a.isLt
    have h_b := x.b.isLt
    have h_k := x.k.isLt
    simp only [slice_toNat, MloadbArgs.body, BitVec.toNat_ofNat]
    omega
  simp only [MloadbArgs.read, e0, e1, e2, Option.bind_eq_bind, ofCode_bind, SinkKind.ofCode_code, InspTarget.ofCode_code, Option.pure_def]
  rfl

theorem AccArgs.read_body (x : AccArgs) : AccArgs.read x.body = some x := by
  have e0 : srcA x.body = x.a := srcA_eq x.a _ _ rfl rfl
  simp only [AccArgs.read, e0, Option.pure_def]
  rfl

theorem MzeroArgs.read_body (x : MzeroArgs) : MzeroArgs.read x.body = some x := by
  have e0 : srcA x.body = x.a := srcA_eq x.a _ _ rfl rfl
  simp only [MzeroArgs.read, e0, Option.pure_def]
  rfl

theorem QputArgs.read_body (x : QputArgs) : QputArgs.read x.body = some x := by
  have e0 : bitOf x.body.mod 0 = x.g := by
    rw [bitOf_toNat]
    apply bool_of_bit
    have h_g := bit_lt x.g
    have h_d := x.d.isLt
    have h_a := x.a.isLt
    have h_pipe := x.pipe.isLt
    simp only [QputArgs.body, BitVec.toNat_ofNat]
    omega
  have e1 : slice x.body.imm 0 2 = x.pipe := by
    apply BitVec.eq_of_toNat_eq
    have h_g := bit_lt x.g
    have h_d := x.d.isLt
    have h_a := x.a.isLt
    have h_pipe := x.pipe.isLt
    simp only [slice_toNat, QputArgs.body, BitVec.toNat_ofNat]
    omega
  simp only [QputArgs.read, e0, e1, Option.pure_def]
  rfl

theorem QgetArgs.read_body (x : QgetArgs) : QgetArgs.read x.body = some x := by
  have e0 : slice x.body.imm 0 2 = x.pipe := by
    apply BitVec.eq_of_toNat_eq
    have h_d := x.d.isLt
    have h_a := x.a.isLt
    have h_pipe := x.pipe.isLt
    simp only [slice_toNat, QgetArgs.body, BitVec.toNat_ofNat]
    omega
  simp only [QgetArgs.read, e0, Option.pure_def]
  rfl

theorem QcountArgs.read_body (x : QcountArgs) : QcountArgs.read x.body = some x := by
  have e0 : slice x.body.imm 0 2 = x.pipe := by
    apply BitVec.eq_of_toNat_eq
    have h_d := x.d.isLt
    have h_pipe := x.pipe.isLt
    simp only [slice_toNat, QcountArgs.body, BitVec.toNat_ofNat]
    omega
  simp only [QcountArgs.read, e0, Option.pure_def]
  rfl

theorem MsendArgs.read_body (x : MsendArgs) : MsendArgs.read x.body = some x := by
  have e0 : slice x.body.imm 0 9 = x.len := by
    apply BitVec.eq_of_toNat_eq
    have h_d := x.d.isLt
    have h_a := x.a.isLt
    have h_b := x.b.isLt
    have h_len := x.len.isLt
    have h_tag := x.tag.isLt
    simp only [slice_toNat, MsendArgs.body, BitVec.toNat_ofNat]
    omega
  have e1 : slice x.body.imm 16 16 = x.tag := by
    apply BitVec.eq_of_toNat_eq
    have h_d := x.d.isLt
    have h_a := x.a.isLt
    have h_b := x.b.isLt
    have h_len := x.len.isLt
    have h_tag := x.tag.isLt
    simp only [slice_toNat, MsendArgs.body, BitVec.toNat_ofNat]
    omega
  simp only [MsendArgs.read, e0, e1, Option.pure_def]
  rfl

theorem MpostArgs.read_body (x : MpostArgs) : MpostArgs.read x.body = some x := by
  have e0 : slice x.body.imm 0 9 = x.size := by
    apply BitVec.eq_of_toNat_eq
    have h_d := x.d.isLt
    have h_a := x.a.isLt
    have h_b := x.b.isLt
    have h_size := x.size.isLt
    simp only [slice_toNat, MpostArgs.body, BitVec.toNat_ofNat]
    omega
  simp only [MpostArgs.read, e0, Option.pure_def]
  rfl

theorem MtestArgs.read_body (x : MtestArgs) : MtestArgs.read x.body = some x := by
  have e0 : bitOf x.body.mod 0 = x.w := by
    rw [bitOf_toNat]
    apply bool_of_bit
    have h_w := bit_lt x.w
    have h_d := x.d.isLt
    have h_a := x.a.isLt
    simp only [MtestArgs.body, BitVec.toNat_ofNat]
    omega
  simp only [MtestArgs.read, e0, Option.pure_def]
  rfl

theorem JspawnArgs.read_body (x : JspawnArgs) : JspawnArgs.read x.body = some x := by
  have e0 : srcB x.body = x.b := srcB_eq x.b _ _ rfl rfl rfl
  simp only [JspawnArgs.read, e0, Option.pure_def]
  rfl

theorem PostiArgs.read_body (x : PostiArgs) : PostiArgs.read x.body = some x := rfl

theorem TryArgs.read_body (x : TryArgs) : TryArgs.read x.body = some x := by
  have e0 : slice x.body.mod 0 4 = x.cnt := by
    apply BitVec.eq_of_toNat_eq
    have h_cnt := x.cnt.isLt
    have h_wlen := x.wlen.isLt
    have h_steal := bit_lt x.steal
    have h_d := x.d.isLt
    have h_off := x.off.isLt
    simp only [slice_toNat, TryArgs.body, BitVec.toNat_ofNat]
    omega
  have e1 : slice x.body.mod 4 5 = x.wlen := by
    apply BitVec.eq_of_toNat_eq
    have h_cnt := x.cnt.isLt
    have h_wlen := x.wlen.isLt
    have h_steal := bit_lt x.steal
    have h_d := x.d.isLt
    have h_off := x.off.isLt
    simp only [slice_toNat, TryArgs.body, BitVec.toNat_ofNat]
    omega
  have e2 : bitOf x.body.mod 9 = x.steal := by
    rw [bitOf_toNat]
    apply bool_of_bit
    have h_cnt := x.cnt.isLt
    have h_wlen := x.wlen.isLt
    have h_steal := bit_lt x.steal
    have h_d := x.d.isLt
    have h_off := x.off.isLt
    simp only [TryArgs.body, BitVec.toNat_ofNat]
    omega
  simp only [TryArgs.read, e0, e1, e2, Option.pure_def]
  rfl

theorem TrailwArgs.read_body (x : TrailwArgs) : TrailwArgs.read x.body = some x := by
  have e0 : slice x.body.imm 0 6 = x.n := by
    apply BitVec.eq_of_toNat_eq
    have h_a := x.a.isLt
    have h_n := x.n.isLt
    simp only [slice_toNat, TrailwArgs.body, BitVec.toNat_ofNat]
    omega
  simp only [TrailwArgs.read, e0, Option.pure_def]
  rfl

theorem FmtsetArgs.read_body (x : FmtsetArgs) : FmtsetArgs.read x.body = some x := by
  have e0 : slice x.body.mod 0 2 = x.kind.code := by
    apply BitVec.eq_of_toNat_eq
    have h_kind := x.kind.code.isLt
    have h_sc := x.sc.isLt
    have h_d := x.d.isLt
    have h_a := x.a.isLt
    have h_n := x.n.isLt
    simp only [slice_toNat, FmtsetArgs.body, BitVec.toNat_ofNat]
    omega
  have e1 : slice x.body.mod 4 3 = x.sc := by
    apply BitVec.eq_of_toNat_eq
    have h_kind := x.kind.code.isLt
    have h_sc := x.sc.isLt
    have h_d := x.d.isLt
    have h_a := x.a.isLt
    have h_n := x.n.isLt
    simp only [slice_toNat, FmtsetArgs.body, BitVec.toNat_ofNat]
    omega
  have e2 : slice x.body.imm 0 5 = x.n := by
    apply BitVec.eq_of_toNat_eq
    have h_kind := x.kind.code.isLt
    have h_sc := x.sc.isLt
    have h_d := x.d.isLt
    have h_a := x.a.isLt
    have h_n := x.n.isLt
    simp only [slice_toNat, FmtsetArgs.body, BitVec.toNat_ofNat]
    omega
  simp only [FmtsetArgs.read, e0, e1, e2, Option.bind_eq_bind, ofCode_bind, SinkKind.ofCode_code, Option.pure_def]
  rfl

theorem FmtgetArgs.read_body (x : FmtgetArgs) : FmtgetArgs.read x.body = some x := by
  have e0 : slice x.body.imm 0 5 = x.n := by
    apply BitVec.eq_of_toNat_eq
    have h_d := x.d.isLt
    have h_n := x.n.isLt
    simp only [slice_toNat, FmtgetArgs.body, BitVec.toNat_ofNat]
    omega
  simp only [FmtgetArgs.read, e0, Option.pure_def]
  rfl

theorem SpecArgs.read_body (x : SpecArgs) : SpecArgs.read x.body = some x := by
  have e0 : slice x.body.imm 0 12 = x.idx := by
    apply BitVec.eq_of_toNat_eq
    have h_d := x.d.isLt
    have h_idx := x.idx.isLt
    simp only [slice_toNat, SpecArgs.body, BitVec.toNat_ofNat]
    omega
  simp only [SpecArgs.read, e0, Option.pure_def]
  rfl

theorem CinvArgs.kind_body (t : BitVec 3) (x : CinvArgs) : slice (x.body t).mod 3 3 = t := by
  apply BitVec.eq_of_toNat_eq
  have := t.isLt
  simp only [slice_toNat, CinvArgs.body, BitVec.toNat_ofNat]
  omega

theorem FabxArgs.kind_body (t : BitVec 2) (x : FabxArgs) : slice (x.body t).mod 9 2 = t := by
  apply BitVec.eq_of_toNat_eq
  have := t.isLt
  have := x.kind.code.isLt
  have := x.target.code.isLt
  have := x.sc.isLt
  have := x.ss.isLt
  simp only [slice_toNat, FabxArgs.body, BitVec.toNat_ofNat]
  omega

theorem Hdr.read_fields (h : Hdr) (op fn : Nat) (y : Body) : Hdr.read (h.fields op fn y) = some h := by
  obtain ⟨neg, pred, keep, look, yld, solo⟩ := h
  have e0 : bitOf (BitVec.ofNat 4 (pred.toNat + 8 * bit neg)) 3 = neg := by
    rw [bitOf_toNat]
    apply bool_of_bit
    have := pred.isLt
    have := bit_lt neg
    simp only [BitVec.toNat_ofNat]
    omega
  have e1 : slice (BitVec.ofNat 4 (pred.toNat + 8 * bit neg)) 0 3 = pred := by
    apply BitVec.eq_of_toNat_eq
    have := pred.isLt
    have := bit_lt neg
    simp only [slice_toNat, BitVec.toNat_ofNat]
    omega
  have e2 : ∀ b : Bool, bitOf (BitVec.ofNat 1 (bit b)) 0 = b := by decide
  simp only [Hdr.read, Hdr.fields, Keep.ofCode_code, Option.bind_eq_bind, ofCode_bind, Option.pure_def, e0, e1, e2]

/-- The word with given fields has those fields (Table 7-1). -/
theorem Fields.ofWord_toWord (f : Fields) : Fields.ofWord f.toWord = f := by
  obtain ⟨op, fn, gd, keep, look, yld, solo, ⟨d, a, b, sel, mod, imm⟩⟩ := f
  have h1 := op.isLt
  have h2 := fn.isLt
  have h3 := gd.isLt
  have h4 := keep.isLt
  have h5 := look.isLt
  have h6 := yld.isLt
  have h7 := solo.isLt
  have h8 := d.isLt
  have h9 := a.isLt
  have h10 := b.isLt
  have h11 := sel.isLt
  have h12 := mod.isLt
  have h13 := imm.isLt
  simp only [Fields.ofWord, Fields.mk.injEq, Body.mk.injEq]
  refine ⟨?_, ?_, ?_, ?_, ?_, ?_, ?_, ?_, ?_, ?_, ?_, ?_, ?_⟩ <;>
    (apply BitVec.eq_of_toNat_eq; simp only [slice_toNat, Fields.toWord, BitVec.toNat_ofNat]; omega)

/-- What OP, FN and the operand fields of an instruction spell is that instruction. -/
theorem reads {h : Hdr} {op fn : Nat} {y : Body} {i : Instr} (h1 : op < 256) (h2 : fn < 16) (h3 : fn < fnCount op)
    (h4 : readInstr op fn h y = some i) :
    (h.fields op fn y).fn.toNat < fnCount (h.fields op fn y).op.toNat ∧
      ((Hdr.read (h.fields op fn y)).bind fun g =>
        readInstr (h.fields op fn y).op.toNat (h.fields op fn y).fn.toNat g (h.fields op fn y).body) = some i := by
  have e1 : (h.fields op fn y).op.toNat = op := by simp only [Hdr.fields, BitVec.toNat_ofNat]; omega
  have e2 : (h.fields op fn y).fn.toNat = fn := by simp only [Hdr.fields, BitVec.toNat_ofNat]; omega
  rw [e1, e2, Hdr.read_fields, ofCode_bind]
  exact ⟨h3, h4⟩

end Sys2Proof
end

