-- ==== Sys2Proof/Laws/Lane.lean ====
section
/-! SUPPORT. What one lane of a group does, and what a whole group does whose instruction changes only the threads of
its members: the lemmas through which an instruction's meaning is read without unfolding the frame around it. -/

namespace Sys2Proof.Machine

theorem Tab.set_set {α : Type} (t : Tab α) (k : Nat) (v w : α) : Tab.set (Tab.set t k v) k w = Tab.set t k w := by
  induction t with
  | nil => simp [Tab.set]
  | cons p rest ih =>
    obtain ⟨j, u⟩ := p
    by_cases h1 : k < j
    · simp [Tab.set, h1]
    · by_cases h2 : j = k
      · subst h2; simp [Tab.set]
      · simp [Tab.set, h1, h2, ih]

@[simp] theorem State.setThread_setThread (s : State) (t : Nat) (x y : Thread) :
    (s.setThread t x).setThread t y = s.setThread t y := by
  simp [State.setThread, Tab.set_set]

@[simp] theorem State.modThread_setThread (s : State) (t : Nat) (x : Thread) (f : Thread → Thread) :
    (s.setThread t x).modThread t f = s.setThread t (f x) := by
  simp [State.modThread]

theorem State.modThread_of_thread {s : State} {t : Nat} {x : Thread} (h : s.thread t = some x) (f : Thread → Thread) :
    s.modThread t f = s.setThread t (f x) := by simp [State.modThread, h]

/-- States that differ in their threads alone, each thread in the same gang. -/
structure Alike (s s' : State) : Prop where
  rest : { s' with threads := s.threads } = s
  gang : ∀ t, (s'.thread t).map (·.gang) = (s.thread t).map (·.gang)

theorem Alike.refl (s : State) : Alike s s := ⟨rfl, fun _ => rfl⟩

theorem Alike.caps {s s' : State} (h : Alike s s') : s'.caps = s.caps := by
  have := congrArg State.caps h.rest; simpa using this

theorem Alike.gangs {s s' : State} (h : Alike s s') : s'.gangs = s.gangs := by
  have := congrArg State.gangs h.rest; simpa using this

theorem Alike.jobs {s s' : State} (h : Alike s s') : s'.jobs = s.jobs := by
  have := congrArg State.jobs h.rest; simpa using this

theorem Alike.parts {s s' : State} (h : Alike s s') : s'.parts = s.parts := by
  have := congrArg State.parts h.rest; simpa using this

theorem Alike.cores {s s' : State} (h : Alike s s') : s'.cores = s.cores := by
  have := congrArg State.cores h.rest; simpa using this

theorem Alike.sched {s s' : State} (h : Alike s s') : s'.sched = s.sched := by
  have := congrArg State.sched h.rest; simpa using this

theorem Alike.isles {s s' : State} (h : Alike s s') : s'.isles = s.isles := by
  have := congrArg State.isles h.rest; simpa using this

theorem Alike.jobOf {s s' : State} (h : Alike s s') (t : Nat) : s'.jobOf t = s.jobOf t :=
  State.jobOf_congr (h.gang t) h.gangs h.jobs

theorem Alike.partOf {s s' : State} (h : Alike s s') (t : Nat) : s'.partOf t = s.partOf t := by
  simp [State.partOf, h.jobOf t]

theorem Alike.gangOf {s s' : State} (h : Alike s s') (t : Nat) : s'.gangOf t = s.gangOf t := by
  have hg := h.gang t
  unfold State.gangOf State.gang
  rw [h.gangs]
  cases h1 : s.thread t <;> cases h2 : s'.thread t <;> simp_all

theorem Alike.clock {s s' : State} (h : Alike s s') (t : Nat) : s'.clock t = s.clock t := by
  simp [State.clock, State.isle, h.isles]

theorem Alike.precheck {s s' : State} (h : Alike s s') (t : Nat) (th : Thread) (i : Instr) :
    precheck s' t th i = precheck s t th i := by
  simp only [Machine.precheck, h.caps, h.partOf t, State.part, h.parts]

theorem Alike.inLoop {s s' : State} (h : Alike s s') (t : Nat) (pc : Addr56) : s'.inLoop t pc = s.inLoop t pc := by
  simp only [State.inLoop, State.core, h.cores, h.gangOf t]

theorem Alike.setThread {s s' : State} (h : Alike s s') {t : Nat} {a b : Thread} (ha : s'.thread t = some a)
    (hg : b.gang = a.gang) : Alike s (s'.setThread t b) := by
  refine ⟨?_, ?_⟩
  · have := h.rest
    exact this
  · intro u
    by_cases hu : u = t
    · subst hu
      rw [State.thread_setThread_same, ← h.gang u, ha]; simp [hg]
    · rw [State.thread_setThread_other _ _ _ _ hu, h.gang u]

/-- A thread after its lane of an instruction with the effect `g` on it. -/
def Thread.laneOut (th : Thread) (i : Instr) (iss : Issue) (run : Bool) (g : Thread → Thread) : Thread :=
  if th.guard (headerOf iss.word) = true then
    g ((th.passed i iss run).keepOperand (headerOf iss.word) (Fields.ofWord iss.word).body)
  else th.passed i iss run

theorem State.consumeTokens_of_untokened {s : State} {t : Nat} {th : Thread} {i : Instr} (h : s.thread t = some th)
    (hu : th.untokened i) : s.consumeTokens t i = s := by
  have h1 : (th.tokens.filter fun p => i.reads.contains p.1 && p.2 == Token.done) = [] := by
    rw [List.filter_eq_nil_iff]
    intro p hp
    simp only [Bool.and_eq_true, List.contains_iff_mem, beq_iff_eq, not_and]
    intro hr hd
    exact hu p hp hd (List.mem_append_left _ hr)
  have h2 : (th.tokens.any fun p => (i.reads ++ i.writes).contains p.1 && p.2 == Token.done) = false := by
    rw [List.any_eq_false]
    intro p hp
    simp only [Bool.and_eq_true, List.contains_iff_mem, beq_iff_eq, not_and]
    intro hr hd
    exact hu p hp hd hr
  unfold State.consumeTokens
  simp only [h, h1, h2]
  simp

theorem Thread.keepOperand_tokens (th : Thread) (h : Hdr) (y : Body) : (th.keepOperand h y).tokens = th.tokens := by
  unfold Thread.keepOperand; repeat' split <;> try rfl

/-- A lane whose guard is false passes the instruction (R122). -/
theorem runLane_false {i : Instr} {iss : Issue} {f : Addr56 → State → Nat → LaneRes} {s : State} {t : Nat} {th : Thread}
    (h : s.thread t = some th) (hg : th.guard (headerOf iss.word) = false) :
    runLane i iss f s t
      = s.setThread t (th.passed i iss (th.marks.inRun || s.inLoop t iss.pc)) := by
  simp only [runLane, h, hg, if_true]
  rfl

/-- A lane whose guard holds and whose first checks pass has the instruction's own effect. -/
theorem runLane_true {i : Instr} {iss : Issue} {f : Addr56 → State → Nat → LaneRes} {s : State} {t : Nat} {th : Thread}
    (h : s.thread t = some th) (hg : th.guard (headerOf iss.word) = true) (hc : precheck s t th i = none)
    (hu : th.untokened i) :
    runLane i iss f s t =
      match f iss.pc (s.entered i t th iss) t with
      | .ok s2 => s2
      | .fault e =>
        ((s.setThread t (th.began i iss)).logFault t e).deliverFault t
          (faultOf th i iss e)
      | .stall => s.modThread t fun th => { th with hold := .none } := by
  have hk : (s.entered i t th iss).consumeTokens t i = s.entered i t th iss := by
    refine State.consumeTokens_of_untokened (State.thread_setThread_same _ _ _) ?_
    intro p hp
    rw [Thread.keepOperand_tokens] at hp
    exact hu p hp
  simp only [runLane, h, hg, hc, Bool.true_eq_false, if_false]
  rw [← hk]
  rfl

/-- A lane whose effect is one on its thread. -/
theorem runLane_thread {i : Instr} {iss : Issue} {f : Addr56 → State → Nat → LaneRes} {s : State} {t : Nat} {th : Thread}
    {g : Thread → Thread} (h : s.thread t = some th)
    (hp : th.guard (headerOf iss.word) = true → precheck s t th i = none ∧ th.untokened i ∧
      f iss.pc (s.entered i t th iss) t = .ok ((s.entered i t th iss).modThread t g)) :
    runLane i iss f s t = s.setThread t (th.laneOut i iss (th.marks.inRun || s.inLoop t iss.pc) g) := by
  by_cases hg : th.guard (headerOf iss.word) = true
  · obtain ⟨hc, hu, hf⟩ := hp hg
    rw [runLane_true h hg hc hu, hf]
    simp only [State.entered, State.modThread_setThread, Thread.laneOut, hg, if_true]
  · have hg' : th.guard (headerOf iss.word) = false := by simpa using hg
    rw [runLane_false h hg']
    simp [Thread.laneOut, hg']

theorem Thread.keepOperand_regs (th : Thread) (h : Hdr) (y : Body) : (th.keepOperand h y).regs = th.regs := by
  unfold Thread.keepOperand; repeat' split <;> try rfl

theorem Thread.keepOperand_gang (th : Thread) (h : Hdr) (y : Body) : (th.keepOperand h y).gang = th.gang := by
  unfold Thread.keepOperand; repeat' split <;> try rfl

theorem Thread.laneOut_gang (th : Thread) (i : Instr) (iss : Issue) (run : Bool) (g : Thread → Thread)
    (hwf : Sparse.wf th.regs = true) (hg : ∀ x, Sparse.wf x.regs = true → (g x).gang = x.gang) :
    (th.laneOut i iss run g).gang = th.gang := by
  unfold Thread.laneOut
  split
  · rw [hg, Thread.keepOperand_gang]
    · rfl
    · rw [Thread.keepOperand_regs]; exact hwf
  · rfl

theorem State.entered_alike {s : State} {t : Nat} {th : Thread} (iss : Issue) (h : s.thread t = some th) :
    Alike s (s.entered i t th iss) :=
  (Alike.refl s).setThread h (by rw [Thread.keepOperand_gang]; rfl)

/-- A group whose instruction changes only the threads of its members. -/
theorem fold_lanes {i : Instr} {iss : Issue} {f : Addr56 → State → Nat → LaneRes} {s0 : State}
    {c : State → Nat → Prop} {g : State → Nat → Thread → Thread}
    (hf : ∀ s t, Alike s0 s → c s0 t → f iss.pc s t = .ok (s.modThread t (g s0 t)))
    (hgang : ∀ t x, Sparse.wf x.regs = true → (g s0 t x).gang = x.gang) :
    ∀ (ms : List Nat) (s : State), ms.Nodup → Alike s0 s →
      (∀ t ∈ ms, s.thread t = s0.thread t ∧ ∃ th, s0.thread t = some th ∧ Sparse.wf th.regs = true ∧
        (th.guard (headerOf iss.word) = true → precheck s0 t th i = none ∧ th.untokened i ∧ c s0 t)) →
      Alike s0 (ms.foldl (runLane i iss f) s) ∧
      (∀ t, t ∉ ms → (ms.foldl (runLane i iss f) s).thread t = s.thread t) ∧
      ∀ t ∈ ms, ∀ th, s0.thread t = some th → (ms.foldl (runLane i iss f) s).thread t
        = some (th.laneOut i iss (th.marks.inRun || s0.inLoop t iss.pc) (g s0 t))
  | [], s, _, hs, _ => ⟨hs, fun _ _ => rfl, fun _ h => absurd h (by simp)⟩
  | m :: ms, s, hn, hs, hp => by
    obtain ⟨hm, th, hth, hwf, hq⟩ := hp m (by simp)
    rw [List.nodup_cons] at hn
    have hsm : s.thread m = some th := hm.trans hth
    have hlane : runLane i iss f s m
        = s.setThread m (th.laneOut i iss (th.marks.inRun || s.inLoop m iss.pc) (g s0 m)) := by
      refine runLane_thread hsm ?_
      intro hg
      obtain ⟨h1, h2, h3⟩ := hq hg
      refine ⟨(hs.precheck m th i).trans h1, h2, hf _ _ ?_ h3⟩
      exact hs.setThread hsm (by rw [Thread.keepOperand_gang]; rfl)
    rw [hs.inLoop] at hlane
    have hs' : Alike s0 (runLane i iss f s m) := by
      rw [hlane]; exact hs.setThread hsm (Thread.laneOut_gang _ _ _ _ _ hwf (hgang m))
    have hp' : ∀ t ∈ ms, (runLane i iss f s m).thread t = s0.thread t ∧ ∃ th, s0.thread t = some th ∧
        Sparse.wf th.regs = true ∧
        (th.guard (headerOf iss.word) = true → precheck s0 t th i = none ∧ th.untokened i ∧ c s0 t) := by
      intro t ht
      have hne : t ≠ m := fun e => hn.1 (e ▸ ht)
      rw [hlane, State.thread_setThread_other _ _ _ _ hne]
      exact hp t (List.mem_cons_of_mem _ ht)
    obtain ⟨k1, k2, k3⟩ := fold_lanes hf hgang ms _ hn.2 hs' hp'
    refine ⟨k1, ?_, ?_⟩
    · intro t ht
      rw [List.mem_cons, not_or] at ht
      show (ms.foldl (runLane i iss f) (runLane i iss f s m)).thread t = _
      rw [k2 t ht.2, hlane, State.thread_setThread_other _ _ _ _ ht.1]
    · intro t ht u hu
      show (ms.foldl (runLane i iss f) (runLane i iss f s m)).thread t = _
      rcases List.mem_cons.1 ht with rfl | ht
      · rw [k2 t hn.1, hlane, State.thread_setThread_same]
        have : th = u := by rw [hth] at hu; exact Option.some.inj hu
        rw [this]
      · exact k3 t ht u hu

/-! ## What the frame leaves of a thread -/

theorem Thread.reg_congr {a b : Thread} (h : b.regs = a.regs) (r : Nat) : b.reg r = a.reg r := by
  simp [Thread.reg, h]

theorem Thread.pred_congr {a b : Thread} (h : b.preds = a.preds) (n : BitVec 3) : b.pred n = a.pred n := by
  simp [Thread.pred, h]

theorem Thread.passed_same (th : Thread) (i : Instr) (iss : Issue) (run : Bool) : SameData th (th.passed i iss run) :=
  ⟨rfl, rfl, rfl, ⟨rfl, rfl, rfl, rfl, rfl, rfl, rfl, rfl, rfl, rfl, rfl, rfl, rfl, rfl⟩⟩

theorem Thread.keepOperand_same (th : Thread) (h : Hdr) (y : Body) : SameData th (th.keepOperand h y) := by
  unfold Thread.keepOperand
  repeat' split
  all_goals exact ⟨rfl, rfl, rfl, ⟨rfl, rfl, rfl, rfl, rfl, rfl, rfl, rfl, rfl, rfl, rfl, rfl, rfl, rfl⟩⟩

theorem SameRest.trans {a b c : Thread} (h : SameRest a b) (k : SameRest b c) : SameRest a c where
  gang := k.gang.trans h.gang
  tid := k.tid.trans h.tid
  frm := k.frm.trans h.frm
  hnd := k.hnd.trans h.hnd
  csp := k.csp.trans h.csp
  cych := k.cych.trans h.cych
  choice := k.choice.trans h.choice
  faults := k.faults.trans h.faults
  priv := k.priv.trans h.priv
  pbad := k.pbad.trans h.pbad
  psq := k.psq.trans h.psq
  watch := k.watch.trans h.watch
  tokens := k.tokens.trans h.tokens
  asyncs := k.asyncs.trans h.asyncs

theorem SameData.trans {a b c : Thread} (h : SameData a b) (k : SameData b c) : SameData a c :=
  ⟨k.regs.trans h.regs, k.preds.trans h.preds, k.flg.trans h.flg, h.rest.trans k.rest⟩

@[simp] theorem Thread.keepOperand_pc (th : Thread) (h : Hdr) (y : Body) : (th.keepOperand h y).pc = th.pc := by
  unfold Thread.keepOperand; repeat' split <;> try rfl

@[simp] theorem Thread.keepOperand_longs (th : Thread) (h : Hdr) (y : Body) : (th.keepOperand h y).longs = th.longs := by
  unfold Thread.keepOperand; repeat' split <;> try rfl

/-- The thread in which an instruction's own effect begins has the data of the thread that issued. -/
theorem Thread.entered_same (th : Thread) (i : Instr) (iss : Issue) (run : Bool) :
    SameData th ((th.passed i iss run).keepOperand (headerOf iss.word) (Fields.ofWord iss.word).body) :=
  (Thread.passed_same th i iss run).trans (Thread.keepOperand_same _ _ _)

theorem Thread.passed_kinds (th : Thread) (i : Instr) (iss : Issue) (run : Bool) :
    (th.passed i iss run).longs.map (·.kind) = th.longs.map (·.kind) := by
  simp [Thread.passed, Thread.began, Thread.issued, Function.comp_def]

/-- What an effect on a thread must do for `Computed` to hold of the whole lane: it is read off the thread that
issued, whatever the marks are. -/
structure Effect (w : Thread → Nat → Option Word) (f : Thread → Nat) (p : Thread → BitVec 3 → Option Bool)
    (l : Thread → List LongKind) (g : Thread → Thread) (a : Thread) : Prop where
  pc    : (g a).pc = a.pc
  regs  : ∀ r, (g a).reg r = (w a r).getD (a.reg r)
  flg   : (g a).flg = a.flg ||| BitVec.ofNat 32 (f a % 64)
  preds : ∀ n, (g a).pred n = (p a n).getD (a.pred n)
  longs : (g a).longs.map (·.kind) = a.longs.map (·.kind) ++ l a
  rest  : SameRest a (g a)

theorem Thread.computed_passed (th : Thread) (i : Instr) (iss : Issue) (run : Bool) :
    Computed iss.pc noReg 0 noPred [] th (th.passed i iss run) := by
  have h := Thread.passed_same th i iss run
  refine ⟨by simp [Thread.passed, nextPc], ?_, ?_, ?_, ?_, h.rest⟩
  · intro r; simp [noReg, Thread.reg_congr h.regs]
  · simp [h.flg]
  · intro n; simp [noPred, Thread.pred_congr h.preds]
  · rw [Thread.passed_kinds]; simp

/-- The whole lane of an instruction with the effect `g`. -/
theorem Thread.computed_lane {w : Thread → Nat → Option Word} {f : Thread → Nat} {p : Thread → BitVec 3 → Option Bool}
    {l : Thread → List LongKind} {g : Thread → Thread} {a : Thread} {i : Instr} {iss : Issue} {run : Bool}
    (hw : ∀ b, SameData a b → w b = w a ∧ f b = f a ∧ p b = p a ∧ l b = l a)
    (h : ∀ b, SameData a b → Effect w f p l g b) :
    if a.guard (headerOf iss.word) = true then
      Computed iss.pc (w a) (f a) (p a) (l a) a (a.laneOut i iss run g)
    else Computed iss.pc noReg 0 noPred [] a (a.laneOut i iss run g) := by
  by_cases hg : a.guard (headerOf iss.word) = true
  · simp only [hg, if_true, Thread.laneOut]
    have hs := Thread.entered_same a i iss run
    have he := h _ hs
    obtain ⟨h1, h2, h3, h4⟩ := hw _ hs
    refine ⟨?_, ?_, ?_, ?_, ?_, hs.rest.trans he.rest⟩
    · rw [he.pc, Thread.keepOperand_pc]; rfl
    · intro r; rw [he.regs, h1, Thread.reg_congr hs.regs]
    · rw [he.flg, h2, hs.flg]
    · intro n; rw [he.preds, h3, Thread.pred_congr hs.preds]
    · rw [he.longs, h4, Thread.keepOperand_longs, Thread.passed_kinds]
  · simp only [hg, Thread.laneOut]
    exact Thread.computed_passed a i iss run

/-- From a meaning's own effect to the claim about its groups. -/
theorem computesIf_of_effect {i : Instr} {f : Addr56 → State → Nat → LaneRes} {c : State → Nat → Prop}
    {g : Addr56 → State → Nat → Thread → Thread} {w : State → Nat → Thread → Nat → Option Word} {fl : State → Nat → Thread → Nat}
    {p : State → Nat → Thread → BitVec 3 → Option Bool} {l : State → Nat → Thread → List LongKind}
    (hexec : ∀ s, exec i s = perThread i f s)
    (hf : ∀ s0 s pc t, Alike s0 s → c s0 t → f pc s t = .ok (s.modThread t (g pc s0 t)))
    (hw : ∀ s t a b, SameData a b → w s t b = w s t a ∧ fl s t b = fl s t a ∧ p s t b = p s t a ∧ l s t b = l s t a)
    (he : ∀ pc s t b, Sparse.wf b.regs = true → Effect (w s t) (fl s t) (p s t) (l s t) (g pc s t) b) :
    ComputesIf i c w fl p l := by
  intro s iss hr hc
  have hp : ∀ t ∈ iss.members, s.thread t = s.thread t ∧ ∃ th, s.thread t = some th ∧ Sparse.wf th.regs = true ∧
      (th.guard (headerOf iss.word) = true → precheck s t th i = none ∧ th.untokened i ∧ c s t) := by
    intro t ht
    obtain ⟨th, h1, h2, h3⟩ := hr.passes t ht
    exact ⟨rfl, th, h1, h2, fun hg => ⟨(h3 hg).1, (h3 hg).2, hc t ht th h1 hg⟩⟩
  obtain ⟨k1, k2, k3⟩ := fold_lanes (i := i) (iss := iss) (f := f) (c := c) (g := g iss.pc)
    (fun s' t ha hct => hf s s' iss.pc t ha hct) (fun t x hx => (he iss.pc s t x hx).rest.gang) iss.members s hr.distinct (Alike.refl s) hp
  refine ⟨_, ?_, k1.rest, k2, ?_⟩
  · rw [hexec, perThread, hr.latched]
  · intro t ht a ha
    refine ⟨_, k3 t ht a ha, ?_⟩
    obtain ⟨th, h1, h2, _⟩ := hr.passes t ht
    have hth : th = a := Option.some.inj (h1.symm.trans ha)
    subst hth
    exact Thread.computed_lane (fun b hb => hw s t th b hb) fun b hb => he iss.pc s t b (by rw [hb.regs]; exact h2)

end Sys2Proof.Machine
end

