-- ==== Sys2Proof/Laws/Memory.lean ====
section
/-! SUPPORT. Every operation that writes a memory keeps its canonical form, and touches no byte outside those it
writes: DRAM, the on-chip banks and lane-private memory. -/

namespace Sys2Proof.Machine

/-! ## DRAM -/

/-- The memory after reset is in canonical form. -/
theorem State.reset_dram_wf : Memory.wf State.reset.mem.dram = true := Sparse.wf_nil

theorem Memory.wf_filter (m : Memory) (f : Host.Cell → Bool) (h : Memory.wf m = true) : Memory.wf (m.filter f) = true := by
  rw [Memory.wf, Sparse.wf_iff] at h ⊢
  exact ⟨h.1.filter f, fun p hp => h.2 p (List.mem_filter.mp hp).1⟩

@[simp] theorem State.setDram_dram (s : State) (m : Memory) : (s.setDram m).mem.dram = m := rfl

theorem State.scrubLine_dram (s : State) (key : Nat) : (s.scrubLine key).mem.dram = s.mem.dram := rfl

/-- The DRAM after a masked write of a line: one write of 64 bytes at the line's base. -/
theorem State.writeDram_dram (s : State) (key : Nat) (d : BitVec 512) (mask : Nat) :
    ∃ v m, (s.writeDram key d mask).mem.dram = Memory.writeMasked s.mem.dram (key / 64 * 64) 64 v m := by
  unfold State.writeDram
  split
  · exact ⟨_, _, by rw [State.scrubLine_dram, State.setDram_dram]⟩
  · exact ⟨_, _, by rw [State.setDram_dram]⟩

/-- A masked write of a line keeps DRAM canonical. -/
theorem State.writeDram_wf (s : State) (key : Nat) (d : BitVec 512) (mask : Nat) (h : Memory.wf s.mem.dram = true) :
    Memory.wf (s.writeDram key d mask).mem.dram = true := by
  obtain ⟨v, m, e⟩ := s.writeDram_dram key d mask
  rw [e]
  exact Memory.wf_writeMasked _ _ _ _ _ h

/-- A masked write of a line changes no byte of another line. -/
theorem State.writeDram_other (s : State) (key a : Nat) (d : BitVec 512) (mask : Nat) (h : a / 64 ≠ key / 64) :
    Memory.read (s.writeDram key d mask).mem.dram a = Memory.read s.mem.dram a := by
  obtain ⟨v, m, e⟩ := s.writeDram_dram key d mask
  rw [e]
  exact Memory.read_writeMasked_outside _ _ _ _ _ _ (by omega)

/-- What a masked write of a line may change of the machine: DRAM, and of a line still to be cleared the record that it
is, with the poison of its earlier bytes (R65). -/
theorem State.writeDram_frame (s : State) (key : Nat) (d : BitVec 512) (mask : Nat) :
    { s.writeDram key d mask with
      mem := { (s.writeDram key d mask).mem with
        dram := s.mem.dram, unscrubbed := s.mem.unscrubbed, poison := s.mem.poison } } = s := by
  have h1 : ∀ m, { (s.setDram m).scrubLine key with
      mem := { ((s.setDram m).scrubLine key).mem with
        dram := s.mem.dram, unscrubbed := s.mem.unscrubbed, poison := s.mem.poison } } = s := fun _ => rfl
  have h2 : ∀ m, { s.setDram m with
      mem := { (s.setDram m).mem with
        dram := s.mem.dram, unscrubbed := s.mem.unscrubbed, poison := s.mem.poison } } = s := fun _ => rfl
  unfold State.writeDram
  split
  · exact h1 _
  · exact h2 _

theorem State.writePte_wf (s : State) (x : PteSlot) (p : DWord) (h : Memory.wf s.mem.dram = true) :
    Memory.wf (s.writePte x p).mem.dram = true := s.writeDram_wf _ _ _ h

theorem State.clearPage_wf (s : State) (page : Nat) (h : Memory.wf s.mem.dram = true) :
    Memory.wf (s.clearPage page).mem.dram = true := by
  unfold State.clearPage
  split
  · exact h
  · exact Memory.wf_filter _ _ h

/-! ## On-chip banks -/

theorem State.bankMem_setBankMem_core (s : State) (c : Nat) (m : Memory) : (s.setBankMem (.clu c) m).bankMem (.clu c) = m := by
  simp [State.setBankMem, State.bankMem, State.modCore]

theorem State.bankMem_setBankMem_isle (s : State) (n : Nat) (m : Memory) : (s.setBankMem (.lag n) m).bankMem (.lag n) = m := by
  simp [State.setBankMem, State.bankMem, State.modIsle]

/-- A bank that is given a memory in canonical form holds one. -/
theorem State.setBankMem_wf (s : State) (b : Bank) (m : Memory) (h : Memory.wf m = true) (hb : Memory.wf (s.bankMem b) = true) :
    Memory.wf ((s.setBankMem b m).bankMem b) = true := by
  cases b with
  | scr g =>
    simp only [State.setBankMem, State.bankMem, State.modGang, State.gang] at hb ⊢
    rw [Tab.get?_modify]
    cases hg : Tab.get? s.gangs g with
    | none => simp [Memory.wf, Sparse.wf_nil]
    | some x => simp [h]
  | clu c => rw [State.bankMem_setBankMem_core]; exact h
  | lag n => rw [State.bankMem_setBankMem_isle]; exact h

/-! ## Lane-private memory -/

theorem Thread.privWrite_wf (th : Thread) (a n v : Nat) (h : Memory.wf th.priv = true) :
    Memory.wf (th.privWrite a n v).priv = true := Memory.wf_writeNat _ _ _ _ h

/-- A private write changes no byte outside those it writes. -/
theorem Thread.privWrite_other (th : Thread) (a n v b : Nat) (h : b < a ∨ a + n ≤ b) :
    Memory.read (th.privWrite a n v).priv b = Memory.read th.priv b := Memory.read_writeNat_outside _ _ _ _ _ h

/-- A private write changes the private bytes and their poison, nothing else. -/
theorem Thread.privWrite_frame (th : Thread) (a n v : Nat) :
    { th.privWrite a n v with priv := th.priv, privPoison := th.privPoison } = th := rfl

/-- What is read where a private write has stored. -/
theorem Thread.privWrite_read (th : Thread) (a n v : Nat) (h : Memory.wf th.priv = true) :
    Memory.readNat (th.privWrite a n v).priv a n = v % 256 ^ n := Memory.readNat_writeNat _ _ _ _ h

theorem Thread.trail_wf (th : Thread) (kind loc old : Nat) (h : Memory.wf th.priv = true) :
    Memory.wf (th.trail kind loc old).priv = true := Memory.wf_writeNat _ _ _ _ h

theorem Thread.trails_wf (ws : List (Nat × Nat)) (th : Thread) (h : Memory.wf th.priv = true) :
    Memory.wf (ws.foldl (fun (th : Thread) w =>
      th.trail w.1 w.2 (Memory.readNat th.priv w.2 (if w.1 = 0 then 4 else 8))) th).priv = true := by
  induction ws generalizing th with
  | nil => exact h
  | cons w ws ih =>
    rw [List.foldl_cons]
    generalize Memory.readNat _ _ _ = v
    exact ih (th.trail w.1 w.2 v) (th.trail_wf w.1 w.2 v h)

/-- A private store keeps the private bytes in canonical form, trailed or not (R242). -/
theorem Thread.privStore_wf (th b : Thread) (a n v : Nat) (h : Memory.wf th.priv = true) (hb : th.privStore a n v = some b) :
    Memory.wf b.priv = true := by
  unfold Thread.privStore at hb
  split at hb
  · cases hb; exact th.privWrite_wf _ _ _ h
  · simp only at hb
    split at hb
    · cases hb
      refine Thread.privWrite_wf _ _ _ _ ?_
      exact Thread.trails_wf _ th h
    · cases hb

end Sys2Proof.Machine
end

