-- ==== Sys2Proof/Laws/Ops.lean ====
section
/-! SUPPORT. What taking a fault can do, once for all instructions that raise one (R359, R360, R367). -/

namespace Sys2Proof.Machine

/-- A thread with nothing outstanding has no MWAIT to end. -/
theorem Thread.endMwait_clear (th : Thread) (n : Nat) (h : th.longs = []) : th.endMwait n = th := by
  simp [Thread.endMwait, h]

/-- A thread that has exited takes no fault (R367). -/
theorem State.deliverFault_exited {s : State} {t : Nat} {th : Thread} (f : FaultRec) (h : s.thread t = some th)
    (he : th.hold = .exited) : s.deliverFault t f = s := by
  simp [State.deliverFault, h, he]

/-- A fault waits for what the thread has outstanding, or for a cancel (R359, R369); an MWAIT has ended. -/
theorem State.deliverFault_waits {s : State} {t : Nat} {th : Thread} (f : FaultRec) (h : s.thread t = some th)
    (he : th.hold ≠ .exited) (ho : th.holdsFault = true) :
    s.deliverFault t f = (s.setThread t { th.endMwait 3 with hold := .faulting f }).dropWaits t := by
  simp only [State.deliverFault, h, if_neg he, ho, if_true]

/-- Nothing holds the fault up: it is taken at once (R359). -/
theorem State.deliverFault_now {s : State} {t : Nat} {th : Thread} (f : FaultRec) (h : s.thread t = some th)
    (he : th.hold ≠ .exited) (ho : th.holdsFault = false) :
    s.deliverFault t f = s.deliverNow t f := by
  simp [State.deliverFault, h, he, ho]

/-- The three things that taking a fault can be, for a thread that is present. -/
theorem State.deliverFault_cases {s : State} {t : Nat} {th : Thread} (f : FaultRec) (h : s.thread t = some th) :
    (th.hold = .exited ∧ s.deliverFault t f = s) ∨
    (th.hold ≠ .exited ∧ th.holdsFault = true ∧
      s.deliverFault t f = (s.setThread t { th.endMwait 3 with hold := .faulting f }).dropWaits t) ∨
    (th.hold ≠ .exited ∧ th.holdsFault = false ∧ s.deliverFault t f = s.deliverNow t f) := by
  by_cases he : th.hold = .exited
  · exact .inl ⟨he, s.deliverFault_exited f h he⟩
  · cases ho : th.holdsFault with
    | true => exact .inr (.inl ⟨he, rfl, s.deliverFault_waits f h he ho⟩)
    | false => exact .inr (.inr ⟨he, rfl, s.deliverFault_now f h he ho⟩)

/-- The fault registers at entry name the instruction's own fields (Tables 23-1 and 23-2). -/
theorem FaultRec.regs_pc (f : FaultRec) : f.regs.fpc = f.pc.setWidth 64 ∧ f.regs.finfo = f.info ∧ f.regs.inh = true :=
  ⟨rfl, rfl, rfl⟩

/-- A return to an address ends the handler state and changes nothing else (R148). -/
theorem Thread.leaveHandler_frame (th : Thread) (pc : Addr56) :
    { th.leaveHandler pc with pc := th.pc, faults := th.faults } = th ∧ (th.leaveHandler pc).faults.inh = false ∧
      (th.leaveHandler pc).pc = pc := ⟨rfl, rfl, rfl⟩

end Sys2Proof.Machine
end

