-- ==== Sys2Proof/Laws/PerInstr.lean ====
section
/-! SUPPORT. Per instruction: the fields of its word spell it, under an OP and FN of the table. -/

section

open Sys2Proof

/-- The fields that an instruction is written with read back as that instruction. -/
def Sys2Proof.Laws.Reads.Statement (i : Instr) : Prop :=
  ∀ rc f, i.fields = some f → i.fieldsOk rc = true →
    f.fn.toNat < fnCount f.op.toNat ∧ ((Hdr.read f).bind fun h => readInstr f.op.toNat f.fn.toNat h f.body) = some i

theorem Sys2Proof.Laws.Reads.nop (h : Hdr) : Sys2Proof.Laws.Reads.Statement (.nop h) := by
  intro _ _ hf _; cases hf
  exact reads (by decide) (by decide) (by decide) (rfl)

theorem Sys2Proof.Laws.Reads.bra (h : Hdr) (x : OffArgs) : Sys2Proof.Laws.Reads.Statement (.bra h x) := by
  intro _ _ hf _; cases hf
  exact reads (by decide) (by decide) (by decide) (congrArg (Option.map (Instr.bra h)) x.read_body)

theorem Sys2Proof.Laws.Reads.brx (h : Hdr) (x : PairArgs) : Sys2Proof.Laws.Reads.Statement (.brx h x) := by
  intro _ _ hf _; cases hf
  exact reads (by decide) (by decide) (by decide) (congrArg (Option.map (Instr.brx h)) x.read_body)

theorem Sys2Proof.Laws.Reads.brt (h : Hdr) (x : BrtArgs) : Sys2Proof.Laws.Reads.Statement (.brt h x) := by
  intro _ _ hf _; cases hf
  exact reads (by decide) (by decide) (by decide) (congrArg (Option.map (Instr.brt h)) x.read_body)

theorem Sys2Proof.Laws.Reads.call (h : Hdr) (x : OffArgs) : Sys2Proof.Laws.Reads.Statement (.call h x) := by
  intro _ _ hf _; cases hf
  exact reads (by decide) (by decide) (by decide) (congrArg (Option.map (Instr.call h)) x.read_body)

theorem Sys2Proof.Laws.Reads.callx (h : Hdr) (x : PairArgs) : Sys2Proof.Laws.Reads.Statement (.callx h x) := by
  intro _ _ hf _; cases hf
  exact reads (by decide) (by decide) (by decide) (congrArg (Option.map (Instr.callx h)) x.read_body)

theorem Sys2Proof.Laws.Reads.ret (h : Hdr) : Sys2Proof.Laws.Reads.Statement (.ret h) := by
  intro _ _ hf _; cases hf
  exact reads (by decide) (by decide) (by decide) (rfl)

theorem Sys2Proof.Laws.Reads.exit (h : Hdr) : Sys2Proof.Laws.Reads.Statement (.exit h) := by
  intro _ _ hf _; cases hf
  exact reads (by decide) (by decide) (by decide) (rfl)

theorem Sys2Proof.Laws.Reads.split (h : Hdr) (x : OffArgs) : Sys2Proof.Laws.Reads.Statement (.split h x) := by
  intro _ _ hf _; cases hf
  exact reads (by decide) (by decide) (by decide) (congrArg (Option.map (Instr.split h)) x.read_body)

theorem Sys2Proof.Laws.Reads.join (h : Hdr) : Sys2Proof.Laws.Reads.Statement (.join h) := by
  intro _ _ hf _; cases hf
  exact reads (by decide) (by decide) (by decide) (rfl)

theorem Sys2Proof.Laws.Reads.yield (h : Hdr) (x : CountArgs) : Sys2Proof.Laws.Reads.Statement (.yield h x) := by
  intro _ _ hf _; cases hf
  exact reads (by decide) (by decide) (by decide) (congrArg (Option.map (Instr.yield h)) x.read_body)

theorem Sys2Proof.Laws.Reads.sleep (h : Hdr) (x : OneArgs) : Sys2Proof.Laws.Reads.Statement (.sleep h x) := by
  intro _ _ hf _; cases hf
  exact reads (by decide) (by decide) (by decide) (congrArg (Option.map (Instr.sleep h)) x.read_body)

theorem Sys2Proof.Laws.Reads.trap (h : Hdr) (x : OffArgs) : Sys2Proof.Laws.Reads.Statement (.trap h x) := by
  intro _ _ hf _; cases hf
  exact reads (by decide) (by decide) (by decide) (congrArg (Option.map (Instr.trap h)) x.read_body)

theorem Sys2Proof.Laws.Reads.iret (h : Hdr) (x : IretArgs) : Sys2Proof.Laws.Reads.Statement (.iret h x) := by
  intro _ _ hf _; cases hf
  exact reads (by decide) (by decide) (by decide) (congrArg (Option.map (Instr.iret h)) x.read_body)

theorem Sys2Proof.Laws.Reads.bkpt (h : Hdr) (x : OffArgs) : Sys2Proof.Laws.Reads.Statement (.bkpt h x) := by
  intro _ _ hf _; cases hf
  exact reads (by decide) (by decide) (by decide) (congrArg (Option.map (Instr.bkpt h)) x.read_body)

theorem Sys2Proof.Laws.Reads.svc (h : Hdr) (x : SvcArgs) : Sys2Proof.Laws.Reads.Statement (.svc h x) := by
  intro _ _ hf _; cases hf
  exact reads (by decide) (by decide) (by decide) (congrArg (Option.map (Instr.svc h)) x.read_body)

theorem Sys2Proof.Laws.Reads.add (h : Hdr) (x : IntSatArgs) : Sys2Proof.Laws.Reads.Statement (.add h x) := by
  intro _ _ hf _; cases hf
  exact reads (by decide) (by decide) (by decide) (congrArg (Option.map (Instr.add h)) x.read_body)

theorem Sys2Proof.Laws.Reads.sub (h : Hdr) (x : IntSatArgs) : Sys2Proof.Laws.Reads.Statement (.sub h x) := by
  intro _ _ hf _; cases hf
  exact reads (by decide) (by decide) (by decide) (congrArg (Option.map (Instr.sub h)) x.read_body)

theorem Sys2Proof.Laws.Reads.mul (h : Hdr) (x : IntSatArgs) : Sys2Proof.Laws.Reads.Statement (.mul h x) := by
  intro _ _ hf _; cases hf
  exact reads (by decide) (by decide) (by decide) (congrArg (Option.map (Instr.mul h)) x.read_body)

theorem Sys2Proof.Laws.Reads.mulh (h : Hdr) (x : MulhArgs) : Sys2Proof.Laws.Reads.Statement (.mulh h x) := by
  intro _ _ hf _; cases hf
  exact reads (by decide) (by decide) (by decide) (congrArg (Option.map (Instr.mulh h)) x.read_body)

theorem Sys2Proof.Laws.Reads.mad (h : Hdr) (x : MadArgs) : Sys2Proof.Laws.Reads.Statement (.mad h x) := by
  intro _ _ hf _; cases hf
  exact reads (by decide) (by decide) (by decide) (congrArg (Option.map (Instr.mad h)) x.read_body)

theorem Sys2Proof.Laws.Reads.madw (h : Hdr) (x : MadwArgs) : Sys2Proof.Laws.Reads.Statement (.madw h x) := by
  intro _ _ hf _; cases hf
  exact reads (by decide) (by decide) (by decide) (congrArg (Option.map (Instr.madw h)) x.read_body)

theorem Sys2Proof.Laws.Reads.div (h : Hdr) (x : IntTyArgs) : Sys2Proof.Laws.Reads.Statement (.div h x) := by
  intro _ _ hf _; cases hf
  exact reads (by decide) (by decide) (by decide) (congrArg (Option.map (Instr.div h)) x.read_body)

theorem Sys2Proof.Laws.Reads.rem (h : Hdr) (x : IntTyArgs) : Sys2Proof.Laws.Reads.Statement (.rem h x) := by
  intro _ _ hf _; cases hf
  exact reads (by decide) (by decide) (by decide) (congrArg (Option.map (Instr.rem h)) x.read_body)

theorem Sys2Proof.Laws.Reads.min (h : Hdr) (x : IntTyArgs) : Sys2Proof.Laws.Reads.Statement (.min h x) := by
  intro _ _ hf _; cases hf
  exact reads (by decide) (by decide) (by decide) (congrArg (Option.map (Instr.min h)) x.read_body)

theorem Sys2Proof.Laws.Reads.max (h : Hdr) (x : IntTyArgs) : Sys2Proof.Laws.Reads.Statement (.max h x) := by
  intro _ _ hf _; cases hf
  exact reads (by decide) (by decide) (by decide) (congrArg (Option.map (Instr.max h)) x.read_body)

theorem Sys2Proof.Laws.Reads.abs (h : Hdr) (x : UnSatArgs) : Sys2Proof.Laws.Reads.Statement (.abs h x) := by
  intro _ _ hf _; cases hf
  exact reads (by decide) (by decide) (by decide) (congrArg (Option.map (Instr.abs h)) x.read_body)

theorem Sys2Proof.Laws.Reads.neg (h : Hdr) (x : UnSatArgs) : Sys2Proof.Laws.Reads.Statement (.neg h x) := by
  intro _ _ hf _; cases hf
  exact reads (by decide) (by decide) (by decide) (congrArg (Option.map (Instr.neg h)) x.read_body)

theorem Sys2Proof.Laws.Reads.addc (h : Hdr) (x : IntTyArgs) : Sys2Proof.Laws.Reads.Statement (.addc h x) := by
  intro _ _ hf _; cases hf
  exact reads (by decide) (by decide) (by decide) (congrArg (Option.map (Instr.addc h)) x.read_body)

theorem Sys2Proof.Laws.Reads.lea (h : Hdr) (x : LeaArgs) : Sys2Proof.Laws.Reads.Statement (.lea h x) := by
  intro _ _ hf _; cases hf
  exact reads (by decide) (by decide) (by decide) (congrArg (Option.map (Instr.lea h)) x.read_body)

theorem Sys2Proof.Laws.Reads.add64 (h : Hdr) (x : WideArgs) : Sys2Proof.Laws.Reads.Statement (.add64 h x) := by
  intro _ _ hf _; cases hf
  exact reads (by decide) (by decide) (by decide) (congrArg (Option.map (Instr.add64 h)) x.read_body)

theorem Sys2Proof.Laws.Reads.sub64 (h : Hdr) (x : WideArgs) : Sys2Proof.Laws.Reads.Statement (.sub64 h x) := by
  intro _ _ hf _; cases hf
  exact reads (by decide) (by decide) (by decide) (congrArg (Option.map (Instr.sub64 h)) x.read_body)

theorem Sys2Proof.Laws.Reads.and (h : Hdr) (x : IntArgs) : Sys2Proof.Laws.Reads.Statement (.and h x) := by
  intro _ _ hf _; cases hf
  exact reads (by decide) (by decide) (by decide) (congrArg (Option.map (Instr.and h)) x.read_body)

theorem Sys2Proof.Laws.Reads.or (h : Hdr) (x : IntArgs) : Sys2Proof.Laws.Reads.Statement (.or h x) := by
  intro _ _ hf _; cases hf
  exact reads (by decide) (by decide) (by decide) (congrArg (Option.map (Instr.or h)) x.read_body)

theorem Sys2Proof.Laws.Reads.xor (h : Hdr) (x : IntArgs) : Sys2Proof.Laws.Reads.Statement (.xor h x) := by
  intro _ _ hf _; cases hf
  exact reads (by decide) (by decide) (by decide) (congrArg (Option.map (Instr.xor h)) x.read_body)

theorem Sys2Proof.Laws.Reads.andn (h : Hdr) (x : IntArgs) : Sys2Proof.Laws.Reads.Statement (.andn h x) := by
  intro _ _ hf _; cases hf
  exact reads (by decide) (by decide) (by decide) (congrArg (Option.map (Instr.andn h)) x.read_body)

theorem Sys2Proof.Laws.Reads.shl (h : Hdr) (x : IntArgs) : Sys2Proof.Laws.Reads.Statement (.shl h x) := by
  intro _ _ hf _; cases hf
  exact reads (by decide) (by decide) (by decide) (congrArg (Option.map (Instr.shl h)) x.read_body)

theorem Sys2Proof.Laws.Reads.shr (h : Hdr) (x : IntArgs) : Sys2Proof.Laws.Reads.Statement (.shr h x) := by
  intro _ _ hf _; cases hf
  exact reads (by decide) (by decide) (by decide) (congrArg (Option.map (Instr.shr h)) x.read_body)

theorem Sys2Proof.Laws.Reads.sar (h : Hdr) (x : IntArgs) : Sys2Proof.Laws.Reads.Statement (.sar h x) := by
  intro _ _ hf _; cases hf
  exact reads (by decide) (by decide) (by decide) (congrArg (Option.map (Instr.sar h)) x.read_body)

theorem Sys2Proof.Laws.Reads.rotl (h : Hdr) (x : IntArgs) : Sys2Proof.Laws.Reads.Statement (.rotl h x) := by
  intro _ _ hf _; cases hf
  exact reads (by decide) (by decide) (by decide) (congrArg (Option.map (Instr.rotl h)) x.read_body)

theorem Sys2Proof.Laws.Reads.clz (h : Hdr) (x : UnArgs) : Sys2Proof.Laws.Reads.Statement (.clz h x) := by
  intro _ _ hf _; cases hf
  exact reads (by decide) (by decide) (by decide) (congrArg (Option.map (Instr.clz h)) x.read_body)

theorem Sys2Proof.Laws.Reads.popc (h : Hdr) (x : UnArgs) : Sys2Proof.Laws.Reads.Statement (.popc h x) := by
  intro _ _ hf _; cases hf
  exact reads (by decide) (by decide) (by decide) (congrArg (Option.map (Instr.popc h)) x.read_body)

theorem Sys2Proof.Laws.Reads.brev (h : Hdr) (x : UnArgs) : Sys2Proof.Laws.Reads.Statement (.brev h x) := by
  intro _ _ hf _; cases hf
  exact reads (by decide) (by decide) (by decide) (congrArg (Option.map (Instr.brev h)) x.read_body)

theorem Sys2Proof.Laws.Reads.bfx (h : Hdr) (x : IntTyArgs) : Sys2Proof.Laws.Reads.Statement (.bfx h x) := by
  intro _ _ hf _; cases hf
  exact reads (by decide) (by decide) (by decide) (congrArg (Option.map (Instr.bfx h)) x.read_body)

theorem Sys2Proof.Laws.Reads.bfi (h : Hdr) (x : IntArgs) : Sys2Proof.Laws.Reads.Statement (.bfi h x) := by
  intro _ _ hf _; cases hf
  exact reads (by decide) (by decide) (by decide) (congrArg (Option.map (Instr.bfi h)) x.read_body)

theorem Sys2Proof.Laws.Reads.prmb (h : Hdr) (x : PrmbArgs) : Sys2Proof.Laws.Reads.Statement (.prmb h x) := by
  intro _ _ hf _; cases hf
  exact reads (by decide) (by decide) (by decide) (congrArg (Option.map (Instr.prmb h)) x.read_body)

theorem Sys2Proof.Laws.Reads.mov (h : Hdr) (x : MovArgs) : Sys2Proof.Laws.Reads.Statement (.mov h x) := by
  intro _ _ hf _; cases hf
  exact reads (by decide) (by decide) (by decide) (congrArg (Option.map (Instr.mov h)) x.read_body)

theorem Sys2Proof.Laws.Reads.sel (h : Hdr) (x : SelArgs) : Sys2Proof.Laws.Reads.Statement (.sel h x) := by
  intro _ _ hf _; cases hf
  exact reads (by decide) (by decide) (by decide) (congrArg (Option.map (Instr.sel h)) x.read_body)

theorem Sys2Proof.Laws.Reads.icmp (h : Hdr) (x : IcmpArgs) : Sys2Proof.Laws.Reads.Statement (.icmp h x) := by
  intro _ _ hf _; cases hf
  exact reads (by decide) (by decide) (by decide) (congrArg (Option.map (Instr.icmp h)) x.read_body)

theorem Sys2Proof.Laws.Reads.plop (h : Hdr) (x : PlopArgs) : Sys2Proof.Laws.Reads.Statement (.plop h x) := by
  intro _ _ hf _; cases hf
  exact reads (by decide) (by decide) (by decide) (congrArg (Option.map (Instr.plop h)) x.read_body)

theorem Sys2Proof.Laws.Reads.p2g (h : Hdr) (x : DstArgs) : Sys2Proof.Laws.Reads.Statement (.p2g h x) := by
  intro _ _ hf _; cases hf
  exact reads (by decide) (by decide) (by decide) (congrArg (Option.map (Instr.p2g h)) x.read_body)

theorem Sys2Proof.Laws.Reads.g2p (h : Hdr) (x : G2pArgs) : Sys2Proof.Laws.Reads.Statement (.g2p h x) := by
  intro _ _ hf _; cases hf
  exact reads (by decide) (by decide) (by decide) (congrArg (Option.map (Instr.g2p h)) x.read_body)

theorem Sys2Proof.Laws.Reads.shflIdx (h : Hdr) (x : ShflArgs) : Sys2Proof.Laws.Reads.Statement (.shflIdx h x) := by
  intro _ _ hf _; cases hf
  exact reads (by decide) (by decide) (by decide) (congrArg (Option.map (Instr.shflIdx h)) x.read_body)

theorem Sys2Proof.Laws.Reads.shflUp (h : Hdr) (x : ShflArgs) : Sys2Proof.Laws.Reads.Statement (.shflUp h x) := by
  intro _ _ hf _; cases hf
  exact reads (by decide) (by decide) (by decide) (congrArg (Option.map (Instr.shflUp h)) x.read_body)

theorem Sys2Proof.Laws.Reads.shflDown (h : Hdr) (x : ShflArgs) : Sys2Proof.Laws.Reads.Statement (.shflDown h x) := by
  intro _ _ hf _; cases hf
  exact reads (by decide) (by decide) (by decide) (congrArg (Option.map (Instr.shflDown h)) x.read_body)

theorem Sys2Proof.Laws.Reads.shflXor (h : Hdr) (x : ShflArgs) : Sys2Proof.Laws.Reads.Statement (.shflXor h x) := by
  intro _ _ hf _; cases hf
  exact reads (by decide) (by decide) (by decide) (congrArg (Option.map (Instr.shflXor h)) x.read_body)

theorem Sys2Proof.Laws.Reads.voteAll (h : Hdr) (x : VotePredArgs) : Sys2Proof.Laws.Reads.Statement (.voteAll h x) := by
  intro _ _ hf _; cases hf
  exact reads (by decide) (by decide) (by decide) (congrArg (Option.map (Instr.voteAll h)) x.read_body)

theorem Sys2Proof.Laws.Reads.voteAny (h : Hdr) (x : VotePredArgs) : Sys2Proof.Laws.Reads.Statement (.voteAny h x) := by
  intro _ _ hf _; cases hf
  exact reads (by decide) (by decide) (by decide) (congrArg (Option.map (Instr.voteAny h)) x.read_body)

theorem Sys2Proof.Laws.Reads.voteBallot (h : Hdr) (x : VoteRegArgs) : Sys2Proof.Laws.Reads.Statement (.voteBallot h x) := by
  intro _ _ hf _; cases hf
  exact reads (by decide) (by decide) (by decide) (congrArg (Option.map (Instr.voteBallot h)) x.read_body)

theorem Sys2Proof.Laws.Reads.voteCount (h : Hdr) (x : VoteRegArgs) : Sys2Proof.Laws.Reads.Statement (.voteCount h x) := by
  intro _ _ hf _; cases hf
  exact reads (by decide) (by decide) (by decide) (congrArg (Option.map (Instr.voteCount h)) x.read_body)

theorem Sys2Proof.Laws.Reads.cred (h : Hdr) (op : CredOp) (x : CredArgs) : Sys2Proof.Laws.Reads.Statement (.cred h op x) := by
  intro _ _ hf _; cases hf
  refine reads (by decide) (by cases op <;> decide) (by cases op <;> decide) ?_
  simp [readInstr, x.read_body]

theorem Sys2Proof.Laws.Reads.cscan (h : Hdr) (x : CscanArgs) : Sys2Proof.Laws.Reads.Statement (.cscan h x) := by
  intro _ _ hf _; cases hf
  exact reads (by decide) (by decide) (by decide) (congrArg (Option.map (Instr.cscan h)) x.read_body)

theorem Sys2Proof.Laws.Reads.matchLanes (h : Hdr) (x : UnArgs) : Sys2Proof.Laws.Reads.Statement (.matchLanes h x) := by
  intro _ _ hf _; cases hf
  exact reads (by decide) (by decide) (by decide) (congrArg (Option.map (Instr.matchLanes h)) x.read_body)

theorem Sys2Proof.Laws.Reads.elect (h : Hdr) (x : ElectArgs) : Sys2Proof.Laws.Reads.Statement (.elect h x) := by
  intro _ _ hf _; cases hf
  exact reads (by decide) (by decide) (by decide) (congrArg (Option.map (Instr.elect h)) x.read_body)

theorem Sys2Proof.Laws.Reads.fadd (h : Hdr) (x : FpArgs) : Sys2Proof.Laws.Reads.Statement (.fadd h x) := by
  intro _ _ hf _; cases hf
  exact reads (by decide) (by decide) (by decide) (congrArg (Option.map (Instr.fadd h)) x.read_body)

theorem Sys2Proof.Laws.Reads.fsub (h : Hdr) (x : FpArgs) : Sys2Proof.Laws.Reads.Statement (.fsub h x) := by
  intro _ _ hf _; cases hf
  exact reads (by decide) (by decide) (by decide) (congrArg (Option.map (Instr.fsub h)) x.read_body)

theorem Sys2Proof.Laws.Reads.fmul (h : Hdr) (x : FpArgs) : Sys2Proof.Laws.Reads.Statement (.fmul h x) := by
  intro _ _ hf _; cases hf
  exact reads (by decide) (by decide) (by decide) (congrArg (Option.map (Instr.fmul h)) x.read_body)

theorem Sys2Proof.Laws.Reads.fma (h : Hdr) (x : FpArgs) : Sys2Proof.Laws.Reads.Statement (.fma h x) := by
  intro _ _ hf _; cases hf
  exact reads (by decide) (by decide) (by decide) (congrArg (Option.map (Instr.fma h)) x.read_body)

theorem Sys2Proof.Laws.Reads.fmin (h : Hdr) (x : FminArgs) : Sys2Proof.Laws.Reads.Statement (.fmin h x) := by
  intro _ _ hf _; cases hf
  exact reads (by decide) (by decide) (by decide) (congrArg (Option.map (Instr.fmin h)) x.read_body)

theorem Sys2Proof.Laws.Reads.fmax (h : Hdr) (x : FminArgs) : Sys2Proof.Laws.Reads.Statement (.fmax h x) := by
  intro _ _ hf _; cases hf
  exact reads (by decide) (by decide) (by decide) (congrArg (Option.map (Instr.fmax h)) x.read_body)

theorem Sys2Proof.Laws.Reads.fcmp (h : Hdr) (x : FcmpArgs) : Sys2Proof.Laws.Reads.Statement (.fcmp h x) := by
  intro _ _ hf _; cases hf
  exact reads (by decide) (by decide) (by decide) (congrArg (Option.map (Instr.fcmp h)) x.read_body)

theorem Sys2Proof.Laws.Reads.fdiv (h : Hdr) (x : FpArgs) : Sys2Proof.Laws.Reads.Statement (.fdiv h x) := by
  intro _ _ hf _; cases hf
  exact reads (by decide) (by decide) (by decide) (congrArg (Option.map (Instr.fdiv h)) x.read_body)

theorem Sys2Proof.Laws.Reads.frcp (h : Hdr) (x : FunArgs) : Sys2Proof.Laws.Reads.Statement (.frcp h x) := by
  intro _ _ hf _; cases hf
  exact reads (by decide) (by decide) (by decide) (congrArg (Option.map (Instr.frcp h)) x.read_body)

theorem Sys2Proof.Laws.Reads.frsq (h : Hdr) (x : FunArgs) : Sys2Proof.Laws.Reads.Statement (.frsq h x) := by
  intro _ _ hf _; cases hf
  exact reads (by decide) (by decide) (by decide) (congrArg (Option.map (Instr.frsq h)) x.read_body)

theorem Sys2Proof.Laws.Reads.fsqrt (h : Hdr) (x : FunArgs) : Sys2Proof.Laws.Reads.Statement (.fsqrt h x) := by
  intro _ _ hf _; cases hf
  exact reads (by decide) (by decide) (by decide) (congrArg (Option.map (Instr.fsqrt h)) x.read_body)

theorem Sys2Proof.Laws.Reads.fexp2 (h : Hdr) (x : FunArgs) : Sys2Proof.Laws.Reads.Statement (.fexp2 h x) := by
  intro _ _ hf _; cases hf
  exact reads (by decide) (by decide) (by decide) (congrArg (Option.map (Instr.fexp2 h)) x.read_body)

theorem Sys2Proof.Laws.Reads.flog2 (h : Hdr) (x : FunArgs) : Sys2Proof.Laws.Reads.Statement (.flog2 h x) := by
  intro _ _ hf _; cases hf
  exact reads (by decide) (by decide) (by decide) (congrArg (Option.map (Instr.flog2 h)) x.read_body)

theorem Sys2Proof.Laws.Reads.fsinp (h : Hdr) (x : FunArgs) : Sys2Proof.Laws.Reads.Statement (.fsinp h x) := by
  intro _ _ hf _; cases hf
  exact reads (by decide) (by decide) (by decide) (congrArg (Option.map (Instr.fsinp h)) x.read_body)

theorem Sys2Proof.Laws.Reads.fcosp (h : Hdr) (x : FunArgs) : Sys2Proof.Laws.Reads.Statement (.fcosp h x) := by
  intro _ _ hf _; cases hf
  exact reads (by decide) (by decide) (by decide) (congrArg (Option.map (Instr.fcosp h)) x.read_body)

theorem Sys2Proof.Laws.Reads.fscale (h : Hdr) (x : FscaleArgs) : Sys2Proof.Laws.Reads.Statement (.fscale h x) := by
  intro _ _ hf _; cases hf
  exact reads (by decide) (by decide) (by decide) (congrArg (Option.map (Instr.fscale h)) x.read_body)

theorem Sys2Proof.Laws.Reads.fclass (h : Hdr) (x : UnArgs) : Sys2Proof.Laws.Reads.Statement (.fclass h x) := by
  intro _ _ hf _; cases hf
  exact reads (by decide) (by decide) (by decide) (congrArg (Option.map (Instr.fclass h)) x.read_body)

theorem Sys2Proof.Laws.Reads.frint (h : Hdr) (x : FrintArgs) : Sys2Proof.Laws.Reads.Statement (.frint h x) := by
  intro _ _ hf _; cases hf
  exact reads (by decide) (by decide) (by decide) (congrArg (Option.map (Instr.frint h)) x.read_body)

theorem Sys2Proof.Laws.Reads.fcvt (h : Hdr) (x : FcvtArgs) : Sys2Proof.Laws.Reads.Statement (.fcvt h x) := by
  intro _ _ hf _; cases hf
  exact reads (by decide) (by decide) (by decide) (congrArg (Option.map (Instr.fcvt h)) x.read_body)

theorem Sys2Proof.Laws.Reads.ftoi (h : Hdr) (x : FtoiArgs) : Sys2Proof.Laws.Reads.Statement (.ftoi h x) := by
  intro _ _ hf _; cases hf
  exact reads (by decide) (by decide) (by decide) (congrArg (Option.map (Instr.ftoi h)) x.read_body)

theorem Sys2Proof.Laws.Reads.itof (h : Hdr) (x : ItofArgs) : Sys2Proof.Laws.Reads.Statement (.itof h x) := by
  intro _ _ hf _; cases hf
  exact reads (by decide) (by decide) (by decide) (congrArg (Option.map (Instr.itof h)) x.read_body)

theorem Sys2Proof.Laws.Reads.dadd (h : Hdr) (x : DpArgs) : Sys2Proof.Laws.Reads.Statement (.dadd h x) := by
  intro _ _ hf _; cases hf
  exact reads (by decide) (by decide) (by decide) (congrArg (Option.map (Instr.dadd h)) x.read_body)

theorem Sys2Proof.Laws.Reads.dmul (h : Hdr) (x : DpArgs) : Sys2Proof.Laws.Reads.Statement (.dmul h x) := by
  intro _ _ hf _; cases hf
  exact reads (by decide) (by decide) (by decide) (congrArg (Option.map (Instr.dmul h)) x.read_body)

theorem Sys2Proof.Laws.Reads.dfma (h : Hdr) (x : DpArgs) : Sys2Proof.Laws.Reads.Statement (.dfma h x) := by
  intro _ _ hf _; cases hf
  exact reads (by decide) (by decide) (by decide) (congrArg (Option.map (Instr.dfma h)) x.read_body)

theorem Sys2Proof.Laws.Reads.dcmp (h : Hdr) (x : DcmpArgs) : Sys2Proof.Laws.Reads.Statement (.dcmp h x) := by
  intro _ _ hf _; cases hf
  exact reads (by decide) (by decide) (by decide) (congrArg (Option.map (Instr.dcmp h)) x.read_body)

theorem Sys2Proof.Laws.Reads.hadd2 (h : Hdr) (x : PackedArgs) : Sys2Proof.Laws.Reads.Statement (.hadd2 h x) := by
  intro _ _ hf _; cases hf
  exact reads (by decide) (by decide) (by decide) (congrArg (Option.map (Instr.hadd2 h)) x.read_body)

theorem Sys2Proof.Laws.Reads.hmul2 (h : Hdr) (x : PackedArgs) : Sys2Proof.Laws.Reads.Statement (.hmul2 h x) := by
  intro _ _ hf _; cases hf
  exact reads (by decide) (by decide) (by decide) (congrArg (Option.map (Instr.hmul2 h)) x.read_body)

theorem Sys2Proof.Laws.Reads.hfma2 (h : Hdr) (x : PackedArgs) : Sys2Proof.Laws.Reads.Statement (.hfma2 h x) := by
  intro _ _ hf _; cases hf
  exact reads (by decide) (by decide) (by decide) (congrArg (Option.map (Instr.hfma2 h)) x.read_body)

theorem Sys2Proof.Laws.Reads.fdot2 (h : Hdr) (x : FdotArgs) : Sys2Proof.Laws.Reads.Statement (.fdot2 h x) := by
  intro _ _ hf _; cases hf
  exact reads (by decide) (by decide) (by decide) (congrArg (Option.map (Instr.fdot2 h)) x.read_body)

theorem Sys2Proof.Laws.Reads.fdot4 (h : Hdr) (x : FdotArgs) : Sys2Proof.Laws.Reads.Statement (.fdot4 h x) := by
  intro _ _ hf _; cases hf
  exact reads (by decide) (by decide) (by decide) (congrArg (Option.map (Instr.fdot4 h)) x.read_body)

theorem Sys2Proof.Laws.Reads.cmul (h : Hdr) (x : Pair3Args) : Sys2Proof.Laws.Reads.Statement (.cmul h x) := by
  intro _ _ hf _; cases hf
  exact reads (by decide) (by decide) (by decide) (congrArg (Option.map (Instr.cmul h)) x.read_body)

theorem Sys2Proof.Laws.Reads.ld (h : Hdr) (x : MemArgs) : Sys2Proof.Laws.Reads.Statement (.ld h x) := by
  intro _ _ hf _; cases hf
  exact reads (by decide) (by decide) (by decide) (congrArg (Option.map (Instr.ld h)) x.read_body)

theorem Sys2Proof.Laws.Reads.ldAfter (h : Hdr) (x : MemArgs) : Sys2Proof.Laws.Reads.Statement (.ldAfter h x) := by
  intro _ _ hf _; cases hf
  exact reads (by decide) (by decide) (by decide) (congrArg (Option.map (Instr.ldAfter h)) x.read_body)

theorem Sys2Proof.Laws.Reads.st (h : Hdr) (x : MemArgs) : Sys2Proof.Laws.Reads.Statement (.st h x) := by
  intro _ _ hf _; cases hf
  exact reads (by decide) (by decide) (by decide) (congrArg (Option.map (Instr.st h)) x.read_body)

theorem Sys2Proof.Laws.Reads.ldf (h : Hdr) (x : ElemArgs) : Sys2Proof.Laws.Reads.Statement (.ldf h x) := by
  intro _ _ hf _; cases hf
  exact reads (by decide) (by decide) (by decide) (congrArg (Option.map (Instr.ldf h)) x.read_body)

theorem Sys2Proof.Laws.Reads.stf (h : Hdr) (x : ElemArgs) : Sys2Proof.Laws.Reads.Statement (.stf h x) := by
  intro _ _ hf _; cases hf
  exact reads (by decide) (by decide) (by decide) (congrArg (Option.map (Instr.stf h)) x.read_body)

theorem Sys2Proof.Laws.Reads.pref (h : Hdr) (x : PrefArgs) : Sys2Proof.Laws.Reads.Statement (.pref h x) := by
  intro _ _ hf _; cases hf
  exact reads (by decide) (by decide) (by decide) (congrArg (Option.map (Instr.pref h)) x.read_body)

theorem Sys2Proof.Laws.Reads.cinvD (h : Hdr) (x : CinvArgs) : Sys2Proof.Laws.Reads.Statement (.cinvD h x) := by
  intro _ _ hf _; cases hf
  exact reads (by decide) (by decide) (by decide) (by simp [readInstr, x.read_body, CinvArgs.kind_body])

theorem Sys2Proof.Laws.Reads.cinvI (h : Hdr) (x : CinvArgs) : Sys2Proof.Laws.Reads.Statement (.cinvI h x) := by
  intro _ _ hf _; cases hf
  exact reads (by decide) (by decide) (by decide) (by simp [readInstr, x.read_body, CinvArgs.kind_body])

theorem Sys2Proof.Laws.Reads.cinvIf (h : Hdr) (x : CinvArgs) : Sys2Proof.Laws.Reads.Statement (.cinvIf h x) := by
  intro _ _ hf _; cases hf
  exact reads (by decide) (by decide) (by decide) (by simp [readInstr, x.read_body, CinvArgs.kind_body])

theorem Sys2Proof.Laws.Reads.atomAdd (h : Hdr) (x : AtomArgs) : Sys2Proof.Laws.Reads.Statement (.atomAdd h x) := by
  intro _ _ hf _; cases hf
  exact reads (by decide) (by decide) (by decide) (congrArg (Option.map (Instr.atomAdd h)) x.read_body)

theorem Sys2Proof.Laws.Reads.atomMinS (h : Hdr) (x : AtomArgs) : Sys2Proof.Laws.Reads.Statement (.atomMinS h x) := by
  intro _ _ hf _; cases hf
  exact reads (by decide) (by decide) (by decide) (congrArg (Option.map (Instr.atomMinS h)) x.read_body)

theorem Sys2Proof.Laws.Reads.atomMinN (h : Hdr) (x : AtomArgs) : Sys2Proof.Laws.Reads.Statement (.atomMinN h x) := by
  intro _ _ hf _; cases hf
  exact reads (by decide) (by decide) (by decide) (congrArg (Option.map (Instr.atomMinN h)) x.read_body)

theorem Sys2Proof.Laws.Reads.atomMaxS (h : Hdr) (x : AtomArgs) : Sys2Proof.Laws.Reads.Statement (.atomMaxS h x) := by
  intro _ _ hf _; cases hf
  exact reads (by decide) (by decide) (by decide) (congrArg (Option.map (Instr.atomMaxS h)) x.read_body)

theorem Sys2Proof.Laws.Reads.atomMaxN (h : Hdr) (x : AtomArgs) : Sys2Proof.Laws.Reads.Statement (.atomMaxN h x) := by
  intro _ _ hf _; cases hf
  exact reads (by decide) (by decide) (by decide) (congrArg (Option.map (Instr.atomMaxN h)) x.read_body)

theorem Sys2Proof.Laws.Reads.atomAnd (h : Hdr) (x : AtomArgs) : Sys2Proof.Laws.Reads.Statement (.atomAnd h x) := by
  intro _ _ hf _; cases hf
  exact reads (by decide) (by decide) (by decide) (congrArg (Option.map (Instr.atomAnd h)) x.read_body)

theorem Sys2Proof.Laws.Reads.atomOr (h : Hdr) (x : AtomArgs) : Sys2Proof.Laws.Reads.Statement (.atomOr h x) := by
  intro _ _ hf _; cases hf
  exact reads (by decide) (by decide) (by decide) (congrArg (Option.map (Instr.atomOr h)) x.read_body)

theorem Sys2Proof.Laws.Reads.atomXor (h : Hdr) (x : AtomArgs) : Sys2Proof.Laws.Reads.Statement (.atomXor h x) := by
  intro _ _ hf _; cases hf
  exact reads (by decide) (by decide) (by decide) (congrArg (Option.map (Instr.atomXor h)) x.read_body)

theorem Sys2Proof.Laws.Reads.atomExch (h : Hdr) (x : AtomArgs) : Sys2Proof.Laws.Reads.Statement (.atomExch h x) := by
  intro _ _ hf _; cases hf
  exact reads (by decide) (by decide) (by decide) (congrArg (Option.map (Instr.atomExch h)) x.read_body)

theorem Sys2Proof.Laws.Reads.atomFadd (h : Hdr) (x : AtomArgs) : Sys2Proof.Laws.Reads.Statement (.atomFadd h x) := by
  intro _ _ hf _; cases hf
  exact reads (by decide) (by decide) (by decide) (congrArg (Option.map (Instr.atomFadd h)) x.read_body)

theorem Sys2Proof.Laws.Reads.atomFmin (h : Hdr) (x : AtomArgs) : Sys2Proof.Laws.Reads.Statement (.atomFmin h x) := by
  intro _ _ hf _; cases hf
  exact reads (by decide) (by decide) (by decide) (congrArg (Option.map (Instr.atomFmin h)) x.read_body)

theorem Sys2Proof.Laws.Reads.atomFmax (h : Hdr) (x : AtomArgs) : Sys2Proof.Laws.Reads.Statement (.atomFmax h x) := by
  intro _ _ hf _; cases hf
  exact reads (by decide) (by decide) (by decide) (congrArg (Option.map (Instr.atomFmax h)) x.read_body)

theorem Sys2Proof.Laws.Reads.atomcas (h : Hdr) (x : AtomArgs) : Sys2Proof.Laws.Reads.Statement (.atomcas h x) := by
  intro _ _ hf _; cases hf
  exact reads (by decide) (by decide) (by decide) (congrArg (Option.map (Instr.atomcas h)) x.read_body)

theorem Sys2Proof.Laws.Reads.red (h : Hdr) (x : RedArgs) : Sys2Proof.Laws.Reads.Statement (.red h x) := by
  intro _ _ hf _; cases hf
  exact reads (by decide) (by decide) (by decide) (congrArg (Option.map (Instr.red h)) x.read_body)

theorem Sys2Proof.Laws.Reads.atombInc (h : Hdr) (x : AtombArgs) : Sys2Proof.Laws.Reads.Statement (.atombInc h x) := by
  intro _ _ hf _; cases hf
  exact reads (by decide) (by decide) (by decide) (congrArg (Option.map (Instr.atombInc h)) x.read_body)

theorem Sys2Proof.Laws.Reads.atombDec (h : Hdr) (x : AtombArgs) : Sys2Proof.Laws.Reads.Statement (.atombDec h x) := by
  intro _ _ hf _; cases hf
  exact reads (by decide) (by decide) (by decide) (congrArg (Option.map (Instr.atombDec h)) x.read_body)

theorem Sys2Proof.Laws.Reads.inspT (h : Hdr) (x : InspArgs) : Sys2Proof.Laws.Reads.Statement (.inspT h x) := by
  intro _ _ hf _; cases hf
  exact reads (by decide) (by decide) (by decide) (congrArg (Option.map (Instr.inspT h)) x.read_body)

theorem Sys2Proof.Laws.Reads.inspG (h : Hdr) (x : InspArgs) : Sys2Proof.Laws.Reads.Statement (.inspG h x) := by
  intro _ _ hf _; cases hf
  exact reads (by decide) (by decide) (by decide) (congrArg (Option.map (Instr.inspG h)) x.read_body)

theorem Sys2Proof.Laws.Reads.inspB (h : Hdr) (x : InspArgs) : Sys2Proof.Laws.Reads.Statement (.inspB h x) := by
  intro _ _ hf _; cases hf
  exact reads (by decide) (by decide) (by decide) (congrArg (Option.map (Instr.inspB h)) x.read_body)

theorem Sys2Proof.Laws.Reads.inspA (h : Hdr) (x : InspRangeArgs) : Sys2Proof.Laws.Reads.Statement (.inspA h x) := by
  intro _ _ hf _; cases hf
  exact reads (by decide) (by decide) (by decide) (congrArg (Option.map (Instr.inspA h)) x.read_body)

theorem Sys2Proof.Laws.Reads.inspS (h : Hdr) (x : DstArgs) : Sys2Proof.Laws.Reads.Statement (.inspS h x) := by
  intro _ _ hf _; cases hf
  exact reads (by decide) (by decide) (by decide) (congrArg (Option.map (Instr.inspS h)) x.read_body)

theorem Sys2Proof.Laws.Reads.monitor (h : Hdr) (x : MonitorArgs) : Sys2Proof.Laws.Reads.Statement (.monitor h x) := by
  intro _ _ hf _; cases hf
  exact reads (by decide) (by decide) (by decide) (congrArg (Option.map (Instr.monitor h)) x.read_body)

theorem Sys2Proof.Laws.Reads.mwait (h : Hdr) (x : MovArgs) : Sys2Proof.Laws.Reads.Statement (.mwait h x) := by
  intro _ _ hf _; cases hf
  exact reads (by decide) (by decide) (by decide) (congrArg (Option.map (Instr.mwait h)) x.read_body)

theorem Sys2Proof.Laws.Reads.barinit (h : Hdr) (x : BarinitArgs) : Sys2Proof.Laws.Reads.Statement (.barinit h x) := by
  intro _ _ hf _; cases hf
  exact reads (by decide) (by decide) (by decide) (congrArg (Option.map (Instr.barinit h)) x.read_body)

theorem Sys2Proof.Laws.Reads.bara (h : Hdr) (x : BaraArgs) : Sys2Proof.Laws.Reads.Statement (.bara h x) := by
  intro _ _ hf _; cases hf
  exact reads (by decide) (by decide) (by decide) (congrArg (Option.map (Instr.bara h)) x.read_body)

theorem Sys2Proof.Laws.Reads.barw (h : Hdr) (x : BarwArgs) : Sys2Proof.Laws.Reads.Statement (.barw h x) := by
  intro _ _ hf _; cases hf
  exact reads (by decide) (by decide) (by decide) (congrArg (Option.map (Instr.barw h)) x.read_body)

theorem Sys2Proof.Laws.Reads.elide (h : Hdr) (x : ElideArgs) : Sys2Proof.Laws.Reads.Statement (.elide h x) := by
  intro _ _ hf _; cases hf
  exact reads (by decide) (by decide) (by decide) (congrArg (Option.map (Instr.elide h)) x.read_body)

theorem Sys2Proof.Laws.Reads.elend (h : Hdr) : Sys2Proof.Laws.Reads.Statement (.elend h) := by
  intro _ _ hf _; cases hf
  exact reads (by decide) (by decide) (by decide) (rfl)

theorem Sys2Proof.Laws.Reads.copy (h : Hdr) (x : CopyArgs) : Sys2Proof.Laws.Reads.Statement (.copy h x) := by
  intro _ _ hf _; cases hf
  exact reads (by decide) (by decide) (by decide) (congrArg (Option.map (Instr.copy h)) x.read_body)

theorem Sys2Proof.Laws.Reads.kick (h : Hdr) (x : KickArgs) : Sys2Proof.Laws.Reads.Statement (.kick h x) := by
  intro _ _ hf _; cases hf
  exact reads (by decide) (by decide) (by decide) (congrArg (Option.map (Instr.kick h)) x.read_body)

theorem Sys2Proof.Laws.Reads.tileh (h : Hdr) (x : TilehArgs) : Sys2Proof.Laws.Reads.Statement (.tileh h x) := by
  intro _ _ hf _; cases hf
  exact reads (by decide) (by decide) (by decide) (congrArg (Option.map (Instr.tileh h)) x.read_body)

theorem Sys2Proof.Laws.Reads.tilef (h : Hdr) (x : TilefArgs) : Sys2Proof.Laws.Reads.Statement (.tilef h x) := by
  intro _ _ hf _; cases hf
  exact reads (by decide) (by decide) (by decide) (congrArg (Option.map (Instr.tilef h)) x.read_body)

theorem Sys2Proof.Laws.Reads.cwait (h : Hdr) (x : Pair3Args) : Sys2Proof.Laws.Reads.Statement (.cwait h x) := by
  intro _ _ hf _; cases hf
  exact reads (by decide) (by decide) (by decide) (congrArg (Option.map (Instr.cwait h)) x.read_body)

theorem Sys2Proof.Laws.Reads.fabxWr (h : Hdr) (x : FabxArgs) : Sys2Proof.Laws.Reads.Statement (.fabxWr h x) := by
  intro _ _ hf _; cases hf
  exact reads (by decide) (by decide) (by decide) (by simp [readInstr, FabxArgs.read_body, FabxArgs.kind_body])

theorem Sys2Proof.Laws.Reads.fabxRed (h : Hdr) (x : FabxArgs) : Sys2Proof.Laws.Reads.Statement (.fabxRed h x) := by
  intro _ _ hf _; cases hf
  exact reads (by decide) (by decide) (by decide) (by simp [readInstr, FabxArgs.read_body, FabxArgs.kind_body])

theorem Sys2Proof.Laws.Reads.mma (h : Hdr) (x : MmaArgs) : Sys2Proof.Laws.Reads.Statement (.mma h x) := by
  intro _ _ hf _; cases hf
  exact reads (by decide) (by decide) (by decide) (congrArg (Option.map (Instr.mma h)) x.read_body)

theorem Sys2Proof.Laws.Reads.mloadb (h : Hdr) (x : MloadbArgs) : Sys2Proof.Laws.Reads.Statement (.mloadb h x) := by
  intro _ _ hf _; cases hf
  exact reads (by decide) (by decide) (by decide) (congrArg (Option.map (Instr.mloadb h)) x.read_body)

theorem Sys2Proof.Laws.Reads.mread (h : Hdr) (x : AccArgs) : Sys2Proof.Laws.Reads.Statement (.mread h x) := by
  intro _ _ hf _; cases hf
  exact reads (by decide) (by decide) (by decide) (congrArg (Option.map (Instr.mread h)) x.read_body)

theorem Sys2Proof.Laws.Reads.mwrite (h : Hdr) (x : AccArgs) : Sys2Proof.Laws.Reads.Statement (.mwrite h x) := by
  intro _ _ hf _; cases hf
  exact reads (by decide) (by decide) (by decide) (congrArg (Option.map (Instr.mwrite h)) x.read_body)

theorem Sys2Proof.Laws.Reads.mzero (h : Hdr) (x : MzeroArgs) : Sys2Proof.Laws.Reads.Statement (.mzero h x) := by
  intro _ _ hf _; cases hf
  exact reads (by decide) (by decide) (by decide) (congrArg (Option.map (Instr.mzero h)) x.read_body)

theorem Sys2Proof.Laws.Reads.qput (h : Hdr) (x : QputArgs) : Sys2Proof.Laws.Reads.Statement (.qput h x) := by
  intro _ _ hf _; cases hf
  exact reads (by decide) (by decide) (by decide) (congrArg (Option.map (Instr.qput h)) x.read_body)

theorem Sys2Proof.Laws.Reads.qget (h : Hdr) (x : QgetArgs) : Sys2Proof.Laws.Reads.Statement (.qget h x) := by
  intro _ _ hf _; cases hf
  exact reads (by decide) (by decide) (by decide) (congrArg (Option.map (Instr.qget h)) x.read_body)

theorem Sys2Proof.Laws.Reads.qcount (h : Hdr) (x : QcountArgs) : Sys2Proof.Laws.Reads.Statement (.qcount h x) := by
  intro _ _ hf _; cases hf
  exact reads (by decide) (by decide) (by decide) (congrArg (Option.map (Instr.qcount h)) x.read_body)

theorem Sys2Proof.Laws.Reads.msend (h : Hdr) (x : MsendArgs) : Sys2Proof.Laws.Reads.Statement (.msend h x) := by
  intro _ _ hf _; cases hf
  exact reads (by decide) (by decide) (by decide) (congrArg (Option.map (Instr.msend h)) x.read_body)

theorem Sys2Proof.Laws.Reads.mpost (h : Hdr) (x : MpostArgs) : Sys2Proof.Laws.Reads.Statement (.mpost h x) := by
  intro _ _ hf _; cases hf
  exact reads (by decide) (by decide) (by decide) (congrArg (Option.map (Instr.mpost h)) x.read_body)

theorem Sys2Proof.Laws.Reads.mtest (h : Hdr) (x : MtestArgs) : Sys2Proof.Laws.Reads.Statement (.mtest h x) := by
  intro _ _ hf _; cases hf
  exact reads (by decide) (by decide) (by decide) (congrArg (Option.map (Instr.mtest h)) x.read_body)

theorem Sys2Proof.Laws.Reads.jspawn (h : Hdr) (x : JspawnArgs) : Sys2Proof.Laws.Reads.Statement (.jspawn h x) := by
  intro _ _ hf _; cases hf
  exact reads (by decide) (by decide) (by decide) (congrArg (Option.map (Instr.jspawn h)) x.read_body)

theorem Sys2Proof.Laws.Reads.jnext (h : Hdr) (x : DstPairArgs) : Sys2Proof.Laws.Reads.Statement (.jnext h x) := by
  intro _ _ hf _; cases hf
  exact reads (by decide) (by decide) (by decide) (congrArg (Option.map (Instr.jnext h)) x.read_body)

theorem Sys2Proof.Laws.Reads.posti (h : Hdr) (x : PostiArgs) : Sys2Proof.Laws.Reads.Statement (.posti h x) := by
  intro _ _ hf _; cases hf
  exact reads (by decide) (by decide) (by decide) (congrArg (Option.map (Instr.posti h)) x.read_body)

theorem Sys2Proof.Laws.Reads.tryAlt (h : Hdr) (x : TryArgs) : Sys2Proof.Laws.Reads.Statement (.tryAlt h x) := by
  intro _ _ hf _; cases hf
  exact reads (by decide) (by decide) (by decide) (congrArg (Option.map (Instr.tryAlt h)) x.read_body)

theorem Sys2Proof.Laws.Reads.fail (h : Hdr) : Sys2Proof.Laws.Reads.Statement (.fail h) := by
  intro _ _ hf _; cases hf
  exact reads (by decide) (by decide) (by decide) (rfl)

theorem Sys2Proof.Laws.Reads.cut (h : Hdr) (x : OneArgs) : Sys2Proof.Laws.Reads.Statement (.cut h x) := by
  intro _ _ hf _; cases hf
  exact reads (by decide) (by decide) (by decide) (congrArg (Option.map (Instr.cut h)) x.read_body)

theorem Sys2Proof.Laws.Reads.mark (h : Hdr) (x : DstArgs) : Sys2Proof.Laws.Reads.Statement (.mark h x) := by
  intro _ _ hf _; cases hf
  exact reads (by decide) (by decide) (by decide) (congrArg (Option.map (Instr.mark h)) x.read_body)

theorem Sys2Proof.Laws.Reads.steal (h : Hdr) (x : DstArgs) : Sys2Proof.Laws.Reads.Statement (.steal h x) := by
  intro _ _ hf _; cases hf
  exact reads (by decide) (by decide) (by decide) (congrArg (Option.map (Instr.steal h)) x.read_body)

theorem Sys2Proof.Laws.Reads.trailw (h : Hdr) (x : TrailwArgs) : Sys2Proof.Laws.Reads.Statement (.trailw h x) := by
  intro _ _ hf _; cases hf
  exact reads (by decide) (by decide) (by decide) (congrArg (Option.map (Instr.trailw h)) x.read_body)

theorem Sys2Proof.Laws.Reads.fmtset (h : Hdr) (x : FmtsetArgs) : Sys2Proof.Laws.Reads.Statement (.fmtset h x) := by
  intro _ _ hf _; cases hf
  exact reads (by decide) (by decide) (by decide) (congrArg (Option.map (Instr.fmtset h)) x.read_body)

theorem Sys2Proof.Laws.Reads.fmtget (h : Hdr) (x : FmtgetArgs) : Sys2Proof.Laws.Reads.Statement (.fmtget h x) := by
  intro _ _ hf _; cases hf
  exact reads (by decide) (by decide) (by decide) (congrArg (Option.map (Instr.fmtget h)) x.read_body)

theorem Sys2Proof.Laws.Reads.movs (h : Hdr) (x : SpecArgs) : Sys2Proof.Laws.Reads.Statement (.movs h x) := by
  intro _ _ hf hok; cases hf
  refine reads (by decide) (by decide) (by decide) ?_
  simp only [Instr.fieldsOk, Bool.and_eq_true, bne_iff_ne, ne_eq, BitVec.toNat_eq, BitVec.toNat_ofNat] at hok
  simp only [readInstr, x.read_body, Option.bind_eq_bind, Option.bind_some, Option.pure_def]
  split <;> simp_all

theorem Sys2Proof.Laws.Reads.movsCycl (h : Hdr) (d : Reg) : Sys2Proof.Laws.Reads.Statement (.movsCycl h d) := by
  intro _ _ hf _; cases hf
  exact reads (by decide) (by decide) (by decide) (by simp [readInstr, SpecArgs.read_body])

theorem Sys2Proof.Laws.Reads.movsCych (h : Hdr) (d : Reg) : Sys2Proof.Laws.Reads.Statement (.movsCych h d) := by
  intro _ _ hf _; cases hf
  exact reads (by decide) (by decide) (by decide) (by simp [readInstr, SpecArgs.read_body])

theorem Sys2Proof.Laws.Reads.sets (h : Hdr) (x : SpecArgs) : Sys2Proof.Laws.Reads.Statement (.sets h x) := by
  intro _ _ hf hok; cases hf
  refine reads (by decide) (by decide) (by decide) ?_
  simp only [Instr.fieldsOk, Bool.and_eq_true, bne_iff_ne, ne_eq, BitVec.toNat_eq, BitVec.toNat_ofNat] at hok
  simp only [readInstr, x.read_body, Option.bind_eq_bind, Option.bind_some, Option.pure_def]
  split <;> simp_all

theorem Sys2Proof.Laws.Reads.setsTrb (h : Hdr) (d : Reg) : Sys2Proof.Laws.Reads.Statement (.setsTrb h d) := by
  intro _ _ hf _; cases hf
  exact reads (by decide) (by decide) (by decide) (by simp [readInstr, SpecArgs.read_body])

theorem Sys2Proof.Laws.Reads.setsFlg (h : Hdr) (d : Reg) : Sys2Proof.Laws.Reads.Statement (.setsFlg h d) := by
  intro _ _ hf _; cases hf
  exact reads (by decide) (by decide) (by decide) (by simp [readInstr, SpecArgs.read_body])

theorem Sys2Proof.Laws.Reads.setsFrm (h : Hdr) (d : Reg) : Sys2Proof.Laws.Reads.Statement (.setsFrm h d) := by
  intro _ _ hf _; cases hf
  exact reads (by decide) (by decide) (by decide) (by simp [readInstr, SpecArgs.read_body])

theorem Sys2Proof.Laws.Reads.inspTargetCut (insp : Nat) (thread : Nat) : Sys2Proof.Laws.Reads.Statement (.inspTargetCut insp thread) := by
  intro _ _ hf; cases hf

theorem Sys2Proof.Laws.Reads.inspComplete (insp : Nat) : Sys2Proof.Laws.Reads.Statement (.inspComplete insp) := by
  intro _ _ hf; cases hf

theorem Sys2Proof.Laws.Reads.elideSectionFail (thread : Nat) (reason : Nat) : Sys2Proof.Laws.Reads.Statement (.elideSectionFail thread reason) := by
  intro _ _ hf; cases hf

theorem Sys2Proof.Laws.Reads.asyncFaultDeliver (thread : Nat) : Sys2Proof.Laws.Reads.Statement (.asyncFaultDeliver thread) := by
  intro _ _ hf; cases hf

theorem Sys2Proof.Laws.Reads.longLatencyComplete (thread : Nat) (order : Nat) : Sys2Proof.Laws.Reads.Statement (.longLatencyComplete thread order) := by
  intro _ _ hf; cases hf

theorem Sys2Proof.Laws.Reads.loadBind (thread : Nat) (order : Nat) : Sys2Proof.Laws.Reads.Statement (.loadBind thread order) := by
  intro _ _ hf; cases hf

theorem Sys2Proof.Laws.Reads.storeCheckPass (thread : Nat) : Sys2Proof.Laws.Reads.Statement (.storeCheckPass thread) := by
  intro _ _ hf; cases hf

theorem Sys2Proof.Laws.Reads.psqEntryDrain (thread : Nat) (seq : Nat) : Sys2Proof.Laws.Reads.Statement (.psqEntryDrain thread seq) := by
  intro _ _ hf; cases hf

theorem Sys2Proof.Laws.Reads.drainAgeExpiry (thread : Nat) (seq : Nat) : Sys2Proof.Laws.Reads.Statement (.drainAgeExpiry thread seq) := by
  intro _ _ hf; cases hf

theorem Sys2Proof.Laws.Reads.writeThroughPerform (core : Nat) : Sys2Proof.Laws.Reads.Statement (.writeThroughPerform core) := by
  intro _ _ hf; cases hf

theorem Sys2Proof.Laws.Reads.mergeDemand (core : Nat) (line : Nat) : Sys2Proof.Laws.Reads.Statement (.mergeDemand core line) := by
  intro _ _ hf; cases hf

theorem Sys2Proof.Laws.Reads.mergeReceive (core : Nat) (line : Nat) : Sys2Proof.Laws.Reads.Statement (.mergeReceive core line) := by
  intro _ _ hf; cases hf

theorem Sys2Proof.Laws.Reads.mirrorPropagate (update : Nat) (die : Nat) : Sys2Proof.Laws.Reads.Statement (.mirrorPropagate update die) := by
  intro _ _ hf; cases hf

theorem Sys2Proof.Laws.Reads.mirrorReplicaAck (update : Nat) (die : Nat) : Sys2Proof.Laws.Reads.Statement (.mirrorReplicaAck update die) := by
  intro _ _ hf; cases hf

theorem Sys2Proof.Laws.Reads.translationWalkEnd (walk : Nat) : Sys2Proof.Laws.Reads.Statement (.translationWalkEnd walk) := by
  intro _ _ hf; cases hf

theorem Sys2Proof.Laws.Reads.parkedAccessResolved (thread : Nat) (installed : Bool) : Sys2Proof.Laws.Reads.Statement (.parkedAccessResolved thread installed) := by
  intro _ _ hf; cases hf

theorem Sys2Proof.Laws.Reads.unscrubbedClear (page : Nat) : Sys2Proof.Laws.Reads.Statement (.unscrubbedClear page) := by
  intro _ _ hf; cases hf

theorem Sys2Proof.Laws.Reads.watchLossWake (core : Nat) (line : Nat) : Sys2Proof.Laws.Reads.Statement (.watchLossWake core line) := by
  intro _ _ hf; cases hf

theorem Sys2Proof.Laws.Reads.mwaitTimeout (thread : Nat) : Sys2Proof.Laws.Reads.Statement (.mwaitTimeout thread) := by
  intro _ _ hf; cases hf

theorem Sys2Proof.Laws.Reads.sleepExpiry (thread : Nat) : Sys2Proof.Laws.Reads.Statement (.sleepExpiry thread) := by
  intro _ _ hf; cases hf

theorem Sys2Proof.Laws.Reads.yieldExpiry (thread : Nat) : Sys2Proof.Laws.Reads.Statement (.yieldExpiry thread) := by
  intro _ _ hf; cases hf

theorem Sys2Proof.Laws.Reads.copyBlock (req : Nat) (block : Nat) : Sys2Proof.Laws.Reads.Statement (.copyBlock req block) := by
  intro _ _ hf; cases hf

theorem Sys2Proof.Laws.Reads.requestComplete (req : Nat) : Sys2Proof.Laws.Reads.Statement (.requestComplete req) := by
  intro _ _ hf; cases hf

theorem Sys2Proof.Laws.Reads.kickItemComplete (req : Nat) (item : Nat) : Sys2Proof.Laws.Reads.Statement (.kickItemComplete req item) := by
  intro _ _ hf; cases hf

theorem Sys2Proof.Laws.Reads.mloadbComplete (req : Nat) : Sys2Proof.Laws.Reads.Statement (.mloadbComplete req) := by
  intro _ _ hf; cases hf

theorem Sys2Proof.Laws.Reads.mmaKBlock (req : Nat) : Sys2Proof.Laws.Reads.Statement (.mmaKBlock req) := by
  intro _ _ hf; cases hf

theorem Sys2Proof.Laws.Reads.mmaComplete (req : Nat) : Sys2Proof.Laws.Reads.Statement (.mmaComplete req) := by
  intro _ _ hf; cases hf

theorem Sys2Proof.Laws.Reads.fmtsetComplete (req : Nat) (core : Option Nat) : Sys2Proof.Laws.Reads.Statement (.fmtsetComplete req core) := by
  intro _ _ hf; cases hf

theorem Sys2Proof.Laws.Reads.messageArrival (msg : Nat) : Sys2Proof.Laws.Reads.Statement (.messageArrival msg) := by
  intro _ _ hf; cases hf

theorem Sys2Proof.Laws.Reads.msendAnswer (msg : Nat) : Sys2Proof.Laws.Reads.Statement (.msendAnswer msg) := by
  intro _ _ hf; cases hf

theorem Sys2Proof.Laws.Reads.reqNackReceive (link : Nat) (entry : Nat) : Sys2Proof.Laws.Reads.Statement (.reqNackReceive link entry) := by
  intro _ _ hf; cases hf

theorem Sys2Proof.Laws.Reads.backoffExpiry (link : Nat) : Sys2Proof.Laws.Reads.Statement (.backoffExpiry link) := by
  intro _ _ hf; cases hf

theorem Sys2Proof.Laws.Reads.causewayFrameReceive (conn : Nat) (frame : CwFrame) : Sys2Proof.Laws.Reads.Statement (.causewayFrameReceive conn frame) := by
  intro _ _ hf; cases hf

theorem Sys2Proof.Laws.Reads.causewayAckReceive (conn : Nat) (ackseq : Nat) : Sys2Proof.Laws.Reads.Statement (.causewayAckReceive conn ackseq) := by
  intro _ _ hf; cases hf

theorem Sys2Proof.Laws.Reads.causewayResendTimeout (conn : Nat) : Sys2Proof.Laws.Reads.Statement (.causewayResendTimeout conn) := by
  intro _ _ hf; cases hf

theorem Sys2Proof.Laws.Reads.connectionOpen (part : Nat) (window : Nat) (entry : BitVec 256) : Sys2Proof.Laws.Reads.Statement (.connectionOpen part window entry) := by
  intro _ _ hf; cases hf

theorem Sys2Proof.Laws.Reads.mergedResultDeliver (part : Nat) (window : Nat) : Sys2Proof.Laws.Reads.Statement (.mergedResultDeliver part window) := by
  intro _ _ hf; cases hf

theorem Sys2Proof.Laws.Reads.reductionAck (part : Nat) (window : Nat) : Sys2Proof.Laws.Reads.Statement (.reductionAck part window) := by
  intro _ _ hf; cases hf

theorem Sys2Proof.Laws.Reads.windowAbort (part : Nat) (window : Nat) : Sys2Proof.Laws.Reads.Statement (.windowAbort part window) := by
  intro _ _ hf; cases hf

theorem Sys2Proof.Laws.Reads.cancelTakeEffect (thread : Nat) : Sys2Proof.Laws.Reads.Statement (.cancelTakeEffect thread) := by
  intro _ _ hf; cases hf

theorem Sys2Proof.Laws.Reads.cardAdmit (isle : Nat) : Sys2Proof.Laws.Reads.Statement (.cardAdmit isle) := by
  intro _ _ hf; cases hf

theorem Sys2Proof.Laws.Reads.jobWaitReevaluate (isle : Nat) : Sys2Proof.Laws.Reads.Statement (.jobWaitReevaluate isle) := by
  intro _ _ hf; cases hf

theorem Sys2Proof.Laws.Reads.jobStart (job : Nat) : Sys2Proof.Laws.Reads.Statement (.jobStart job) := by
  intro _ _ hf; cases hf

theorem Sys2Proof.Laws.Reads.gangPlace (job : Nat) (core : Nat) (slot : Nat) : Sys2Proof.Laws.Reads.Statement (.gangPlace job core slot) := by
  intro _ _ hf; cases hf

theorem Sys2Proof.Laws.Reads.bandPlace (job : Nat) (spots : List (Nat × Nat)) : Sys2Proof.Laws.Reads.Statement (.bandPlace job spots) := by
  intro _ _ hf; cases hf

theorem Sys2Proof.Laws.Reads.gangRetire (gang : Nat) : Sys2Proof.Laws.Reads.Statement (.gangRetire gang) := by
  intro _ _ hf; cases hf

theorem Sys2Proof.Laws.Reads.jobSinkWrite (job : Nat) : Sys2Proof.Laws.Reads.Statement (.jobSinkWrite job) := by
  intro _ _ hf; cases hf

theorem Sys2Proof.Laws.Reads.budgetPeriodRefill (isle : Nat) : Sys2Proof.Laws.Reads.Statement (.budgetPeriodRefill isle) := by
  intro _ _ hf; cases hf

theorem Sys2Proof.Laws.Reads.timeSliceExpiry (part : Nat) (away : Bool) : Sys2Proof.Laws.Reads.Statement (.timeSliceExpiry part away) := by
  intro _ _ hf; cases hf

theorem Sys2Proof.Laws.Reads.preempt (part : Nat) (away : Bool) : Sys2Proof.Laws.Reads.Statement (.preempt part away) := by
  intro _ _ hf; cases hf

theorem Sys2Proof.Laws.Reads.preemptStep3Bound (part : Nat) : Sys2Proof.Laws.Reads.Statement (.preemptStep3Bound part) := by
  intro _ _ hf; cases hf

theorem Sys2Proof.Laws.Reads.resume (part : Nat) : Sys2Proof.Laws.Reads.Statement (.resume part) := by
  intro _ _ hf; cases hf

theorem Sys2Proof.Laws.Reads.waitForWalk (isle : Nat) : Sys2Proof.Laws.Reads.Statement (.waitForWalk isle) := by
  intro _ _ hf; cases hf

theorem Sys2Proof.Laws.Reads.breakWait (thread : Nat) : Sys2Proof.Laws.Reads.Statement (.breakWait thread) := by
  intro _ _ hf; cases hf

theorem Sys2Proof.Laws.Reads.pagePurge (asid : Nat) (va : Nat) (pte : BitVec 64) : Sys2Proof.Laws.Reads.Statement (.pagePurge asid va pte) := by
  intro _ _ hf; cases hf

theorem Sys2Proof.Laws.Reads.remapRegister (part : Nat) (pair : RemapPair) : Sys2Proof.Laws.Reads.Statement (.remapRegister part pair) := by
  intro _ _ hf; cases hf

theorem Sys2Proof.Laws.Reads.keySlotLoad (slot : Nat) (blob : BitVec 512) : Sys2Proof.Laws.Reads.Statement (.keySlotLoad slot blob) := by
  intro _ _ hf; cases hf

theorem Sys2Proof.Laws.Reads.partitionCreate (part : Nat) (desc : BitVec 192) (pages : List Nat) : Sys2Proof.Laws.Reads.Statement (.partitionCreate part desc pages) := by
  intro _ _ hf; cases hf

theorem Sys2Proof.Laws.Reads.partitionDestroy (part : Nat) : Sys2Proof.Laws.Reads.Statement (.partitionDestroy part) := by
  intro _ _ hf; cases hf

theorem Sys2Proof.Laws.Reads.replicaHoldSet (part : Nat) (die : Nat) (line : Option (Nat × Nat)) (atStall : Bool) : Sys2Proof.Laws.Reads.Statement (.replicaHoldSet part die line atStall) := by
  intro _ _ hf; cases hf

theorem Sys2Proof.Laws.Reads.replicaHoldRelease (part : Nat) (die : Nat) : Sys2Proof.Laws.Reads.Statement (.replicaHoldRelease part die) := by
  intro _ _ hf; cases hf

theorem Sys2Proof.Laws.Reads.debugStop (gang : Nat) : Sys2Proof.Laws.Reads.Statement (.debugStop gang) := by
  intro _ _ hf; cases hf

theorem Sys2Proof.Laws.Reads.singleStep (gang : Nat) (pc : Addr56) : Sys2Proof.Laws.Reads.Statement (.singleStep gang pc) := by
  intro _ _ hf; cases hf

theorem Sys2Proof.Laws.Reads.packageReset (boot : BootInput) : Sys2Proof.Laws.Reads.Statement (.packageReset boot) := by
  intro _ _ hf; cases hf

theorem Sys2Proof.Laws.Reads.bringUpEnd : Sys2Proof.Laws.Reads.Statement (.bringUpEnd) := by
  intro _ _ hf; cases hf

theorem Sys2Proof.Laws.Reads.islePowerChange (isle : Nat) (pstate : Nat) : Sys2Proof.Laws.Reads.Statement (.islePowerChange isle pstate) := by
  intro _ _ hf; cases hf

theorem Sys2Proof.Laws.Reads.dieOvertemp (die : Nat) : Sys2Proof.Laws.Reads.Statement (.dieOvertemp die) := by
  intro _ _ hf; cases hf

theorem Sys2Proof.Laws.Reads.dramOvertemp (isle : Nat) : Sys2Proof.Laws.Reads.Statement (.dramOvertemp isle) := by
  intro _ _ hf; cases hf

theorem Sys2Proof.Laws.Reads.telemetryRefresh (isle : Nat) : Sys2Proof.Laws.Reads.Statement (.telemetryRefresh isle) := by
  intro _ _ hf; cases hf

theorem Sys2Proof.Laws.Reads.usageRecordEmit (part : Nat) (kind : Nat) : Sys2Proof.Laws.Reads.Statement (.usageRecordEmit part kind) := by
  intro _ _ hf; cases hf

theorem Sys2Proof.Laws.Reads.scrub (target : ScrubTarget) (result : EccResult) : Sys2Proof.Laws.Reads.Statement (.scrub target result) := by
  intro _ _ hf; cases hf

theorem Sys2Proof.Laws.Reads.dieWarmReset (die : Nat) (stage : DieStage) : Sys2Proof.Laws.Reads.Statement (.dieWarmReset die stage) := by
  intro _ _ hf; cases hf

theorem Sys2Proof.Laws.Reads.foreignProbeRefuse (receiver : FlitReceiver) (part : Nat) (source : Nat) (thread : Nat) (order : Nat) : Sys2Proof.Laws.Reads.Statement (.foreignProbeRefuse receiver part source thread order) := by
  intro _ _ hf; cases hf

theorem Sys2Proof.Laws.Reads.svcReply (thread : Nat) (value : Word) : Sys2Proof.Laws.Reads.Statement (.svcReply thread value) := by
  intro _ _ hf; cases hf

theorem Sys2Proof.Laws.Reads.stallingInstructionComplete (thread : Nat) : Sys2Proof.Laws.Reads.Statement (.stallingInstructionComplete thread) := by
  intro _ _ hf; cases hf

theorem Sys2Proof.Laws.Reads.debugRelease (gang : Nat) : Sys2Proof.Laws.Reads.Statement (.debugRelease gang) := by
  intro _ _ hf; cases hf

theorem Sys2Proof.Laws.Reads.debugStopEnable (gang : Nat) (on : Bool) : Sys2Proof.Laws.Reads.Statement (.debugStopEnable gang on) := by
  intro _ _ hf; cases hf

theorem Sys2Proof.Laws.Reads.debugStateWrite (gang : Nat) (write : DebugWrite) : Sys2Proof.Laws.Reads.Statement (.debugStateWrite gang write) := by
  intro _ _ hf; cases hf

theorem Sys2Proof.Laws.Reads.dieTempRecover (die : Nat) : Sys2Proof.Laws.Reads.Statement (.dieTempRecover die) := by
  intro _ _ hf; cases hf

theorem Sys2Proof.Laws.Reads.dramTempRecover (isle : Nat) : Sys2Proof.Laws.Reads.Statement (.dramTempRecover isle) := by
  intro _ _ hf; cases hf

theorem Sys2Proof.Laws.Reads.streamDescriptorWrite (part : Nat) (write : DescriptorWrite) : Sys2Proof.Laws.Reads.Statement (.streamDescriptorWrite part write) := by
  intro _ _ hf; cases hf

theorem Sys2Proof.Laws.Reads.runtimeThreadRegister (part : Nat) (threads : List Nat) (streams : List (Nat × Nat)) (principal : Nat) : Sys2Proof.Laws.Reads.Statement (.runtimeThreadRegister part threads streams principal) := by
  intro _ _ hf; cases hf

theorem Sys2Proof.Laws.Reads.pteInstall (asid : Nat) (va : Nat) (pte : BitVec 64) : Sys2Proof.Laws.Reads.Statement (.pteInstall asid va pte) := by
  intro _ _ hf; cases hf

theorem Sys2Proof.Laws.Reads.macsecKeyLoad (port : Nat) (keys : List MacsecKey) : Sys2Proof.Laws.Reads.Statement (.macsecKeyLoad port keys) := by
  intro _ _ hf; cases hf

theorem Sys2Proof.Laws.Reads.runtimeCardPlace (part : Nat) (vdev : Nat) (stream : Nat) (va : Nat) : Sys2Proof.Laws.Reads.Statement (.runtimeCardPlace part vdev stream va) := by
  intro _ _ hf; cases hf

end
end

