-- ==== Sys2Proof/Laws/Shapes.lean ====
section
/-! SUPPORT. The shapes of instructions that only compute: one register, a pair, a predicate, flags with them, and
long-latency work; for each, from the form of the meaning to the claim about its groups. -/

namespace Sys2Proof.Machine

theorem SameRest.refl (a : Thread) : SameRest a a :=
  ⟨rfl, rfl, rfl, rfl, rfl, rfl, rfl, rfl, rfl, rfl, rfl, rfl, rfl, rfl⟩

theorem SameRest.setReg (a : Thread) (r : Nat) (v : Word) : SameRest a (a.setReg r v) :=
  ⟨rfl, rfl, rfl, rfl, rfl, rfl, rfl, rfl, rfl, rfl, rfl, rfl, rfl, rfl⟩

theorem SameRest.raise (a : Thread) (n : Nat) : SameRest a (a.raise n) :=
  ⟨rfl, rfl, rfl, rfl, rfl, rfl, rfl, rfl, rfl, rfl, rfl, rfl, rfl, rfl⟩

theorem SameRest.setPred (a : Thread) (n : BitVec 3) (v : Bool) : SameRest a (a.setPred n v) := by
  constructor <;> simp

@[simp] theorem Thread.reg_raise (a : Thread) (n r : Nat) : (a.raise n).reg r = a.reg r := rfl

@[simp] theorem Thread.pred_raise (a : Thread) (n : Nat) (p : BitVec 3) : (a.raise n).pred p = a.pred p := rfl

@[simp] theorem Thread.pred_setReg (a : Thread) (r : Nat) (v : Word) (p : BitVec 3) : (a.setReg r v).pred p = a.pred p := rfl

@[simp] theorem Thread.pred_setPair (a : Thread) (r : Nat) (v : DWord) (p : BitVec 3) : (a.setPair r v).pred p = a.pred p := rfl

@[simp] theorem Thread.reg_setPred (a : Thread) (p : BitVec 3) (v : Bool) (r : Nat) : (a.setPred p v).reg r = a.reg r := by
  simp [Thread.reg]

/-- The parts of a thread that a value may be computed from. -/
def ReadsData {α : Type} (v : Thread → α) : Prop := ∀ a b, SameData a b → v b = v a

theorem ReadsData.const {α : Type} (x : α) : ReadsData fun _ => x := fun _ _ _ => rfl

theorem ReadsData.reg (r : Nat) : ReadsData fun a => a.reg r := fun _ _ h => Thread.reg_congr h.regs r

theorem ReadsData.pred (p : BitVec 3) : ReadsData fun a => a.pred p := fun _ _ h => Thread.pred_congr h.preds p

theorem ReadsData.preds : ReadsData fun a => a.preds := fun _ _ h => h.preds

theorem ReadsData.frm : ReadsData fun a => a.frm := fun _ _ h => h.rest.frm

theorem ReadsData.choice : ReadsData fun a => a.choice := fun _ _ h => h.rest.choice

theorem ReadsData.pair (r : Nat) : ReadsData fun a => a.pair r := fun a b h => by
  simp [Thread.pair, Thread.reg_congr h.regs]

theorem ReadsData.a32 (x : SrcA) : ReadsData fun a => a.a32 x := fun a b h => by
  cases x <;> simp [Thread.a32, Thread.reg_congr h.regs]

theorem ReadsData.b32 (x : SrcB) : ReadsData fun a => a.b32 x := fun a b h => by
  cases x <;> simp [Thread.b32, Thread.reg_congr h.regs]

theorem ReadsData.a64 (x : SrcA) : ReadsData fun a => a.a64 x := fun a b h => by
  cases x <;> simp [Thread.a64, ReadsData.pair _ _ _ h]

theorem ReadsData.b64 (x : SrcB) : ReadsData fun a => a.b64 x := fun a b h => by
  cases x <;> simp [Thread.b64, ReadsData.pair _ _ _ h]

theorem ReadsData.bFp64 (x : SrcB) : ReadsData fun a => a.bFp64 x := fun a b h => by
  cases x <;> simp [Thread.bFp64, ReadsData.pair _ _ _ h]

theorem ReadsData.map {α β : Type} {v : Thread → α} (h : ReadsData v) (f : α → β) : ReadsData fun a => f (v a) :=
  fun a b e => by simp only [h a b e]

theorem ReadsData.map₂ {α β γ : Type} {v : Thread → α} {u : Thread → β} (h : ReadsData v) (k : ReadsData u)
    (f : α → β → γ) : ReadsData fun a => f (v a) (u a) := fun a b e => by simp only [h a b e, k a b e]

theorem ReadsData.map₃ {α β γ δ : Type} {v : Thread → α} {u : Thread → β} {w : Thread → γ} (h : ReadsData v)
    (k : ReadsData u) (l : ReadsData w) (f : α → β → γ → δ) : ReadsData fun a => f (v a) (u a) (w a) :=
  fun a b e => by simp only [h a b e, k a b e, l a b e]

/-- The shared step of the shapes below. -/
theorem computes_of_effect {i : Instr} {f : Addr56 → State → Nat → LaneRes} {g : Thread → Thread}
    {w : Thread → Nat → Option Word} {fl : Thread → Nat} {p : Thread → BitVec 3 → Option Bool}
    {l : Thread → List LongKind} (hexec : ∀ s, exec i s = perThread i f s)
    (hf : ∀ s pc t, f pc s t = .ok (s.modThread t g))
    (hw : ReadsData w) (hfl : ReadsData fl) (hp : ReadsData p) (hl : ReadsData l)
    (he : ∀ b, Sparse.wf b.regs = true → Effect w fl p l g b) : Computes i w fl p l :=
  computesIf_of_effect (g := fun _ _ _ => g) hexec (fun _ s pc t _ _ => hf s pc t)
    (fun _ _ a b h => ⟨hw a b h, hfl a b h, hp a b h, hl a b h⟩) fun _ _ _ b hb => he b hb

theorem Effect.setReg {d : Nat} {v : Thread → Word} (b : Thread) (hb : Sparse.wf b.regs = true) :
    Effect (fun a => put d (v a)) (fun _ => 0) (fun _ => noPred) (fun _ => []) (fun a => a.setReg d (v a)) b where
  pc := rfl
  regs r := by
    simp only [Thread.reg_setReg _ _ _ _ hb, put]
    by_cases h : r = d <;> simp [h]
  flg := by simp
  preds n := by simp [noPred]
  longs := by simp
  rest := SameRest.setReg _ _ _

theorem Effect.flagged {d : Reg} {v : Thread → Flagged Word} (b : Thread) (hb : Sparse.wf b.regs = true) :
    Effect (fun a => put d.toNat (v a).val) (fun a => (v a).flags) (fun _ => noPred) (fun _ => [])
      (fun a => a.putFlagged d (v a)) b where
  pc := rfl
  regs r := by
    simp only [Thread.putFlagged, Thread.reg_raise, Thread.reg_setReg _ _ _ _ hb, put]
    by_cases h : r = d.toNat <;> simp [h]
  flg := by simp [Thread.putFlagged]
  preds n := by simp [noPred, Thread.putFlagged]
  longs := by simp [Thread.putFlagged]
  rest := (SameRest.setReg _ _ _).trans (SameRest.raise _ _)

theorem Effect.setPair {d : Reg} {v : Thread → DWord} (b : Thread) (hb : Sparse.wf b.regs = true) :
    Effect (fun a => putPair d (v a)) (fun _ => 0) (fun _ => noPred) (fun _ => []) (fun a => a.setPair d.toNat (v a)) b where
  pc := rfl
  regs r := by
    simp only [Thread.reg_setPair _ _ _ _ hb, putPair]
    by_cases h : r = d.toNat
    · simp [h]
    · by_cases h' : r = d.toNat + 1 <;> simp [h, h']
  flg := by simp
  preds n := by simp [noPred]
  longs := by simp
  rest := (SameRest.setReg _ _ _).trans (SameRest.setReg _ _ _)

theorem Effect.flaggedPair {d : Reg} {v : Thread → Flagged DWord} (b : Thread) (hb : Sparse.wf b.regs = true) :
    Effect (fun a => putPair d (v a).val) (fun a => (v a).flags) (fun _ => noPred) (fun _ => [])
      (fun a => a.putFlaggedPair d (v a)) b where
  pc := rfl
  regs r := by
    simp only [Thread.putFlaggedPair, Thread.reg_raise, Thread.reg_setPair _ _ _ _ hb, putPair]
    by_cases h : r = d.toNat
    · simp [h]
    · by_cases h' : r = d.toNat + 1 <;> simp [h, h']
  flg := by simp [Thread.putFlaggedPair]
  preds n := by simp [noPred, Thread.putFlaggedPair]
  longs := by simp [Thread.putFlaggedPair]
  rest := ((SameRest.setReg _ _ _).trans (SameRest.setReg _ _ _)).trans (SameRest.raise _ _)

theorem Effect.setPred {p : BitVec 3} {v : Thread → Bool} {f : Thread → Nat} (b : Thread) :
    Effect (fun _ => noReg) f (fun a => putPred p (v a)) (fun _ => []) (fun a => (a.setPred p (v a)).raise (f a)) b where
  pc := by simp
  regs r := by simp [noReg]
  flg := by simp
  preds n := by
    simp only [Thread.pred_raise, Thread.pred_setPred, putPred]
    by_cases h : n = p
    · subst h; by_cases h7 : n = 7#3 <;> simp [h7]
    · simp [h]
  longs := by simp
  rest := (SameRest.setPred _ _ _).trans (SameRest.raise _ _)

theorem Effect.none (b : Thread) :
    Effect (fun _ => noReg) (fun _ => 0) (fun _ => noPred) (fun _ => []) (fun a => a) b where
  pc := rfl
  regs r := by simp [noReg]
  flg := by simp
  preds n := by simp [noPred]
  longs := by simp
  rest := SameRest.refl _

theorem Effect.begin {pc : Addr56} {word : BitVec 96} {k : Thread → LongKind} (b : Thread) :
    Effect (fun _ => noReg) (fun _ => 0) (fun _ => noPred) (fun a => [k a]) (fun a => a.begin pc word (k a)) b where
  pc := rfl
  regs r := by simp [noReg, Thread.begin, Thread.reg]
  flg := by simp [Thread.begin]
  preds n := by simp [noPred, Thread.begin, Thread.pred]
  longs := by simp [Thread.begin]
  rest := ⟨rfl, rfl, rfl, rfl, rfl, rfl, rfl, rfl, rfl, rfl, rfl, rfl, rfl, rfl⟩

theorem writesReg_of {i : Instr} {d : Reg} {v : Thread → Word} (hv : ReadsData v)
    (h : ∀ s, exec i s = perThread i (threadOnly fun th => th.setReg d.toNat (v th)) s) : WritesReg i d v :=
  computes_of_effect h (fun _ _ _ => rfl) (hv.map _) (ReadsData.const _) (ReadsData.const _) (ReadsData.const _)
    fun b hb => Effect.setReg b hb

theorem writesRegFlags_of {i : Instr} {d : Reg} {v : Thread → Flagged Word} (hv : ReadsData v)
    (h : ∀ s, exec i s = perThread i (threadOnly fun th => th.putFlagged d (v th)) s) :
    WritesRegFlags i d (fun a => (v a).val) (fun a => (v a).flags) :=
  computes_of_effect h (fun _ _ _ => rfl) (hv.map fun x => put d.toNat x.val) (hv.map _) (ReadsData.const _)
    (ReadsData.const _) fun b hb => Effect.flagged b hb

theorem writesPair_of {i : Instr} {d : Reg} {v : Thread → DWord} (hv : ReadsData v)
    (h : ∀ s, exec i s = perThread i (threadOnly fun th => th.setPair d.toNat (v th)) s) : WritesPair i d v :=
  computes_of_effect h (fun _ _ _ => rfl) (hv.map _) (ReadsData.const _) (ReadsData.const _) (ReadsData.const _)
    fun b hb => Effect.setPair b hb

theorem writesPairFlags_of {i : Instr} {d : Reg} {v : Thread → Flagged DWord} (hv : ReadsData v)
    (h : ∀ s, exec i s = perThread i (threadOnly fun th => th.putFlaggedPair d (v th)) s) :
    WritesPairFlags i d (fun a => (v a).val) (fun a => (v a).flags) :=
  computes_of_effect h (fun _ _ _ => rfl) (hv.map fun x => putPair d x.val) (hv.map _) (ReadsData.const _)
    (ReadsData.const _) fun b hb => Effect.flaggedPair b hb

theorem writesPred_of {i : Instr} {p : BitVec 3} {v : Thread → Bool} {f : Thread → Nat} (hv : ReadsData v)
    (hf : ReadsData f)
    (h : ∀ s, exec i s = perThread i (threadOnly fun th => (th.setPred p (v th)).raise (f th)) s) :
    WritesPred i p v f :=
  computes_of_effect h (fun _ _ _ => rfl) (ReadsData.const _) hf (hv.map _) (ReadsData.const _)
    fun b _ => Effect.setPred b

theorem startsResult_of {i : Instr} {v : Thread → List (Nat × Word) × Nat} (hv : ReadsData v)
    (h : ∀ s, exec i s = perThread i (longResult v) s) :
    StartsResult i (fun a => (v a).1) (fun a => (v a).2) :=
  computesIf_of_effect (g := fun pc s _ a => a.begin pc s.issueWord (.result (v a).1 (v a).2)) h
    (fun s0 s pc t ha _ => by simp only [longResult, State.issueWord, ha.sched])
    (fun _ _ a b e => ⟨rfl, rfl, rfl, by simp only [hv a b e]⟩)
    (fun _ _ _ b _ => Effect.begin (k := fun a => .result (v a).1 (v a).2) b)

end Sys2Proof.Machine
end

