-- ==== Sys2Proof/Tests/Slice0.lean ====
section
/-! SUPPORT. Tests: words of the spec that decode to their instructions, ill-formed terms that WellFormed refuses, small
runs of one step, and a witness for the hypotheses of every statement. -/

section

open Sys2Proof Sys2Proof.Machine

set_option Elab.async false

/-! ## A small machine for the tests -/

/-- A card of 512 registers, one thread a gang, 1,024 private bytes, 64 KiB of scratchpad and code base 65,536. -/
def wCard : BitVec 512 := BitVec.ofNat 512 (1 + 2 ^ 320 + 2 ^ 333 + 64 * 2 ^ 339 + 16 * 2 ^ 346 + 64 * 2 ^ 359)

/-- Partition 0: isle 0, 16 KiB lent by each core, drain age 4,096, key slot 0. -/
def wPart : Partition := { Partition.reset with
  desc := BitVec.ofNat 192 (1 + 4 * 2 ^ 33 + 4 * 2 ^ 40 + 2 ^ 80 + 2 ^ 96)
  resident := true
  vdevs := [(0, { desc := 1#192, asid := 5, root := 0 })]
  streams := [(0, { desc := BitVec.ofNat 64 (1 + 16 * 2 ^ 32), queue := [], last := some 0, runtime := some 0 })] }

def wJob : Job := { fetchJob with card := wCard }

/-- An uncached page and a cacheable one, both readable, writable and executable, at VA 0x20000 and 0x30000. -/
def wPageU : DWord := BitVec.ofNat 64 (15 + 2 ^ 22 + 2 ^ 23 + 2 * 2 ^ 25)
def wPageC : DWord := BitVec.ofNat 64 (15 + 2 ^ 23 + 3 * 2 ^ 25)

def wMem : Mem := { State.reset.mem with
  tlb := [{ isle := 0, asid := 5, va := 0x20000, pte := wPageU }, { isle := 0, asid := 5, va := 0x30000, pte := wPageC }] }

/-- A thread with the given registers, its call stack at the top of its private memory and a handler. -/
def wThread (rs : Sparse 32) : Thread := { fetchThread with
  regs := rs, csp := 1024#32, hnd := 65536#64, choice := { fetchThread.choice with trl := 512#32 } }

/-- The latched group of thread 0 at the code base, with the word of an instruction. -/
def wIssue (i : Instr) : Issue := { core := 0, pc := 65536#56, word := (encode i).getD 0#96, members := [0] }

/-- The machine with one thread and that group latched. -/
def wState (i : Instr) (th : Thread) : State := { State.reset with
  parts := [(0, wPart)], jobs := [(0, wJob)], gangs := [(0, fetchGang)]
  bands := [(0, { job := 0, gangs := [0], pipes := [], piped := false })]
  threads := [(0, th)], mem := wMem, fw := { State.reset.fw with keys := [(0, 1#512)] }
  sched := { State.reset.sched with issue := some (wIssue i) } }

/-- The machine with one thread, for the steps of agents. -/
def eState (th : Thread) : State := wState (.nop plainHdr) th

/-- A group of one thread is ready with a well-formed instruction whose word is latched. -/
def singleOk (i : Instr) (s : State) (iss : Issue) (t : Nat) (th : Thread) : Bool :=
  Tab.wf s.threads && s.sched.issue == some iss && iss.members == [t] && s.thread t == some th && Sparse.wf th.regs
    && th.guard (headerOf iss.word) && (precheck s t th i).isNone && th.tokens.isEmpty && i.wf 512 && encode i == some iss.word

theorem single_of {i : Instr} {s : State} {iss : Issue} {t : Nat} {th : Thread} (h : singleOk i s iss t th = true) :
    Single i s iss t th := by
  simp only [singleOk, Bool.and_eq_true, beq_iff_eq, Option.isNone_iff_eq_none, List.isEmpty_iff] at h
  obtain ⟨⟨⟨⟨⟨⟨⟨⟨⟨h1, h2⟩, h3⟩, h4⟩, h5⟩, h6⟩, h7⟩, h8⟩, -⟩, -⟩ := h
  exact ⟨h1, h2, h3, h4, h5, h6, h7, by intro p hp; rw [h8] at hp; cases hp⟩

/-- A single thread that is ready is a ready group. -/
theorem ready_of_single {i : Instr} {s : State} {iss : Issue} {t : Nat} {th : Thread} (h : Single i s iss t th) :
    Ready i s iss :=
  ⟨h.latched, by rw [h.members]; simp, fun u hu => by
    rw [h.members, List.mem_singleton] at hu; subst hu
    exact ⟨th, h.thread, h.regs, fun _ => ⟨h.checks, h.tokens⟩⟩⟩

def deliverOk (s : State) (th : Thread) : Bool :=
  th.hold != .exited && th.longs.isEmpty && !th.choice.cancel && !s.bandStopped th && !th.faults.inh && th.hnd != 0#64

theorem deliverable_of {s : State} {th : Thread} (h : deliverOk s th = true) : Deliverable s th := by
  simp only [deliverOk, Bool.and_eq_true, bne_iff_ne, List.isEmpty_iff, Bool.not_eq_true'] at h
  exact ⟨h.1.1.1.1.1, h.1.1.1.1.2, h.1.1.1.2, h.1.1.2, h.1.2, h.2⟩

theorem only_thread {th a : Thread} {u : Nat} (h : Tab.get? [(0, th)] u = some a) : u = 0 ∧ a = th := by
  by_cases hu : u = 0
  · subst hu; simp [Tab.get?] at h; exact ⟨rfl, h.symm⟩
  · simp [Tab.get?, Ne.symm hu] at h

/-- Thread 0 of the small machine runs an instruction alone. -/
abbrev Alone (i : Instr) (th : Thread) : Prop := Single i (wState i th) (wIssue i) 0 th

/-- It does, and a fault of it would be delivered at once. -/
abbrev AloneOpen (i : Instr) (th : Thread) : Prop := Alone i th ∧ Deliverable (wState i th) th

theorem alone {i : Instr} {th : Thread} (h : singleOk i (wState i th) (wIssue i) 0 th = true) : Alone i th := single_of h

theorem aloneOpen {i : Instr} {th : Thread} (h : (singleOk i (wState i th) (wIssue i) 0 th && deliverOk (wState i th) th) = true) :
    AloneOpen i th := by
  rw [Bool.and_eq_true] at h; exact ⟨single_of h.1, deliverable_of h.2⟩

/-- Thread 0 of the small machine is a ready group of an instruction. -/
abbrev AloneReady (i : Instr) (th : Thread) : Prop := Ready i (wState i th) (wIssue i)

theorem aloneReady {i : Instr} {th : Thread} (h : singleOk i (wState i th) (wIssue i) 0 th = true) : AloneReady i th :=
  ready_of_single (alone h)

/-! ## Terms that WellFormed refuses, one for each check, in a kernel of 64 registers -/

/-- A well-formed term of each class of operands, of which the terms below each change one field. -/
theorem test_default_terms_are_well_formed : (([
    .brx plainHdr { b := 0#9 },
    .brt plainHdr { a := 0#9, off := 0#32, count := 1#11 },
    .sleep plainHdr { b := .imm 0#32 },
    .iret plainHdr { b := .imm 0#32 },
    .svc plainHdr { d := 0#9, n := 0#16 },
    .add plainHdr { ty := .s32, sat := false, d := 0#9, a := .zero, b := .imm 0#32 },
    .div plainHdr { ty := .s32, d := 0#9, a := .zero, b := .imm 0#32 },
    .and plainHdr { d := 0#9, a := .zero, b := .imm 0#32 },
    .mulh plainHdr { ty := .s32, d := 0#9, a := 0#9, b := .imm 0#32 },
    .mad plainHdr { ty := .s32, sat := false, d := 0#9, a := 0#9, b := .imm 0#32 },
    .madw plainHdr { ty := .s32, d := 0#9, a := 0#9, b := .imm 0#32 },
    .add64 plainHdr { d := 0#9, a := 0#9, b := .imm 0#32 },
    .abs plainHdr { sat := false, d := 0#9, b := 0#9 },
    .clz plainHdr { d := 0#9, b := 0#9 },
    .lea plainHdr { ty := .s32, d := 0#9, a := .zero, b := 0#9, sh := 0#5 },
    .prmb plainHdr { d := 0#9, a := .zero, b := 0#9, pick := 0#16 },
    .sel plainHdr { d := 0#9, a := .zero, b := 0#9, p := 0#3, neg := false },
    .mov plainHdr { d := 0#9, b := .imm 0#32 },
    .icmp plainHdr { cc := .eq, ty := .s32, p := 0#3, a := .zero, b := .imm 0#32 },
    .p2g plainHdr { d := 0#9 },
    .jnext plainHdr { d := 0#9 },
    .g2p plainHdr { b := 0#9, mask := 0#7 },
    .shflIdx plainHdr { d := 0#9, a := 0#9, b := .imm 0#32 },
    .voteBallot plainHdr { d := 0#9, pa := 0#3 },
    .cred plainHdr .add { ty := .s32, d := 0#9, b := .imm 0#32 },
    .cscan plainHdr { ty := .s32, op := .add, d := 0#9, b := .imm 0#32 },
    .fadd plainHdr { rnd := .rn, na := false, aa := false, nb := false, ab := false, sat := false, d := 0#9, a := .zero, b := .imm 0#32 },
    .dadd plainHdr { rnd := .rn, na := false, aa := false, nb := false, ab := false, sat := false, d := 0#9, a := .zero, b := .imm 0#32 },
    .fmin plainHdr { na := false, aa := false, nb := false, ab := false, d := 0#9, a := .zero, b := .imm 0#32 },
    .fcmp plainHdr { cc := .eq, na := false, aa := false, nb := false, ab := false, p := 0#3, a := .zero, b := .imm 0#32 },
    .dcmp plainHdr { cc := .eq, na := false, aa := false, nb := false, ab := false, p := 0#3, a := .zero, b := .imm 0#32 },
    .frcp plainHdr { rnd := .rn, nb := false, ab := false, sat := false, d := 0#9, b := .imm 0#32 },
    .fscale plainHdr { rnd := .rn, na := false, aa := false, sat := false, d := 0#9, a := 0#9, b := .imm 0#32 },
    .frint plainHdr { rnd := .rn, nb := false, ab := false, d := 0#9, b := .imm 0#32 },
    .fcvt plainHdr { ed := 0#5, d := 0#9, a := 0#9, es := 0#5, rnd := .rn },
    .ftoi plainHdr { rnd := .rn, ty := .s32, d := 0#9, b := 0#9 },
    .itof plainHdr { rnd := .rn, ty := .s32, d := 0#9, b := .imm 0#32 },
    .hadd2 plainHdr { rnd := .rn, na := false, aa := false, nb := false, ab := false, sat := false, d := 0#9, a := .zero, b := 0#9, e := 0#5 },
    .fdot2 plainHdr { d := 0#9, a := 0#9, b := 0#9, ea := 0#5, eb := 0#5 },
    .cmul plainHdr { d := 0#9, a := 0#9, b := 0#9 },
    .ld plainHdr { space := .scr, width := .w32, hint := 0#2, d := 0#9, a := .zero, off := 0#32 },
    .ldf plainHdr { width := .w32, d := 0#9, a := 0#9, e := 0#32 },
    .pref plainHdr { hint := 0#2, a := .zero, off := 0#32 },
    .cinvD plainHdr { a := 0#9, len := .imm 0#32 },
    .atomAdd plainHdr { space := .scr, width := .w32, scope := 0#3, hint := 0#2, d := 0#9, a := .zero, b := 0#9, off := 0#32 },
    .red plainHdr { op := .add, space := .scr, width := .w32, scope := 0#3, hint := 0#2, a := .zero, b := 0#9, off := 0#32 },
    .atombInc plainHdr { space := .scr, scope := 0#3, hint := 0#2, d := 0#9, a := .zero, b := 0#9, off := 0#32 },
    .inspT plainHdr { scope := 0#3, d := 0#9, a := 0#9 },
    .inspA plainHdr { space := .scr, scope := 0#3, d := 0#9, a := 0#9, len := .imm 0#32 },
    .monitor plainHdr { space := .clu, a := .zero, off := 0#32 },
    .barinit plainHdr { space := .scr, a := 0#9, n := .imm 0#32 },
    .bara plainHdr { space := .scr, d := 0#9, a := 0#9, n := .imm 0#32 },
    .barw plainHdr { space := .scr, target := .none, scope := 0#3, d := 0#9, a := 0#9, b := 0#9 },
    .elide plainHdr { d := 0#9, a := 0#9, off := 0#32 },
    .copy plainHdr { kind := .token, target := .none, sc := 0#3, ss := 0#2, ds := 0#2, d := 0#9, a := 0#9, b := 0#9, len := 0#32 },
    .kick plainHdr { kind := .token, target := .none, sc := 0#3, d := 0#9, a := 0#9, n := .imm 0#32 },
    .tileh plainHdr { a := 0#9, slot := 0#6 },
    .tilef plainHdr { kind := .token, target := .none, sc := 0#3, d := 0#9, a := 0#9, b := 0#9 },
    .fabxWr plainHdr { kind := .token, target := .none, sc := 0#3, ss := 0#2, d := 0#9, a := 0#9, b := 0#9, len := 0#32 },
    .mma plainHdr { kind := .token, target := .none, sc := 0#3, d := 0#9, a := 0#9 },
    .mloadb plainHdr { kind := .token, target := .none, sc := 0#3, d := 0#9, a := 0#9, b := 0#9, k := 0#32 },
    .mread plainHdr { d := 0#9, a := .zero, off := 0#32 },
    .mzero plainHdr { a := .zero, n := 0#32 },
    .qput plainHdr { g := false, d := 0#9, a := 0#9, pipe := 0#2 },
    .qget plainHdr { d := 0#9, a := 0#9, pipe := 0#2 },
    .qcount plainHdr { d := 0#9, pipe := 0#2 },
    .msend plainHdr { d := 0#9, a := 0#9, b := 0#9, len := 0#9, tag := 0#16 },
    .mpost plainHdr { d := 0#9, a := 0#9, b := 0#9, size := 0#9 },
    .mtest plainHdr { w := false, d := 0#9, a := 0#9 },
    .jspawn plainHdr { d := 0#9, a := 0#9, b := .imm 0#32 },
    .posti plainHdr { d := 0#9, a := 0#9, b := 0#9 },
    .tryAlt plainHdr { cnt := 1#4, wlen := 0#5, steal := false, d := 0#9, off := 0#32 },
    .trailw plainHdr { a := 0#9, n := 1#6 },
    .fmtset plainHdr { kind := .token, sc := 0#3, d := 0#9, a := 0#9, n := 0#5 },
    .fmtget plainHdr { d := 0#9, n := 0#5 },
    .movs plainHdr { d := 0#9, idx := 0#12 }] : List Instr).all fun i => i.wf 64) = true := by decide

/-- A field out of its range, R123 and R131. -/
theorem test_registers_and_fields_refused_1 : (([
    .brx plainHdr { b := 3#9 },
    .brt plainHdr { a := 64#9, off := 0#32, count := 1#11 },
    .brt plainHdr { a := 0#9, off := 0#32, count := 0#11 },
    .sleep plainHdr { b := .reg 64#9 },
    .iret plainHdr { b := .reg 3#9 },
    .svc plainHdr { d := 64#9, n := 0#16 },
    .add plainHdr { ty := .s32, sat := false, d := 64#9, a := .zero, b := .imm 0#32 },
    .add plainHdr { ty := .s32, sat := false, d := 0#9, a := .reg 64#9, b := .imm 0#32 },
    .add plainHdr { ty := .s32, sat := false, d := 0#9, a := .zero, b := .reg 64#9 },
    .div plainHdr { ty := .s32, d := 64#9, a := .zero, b := .imm 0#32 },
    .div plainHdr { ty := .s32, d := 0#9, a := .reg 64#9, b := .imm 0#32 },
    .div plainHdr { ty := .s32, d := 0#9, a := .zero, b := .reg 64#9 },
    .and plainHdr { d := 64#9, a := .zero, b := .imm 0#32 },
    .and plainHdr { d := 0#9, a := .reg 64#9, b := .imm 0#32 },
    .and plainHdr { d := 0#9, a := .zero, b := .reg 64#9 },
    .mulh plainHdr { ty := .s32, d := 64#9, a := 0#9, b := .imm 0#32 },
    .mulh plainHdr { ty := .s32, d := 0#9, a := 64#9, b := .imm 0#32 },
    .mulh plainHdr { ty := .s32, d := 0#9, a := 0#9, b := .reg 64#9 },
    .mad plainHdr { ty := .s32, sat := false, d := 64#9, a := 0#9, b := .imm 0#32 },
    .mad plainHdr { ty := .s32, sat := false, d := 0#9, a := 64#9, b := .imm 0#32 },
    .mad plainHdr { ty := .s32, sat := false, d := 0#9, a := 0#9, b := .reg 64#9 },
    .madw plainHdr { ty := .s32, d := 3#9, a := 0#9, b := .imm 0#32 },
    .madw plainHdr { ty := .s32, d := 0#9, a := 64#9, b := .imm 0#32 },
    .madw plainHdr { ty := .s32, d := 0#9, a := 0#9, b := .reg 64#9 },
    .add64 plainHdr { d := 3#9, a := 0#9, b := .imm 0#32 },
    .add64 plainHdr { d := 0#9, a := 3#9, b := .imm 0#32 },
    .add64 plainHdr { d := 0#9, a := 0#9, b := .reg 3#9 },
    .abs plainHdr { sat := false, d := 64#9, b := 0#9 },
    .abs plainHdr { sat := false, d := 0#9, b := 64#9 },
    .clz plainHdr { d := 64#9, b := 0#9 },
    .clz plainHdr { d := 0#9, b := 64#9 },
    .lea plainHdr { ty := .s32, d := 3#9, a := .zero, b := 0#9, sh := 0#5 },
    .lea plainHdr { ty := .s32, d := 0#9, a := .reg 3#9, b := 0#9, sh := 0#5 },
    .lea plainHdr { ty := .s32, d := 0#9, a := .zero, b := 64#9, sh := 0#5 },
    .prmb plainHdr { d := 64#9, a := .zero, b := 0#9, pick := 0#16 },
    .prmb plainHdr { d := 0#9, a := .reg 64#9, b := 0#9, pick := 0#16 },
    .prmb plainHdr { d := 0#9, a := .zero, b := 64#9, pick := 0#16 },
    .sel plainHdr { d := 64#9, a := .zero, b := 0#9, p := 0#3, neg := false },
    .sel plainHdr { d := 0#9, a := .reg 64#9, b := 0#9, p := 0#3, neg := false },
    .sel plainHdr { d := 0#9, a := .zero, b := 64#9, p := 0#3, neg := false },
    .mov plainHdr { d := 64#9, b := .imm 0#32 },
    .mov plainHdr { d := 0#9, b := .reg 64#9 },
    .icmp plainHdr { cc := .eq, ty := .s32, p := 0#3, a := .reg 64#9, b := .imm 0#32 },
    .icmp plainHdr { cc := .eq, ty := .s32, p := 0#3, a := .zero, b := .reg 64#9 },
    .p2g plainHdr { d := 64#9 },
    .jnext plainHdr { d := 3#9 },
    .g2p plainHdr { b := 64#9, mask := 0#7 },
    .shflIdx plainHdr { d := 64#9, a := 0#9, b := .imm 0#32 },
    .shflIdx plainHdr { d := 0#9, a := 64#9, b := .imm 0#32 },
    .shflIdx plainHdr { d := 0#9, a := 0#9, b := .reg 64#9 },
    .voteBallot plainHdr { d := 64#9, pa := 0#3 },
    .cred plainHdr .add { ty := .s32, d := 64#9, b := .imm 0#32 },
    .cred plainHdr .add { ty := .s32, d := 0#9, b := .reg 64#9 },
    .cscan plainHdr { ty := .s32, op := .add, d := 64#9, b := .imm 0#32 },
    .cscan plainHdr { ty := .s32, op := .add, d := 0#9, b := .reg 64#9 },
    .cscan plainHdr { ty := .n32, op := .add, d := 0#9, b := .imm 0#32 },
    .fadd plainHdr { rnd := .rn, na := false, aa := false, nb := false, ab := false, sat := false, d := 64#9, a := .zero, b := .imm 0#32 },
    .fadd plainHdr { rnd := .rn, na := false, aa := false, nb := false, ab := false, sat := false, d := 0#9, a := .reg 64#9, b := .imm 0#32 },
    .fadd plainHdr { rnd := .rn, na := false, aa := false, nb := false, ab := false, sat := false, d := 0#9, a := .zero, b := .reg 64#9 },
    .dadd plainHdr { rnd := .rn, na := false, aa := false, nb := false, ab := false, sat := false, d := 3#9, a := .zero, b := .imm 0#32 },
    .dadd plainHdr { rnd := .rn, na := false, aa := false, nb := false, ab := false, sat := false, d := 0#9, a := .reg 3#9, b := .imm 0#32 },
    .dadd plainHdr { rnd := .rn, na := false, aa := false, nb := false, ab := false, sat := false, d := 0#9, a := .zero, b := .reg 3#9 },
    .fmin plainHdr { na := false, aa := false, nb := false, ab := false, d := 64#9, a := .zero, b := .imm 0#32 },
    .fmin plainHdr { na := false, aa := false, nb := false, ab := false, d := 0#9, a := .reg 64#9, b := .imm 0#32 },
    .fmin plainHdr { na := false, aa := false, nb := false, ab := false, d := 0#9, a := .zero, b := .reg 64#9 },
    .fcmp plainHdr { cc := .eq, na := false, aa := false, nb := false, ab := false, p := 0#3, a := .reg 64#9, b := .imm 0#32 },
    .fcmp plainHdr { cc := .eq, na := false, aa := false, nb := false, ab := false, p := 0#3, a := .zero, b := .reg 64#9 },
    .dcmp plainHdr { cc := .eq, na := false, aa := false, nb := false, ab := false, p := 0#3, a := .reg 3#9, b := .imm 0#32 },
    .dcmp plainHdr { cc := .eq, na := false, aa := false, nb := false, ab := false, p := 0#3, a := .zero, b := .reg 3#9 },
    .frcp plainHdr { rnd := .rn, nb := false, ab := false, sat := false, d := 64#9, b := .imm 0#32 },
    .frcp plainHdr { rnd := .rn, nb := false, ab := false, sat := false, d := 0#9, b := .reg 64#9 },
    .fscale plainHdr { rnd := .rn, na := false, aa := false, sat := false, d := 64#9, a := 0#9, b := .imm 0#32 },
    .fscale plainHdr { rnd := .rn, na := false, aa := false, sat := false, d := 0#9, a := 64#9, b := .imm 0#32 },
    .fscale plainHdr { rnd := .rn, na := false, aa := false, sat := false, d := 0#9, a := 0#9, b := .reg 64#9 },
    .frint plainHdr { rnd := .rn, nb := false, ab := false, d := 64#9, b := .imm 0#32 },
    .frint plainHdr { rnd := .rn, nb := false, ab := false, d := 0#9, b := .reg 64#9 },
    .fcvt plainHdr { ed := 3#5, d := 3#9, a := 0#9, es := 0#5, rnd := .rn },
    .fcvt plainHdr { ed := 0#5, d := 0#9, a := 3#9, es := 3#5, rnd := .rn },
    .ftoi plainHdr { rnd := .rn, ty := .s32, d := 64#9, b := 0#9 },
    .ftoi plainHdr { rnd := .rn, ty := .s32, d := 0#9, b := 64#9 },
    .itof plainHdr { rnd := .rn, ty := .s32, d := 64#9, b := .imm 0#32 },
    .itof plainHdr { rnd := .rn, ty := .s32, d := 0#9, b := .reg 64#9 },
    .hadd2 plainHdr { rnd := .rn, na := false, aa := false, nb := false, ab := false, sat := false, d := 64#9, a := .zero, b := 0#9, e := 0#5 },
    .hadd2 plainHdr { rnd := .rn, na := false, aa := false, nb := false, ab := false, sat := false, d := 0#9, a := .reg 64#9, b := 0#9, e := 0#5 },
    .hadd2 plainHdr { rnd := .rn, na := false, aa := false, nb := false, ab := false, sat := false, d := 0#9, a := .zero, b := 64#9, e := 0#5 },
    .fdot2 plainHdr { d := 64#9, a := 0#9, b := 0#9, ea := 0#5, eb := 0#5 },
    .fdot2 plainHdr { d := 0#9, a := 64#9, b := 0#9, ea := 0#5, eb := 0#5 },
    .fdot2 plainHdr { d := 0#9, a := 0#9, b := 64#9, ea := 0#5, eb := 0#5 },
    .cmul plainHdr { d := 3#9, a := 0#9, b := 0#9 },
    .cmul plainHdr { d := 0#9, a := 3#9, b := 0#9 },
    .cmul plainHdr { d := 0#9, a := 0#9, b := 3#9 }] : List Instr).all fun i => !i.fieldsOk 64 && !i.wf 64) = true := by decide

/-- The rest of them. -/
theorem test_registers_and_fields_refused_2 : (([
    .ld plainHdr { space := .scr, width := .w64, hint := 0#2, d := 3#9, a := .zero, off := 0#32 },
    .ld plainHdr { space := .glb, width := .w32, hint := 0#2, d := 0#9, a := .reg 3#9, off := 0#32 },
    .ldf plainHdr { width := .w8, d := 0#9, a := 0#9, e := 0#32 },
    .ldf plainHdr { width := .w64, d := 3#9, a := 0#9, e := 0#32 },
    .ldf plainHdr { width := .w32, d := 0#9, a := 3#9, e := 0#32 },
    .pref plainHdr { hint := 0#2, a := .reg 3#9, off := 0#32 },
    .cinvD plainHdr { a := 3#9, len := .imm 0#32 },
    .cinvD plainHdr { a := 0#9, len := .reg 64#9 },
    .atomAdd plainHdr { space := .priv, width := .w32, scope := 0#3, hint := 0#2, d := 0#9, a := .zero, b := 0#9, off := 0#32 },
    .atomAdd plainHdr { space := .scr, width := .w8, scope := 0#3, hint := 0#2, d := 0#9, a := .zero, b := 0#9, off := 0#32 },
    .atomAdd plainHdr { space := .scr, width := .w64, scope := 0#3, hint := 0#2, d := 3#9, a := .zero, b := 0#9, off := 0#32 },
    .atomAdd plainHdr { space := .scr, width := .w64, scope := 0#3, hint := 0#2, d := 0#9, a := .zero, b := 3#9, off := 0#32 },
    .atomAdd plainHdr { space := .glb, width := .w32, scope := 0#3, hint := 0#2, d := 0#9, a := .reg 3#9, b := 0#9, off := 0#32 },
    .red plainHdr { op := .add, space := .priv, width := .w32, scope := 0#3, hint := 0#2, a := .zero, b := 0#9, off := 0#32 },
    .red plainHdr { op := .add, space := .scr, width := .w8, scope := 0#3, hint := 0#2, a := .zero, b := 0#9, off := 0#32 },
    .red plainHdr { op := .add, space := .scr, width := .w64, scope := 0#3, hint := 0#2, a := .zero, b := 3#9, off := 0#32 },
    .red plainHdr { op := .add, space := .glb, width := .w32, scope := 0#3, hint := 0#2, a := .reg 3#9, b := 0#9, off := 0#32 },
    .atombInc plainHdr { space := .priv, scope := 0#3, hint := 0#2, d := 0#9, a := .zero, b := 0#9, off := 0#32 },
    .atombInc plainHdr { space := .scr, scope := 0#3, hint := 0#2, d := 64#9, a := .zero, b := 0#9, off := 0#32 },
    .atombInc plainHdr { space := .scr, scope := 0#3, hint := 0#2, d := 0#9, a := .zero, b := 64#9, off := 0#32 },
    .atombInc plainHdr { space := .glb, scope := 0#3, hint := 0#2, d := 0#9, a := .reg 3#9, b := 0#9, off := 0#32 },
    .inspT plainHdr { scope := 0#3, d := 64#9, a := 0#9 },
    .inspT plainHdr { scope := 0#3, d := 0#9, a := 64#9 },
    .inspA plainHdr { space := .priv, scope := 0#3, d := 0#9, a := 0#9, len := .imm 0#32 },
    .inspA plainHdr { space := .scr, scope := 0#3, d := 64#9, a := 0#9, len := .imm 0#32 },
    .inspA plainHdr { space := .glb, scope := 0#3, d := 0#9, a := 3#9, len := .imm 0#32 },
    .inspA plainHdr { space := .scr, scope := 0#3, d := 0#9, a := 0#9, len := .reg 64#9 },
    .monitor plainHdr { space := .priv, a := .zero, off := 0#32 },
    .monitor plainHdr { space := .glb, a := .reg 3#9, off := 0#32 },
    .barinit plainHdr { space := .priv, a := 0#9, n := .imm 0#32 },
    .barinit plainHdr { space := .scr, a := 64#9, n := .imm 0#32 },
    .barinit plainHdr { space := .scr, a := 0#9, n := .reg 64#9 },
    .bara plainHdr { space := .priv, d := 0#9, a := 0#9, n := .imm 0#32 },
    .bara plainHdr { space := .scr, d := 64#9, a := 0#9, n := .imm 0#32 },
    .bara plainHdr { space := .scr, d := 0#9, a := 64#9, n := .imm 0#32 },
    .bara plainHdr { space := .scr, d := 0#9, a := 0#9, n := .reg 64#9 },
    .barw plainHdr { space := .priv, target := .none, scope := 0#3, d := 0#9, a := 0#9, b := 0#9 },
    .barw plainHdr { space := .scr, target := .none, scope := 0#3, d := 64#9, a := 0#9, b := 0#9 },
    .barw plainHdr { space := .scr, target := .none, scope := 0#3, d := 0#9, a := 64#9, b := 0#9 },
    .barw plainHdr { space := .scr, target := .none, scope := 0#3, d := 0#9, a := 0#9, b := 64#9 },
    .elide plainHdr { d := 64#9, a := 0#9, off := 0#32 },
    .elide plainHdr { d := 0#9, a := 3#9, off := 0#32 },
    .copy plainHdr { kind := .arrival, target := .none, sc := 0#3, ss := 0#2, ds := 0#2, d := 3#9, a := 0#9, b := 0#9, len := 0#32 },
    .copy plainHdr { kind := .token, target := .none, sc := 0#3, ss := 0#2, ds := 0#2, d := 0#9, a := 3#9, b := 0#9, len := 0#32 },
    .copy plainHdr { kind := .token, target := .none, sc := 0#3, ss := 0#2, ds := 0#2, d := 0#9, a := 0#9, b := 3#9, len := 0#32 },
    .kick plainHdr { kind := .arrival, target := .none, sc := 0#3, d := 3#9, a := 0#9, n := .imm 0#32 },
    .kick plainHdr { kind := .token, target := .none, sc := 0#3, d := 0#9, a := 64#9, n := .imm 0#32 },
    .kick plainHdr { kind := .token, target := .none, sc := 0#3, d := 0#9, a := 0#9, n := .reg 64#9 },
    .tileh plainHdr { a := 64#9, slot := 0#6 },
    .tilef plainHdr { kind := .arrival, target := .none, sc := 0#3, d := 3#9, a := 0#9, b := 0#9 },
    .tilef plainHdr { kind := .token, target := .none, sc := 0#3, d := 0#9, a := 64#9, b := 0#9 },
    .tilef plainHdr { kind := .token, target := .none, sc := 0#3, d := 0#9, a := 0#9, b := 64#9 },
    .fabxWr plainHdr { kind := .arrival, target := .none, sc := 0#3, ss := 0#2, d := 3#9, a := 0#9, b := 0#9, len := 0#32 },
    .fabxWr plainHdr { kind := .token, target := .none, sc := 0#3, ss := 0#2, d := 0#9, a := 3#9, b := 0#9, len := 0#32 },
    .fabxWr plainHdr { kind := .token, target := .none, sc := 0#3, ss := 0#2, d := 0#9, a := 0#9, b := 3#9, len := 0#32 },
    .mma plainHdr { kind := .arrival, target := .none, sc := 0#3, d := 3#9, a := 0#9 },
    .mma plainHdr { kind := .token, target := .none, sc := 0#3, d := 0#9, a := 64#9 },
    .mloadb plainHdr { kind := .arrival, target := .none, sc := 0#3, d := 3#9, a := 0#9, b := 0#9, k := 0#32 },
    .mloadb plainHdr { kind := .token, target := .none, sc := 0#3, d := 0#9, a := 64#9, b := 0#9, k := 0#32 },
    .mloadb plainHdr { kind := .token, target := .none, sc := 0#3, d := 0#9, a := 0#9, b := 64#9, k := 0#32 },
    .mread plainHdr { d := 64#9, a := .zero, off := 0#32 },
    .mread plainHdr { d := 0#9, a := .reg 64#9, off := 0#32 },
    .mzero plainHdr { a := .reg 64#9, n := 0#32 },
    .qput plainHdr { g := false, d := 64#9, a := 0#9, pipe := 0#2 },
    .qput plainHdr { g := false, d := 0#9, a := 64#9, pipe := 0#2 },
    .qget plainHdr { d := 64#9, a := 0#9, pipe := 0#2 },
    .qget plainHdr { d := 0#9, a := 64#9, pipe := 0#2 },
    .qcount plainHdr { d := 64#9, pipe := 0#2 },
    .msend plainHdr { d := 64#9, a := 0#9, b := 0#9, len := 0#9, tag := 0#16 },
    .msend plainHdr { d := 0#9, a := 64#9, b := 0#9, len := 0#9, tag := 0#16 },
    .msend plainHdr { d := 0#9, a := 0#9, b := 64#9, len := 0#9, tag := 0#16 },
    .mpost plainHdr { d := 64#9, a := 0#9, b := 0#9, size := 0#9 },
    .mpost plainHdr { d := 0#9, a := 64#9, b := 0#9, size := 0#9 },
    .mpost plainHdr { d := 0#9, a := 0#9, b := 64#9, size := 0#9 },
    .mtest plainHdr { w := false, d := 3#9, a := 0#9 },
    .mtest plainHdr { w := false, d := 0#9, a := 64#9 },
    .jspawn plainHdr { d := 64#9, a := 0#9, b := .imm 0#32 },
    .jspawn plainHdr { d := 0#9, a := 3#9, b := .imm 0#32 },
    .jspawn plainHdr { d := 0#9, a := 0#9, b := .reg 64#9 },
    .posti plainHdr { d := 64#9, a := 0#9, b := 0#9 },
    .posti plainHdr { d := 0#9, a := 64#9, b := 0#9 },
    .posti plainHdr { d := 0#9, a := 0#9, b := 64#9 },
    .tryAlt plainHdr { cnt := 0#4, wlen := 0#5, steal := false, d := 0#9, off := 0#32 },
    .tryAlt plainHdr { cnt := 1#4, wlen := 1#5, steal := false, d := 63#9, off := 0#32 },
    .trailw plainHdr { a := 0#9, n := 0#6 },
    .trailw plainHdr { a := 0#9, n := 33#6 },
    .trailw plainHdr { a := 63#9, n := 2#6 },
    .fmtset plainHdr { kind := .arrival, sc := 0#3, d := 3#9, a := 0#9, n := 0#5 },
    .fmtset plainHdr { kind := .token, sc := 0#3, d := 0#9, a := 3#9, n := 0#5 },
    .fmtget plainHdr { d := 3#9, n := 0#5 },
    .movs plainHdr { d := 0#9, idx := 0x01B#12 },
    .movs plainHdr { d := 3#9, idx := 0x00D#12 }] : List Instr).all fun i => !i.fieldsOk 64 && !i.wf 64) = true := by decide

/-- Types, widths and special registers that an instruction does not take. -/
theorem test_special_forms_refused : (([
    .cred plainHdr .add { ty := .n32, d := 0#9, b := .imm 0#32 },
    .atomFadd plainHdr { space := .scr, width := .w64, scope := 1#3, hint := 0#2, d := 0#9, a := .zero, b := 0#9, off := 0#32 },
    .atomFmin plainHdr { space := .scr, width := .w64, scope := 1#3, hint := 0#2, d := 0#9, a := .zero, b := 0#9, off := 0#32 },
    .atomFmax plainHdr { space := .scr, width := .w64, scope := 1#3, hint := 0#2, d := 0#9, a := .zero, b := 0#9, off := 0#32 },
    .red plainHdr { op := .fadd, space := .scr, width := .w64, scope := 1#3, hint := 0#2, a := .zero, b := 0#9, off := 0#32 },
    .movs plainHdr { d := 0#9, idx := 0x018#12 },
    .movs plainHdr { d := 0#9, idx := 0x019#12 },
    .movsCycl plainHdr 64#9,
    .movsCych plainHdr 64#9,
    .sets plainHdr { d := 0#9, idx := 0x011#12 },
    .sets plainHdr { d := 0#9, idx := 0x016#12 },
    .sets plainHdr { d := 0#9, idx := 0x017#12 },
    .setsTrb plainHdr 64#9,
    .setsFlg plainHdr 64#9,
    .setsFrm plainHdr 64#9] : List Instr).all fun i => !i.fieldsOk 64 && !i.wf 64) = true := by decide

/-- Scope code 6 (R132). -/
theorem test_scopes_refused : (([
    .atomAdd plainHdr { space := .scr, width := .w32, scope := 6#3, hint := 0#2, d := 0#9, a := .zero, b := 0#9, off := 0#32 },
    .atomMinS plainHdr { space := .scr, width := .w32, scope := 6#3, hint := 0#2, d := 0#9, a := .zero, b := 0#9, off := 0#32 },
    .atomMinN plainHdr { space := .scr, width := .w32, scope := 6#3, hint := 0#2, d := 0#9, a := .zero, b := 0#9, off := 0#32 },
    .atomMaxS plainHdr { space := .scr, width := .w32, scope := 6#3, hint := 0#2, d := 0#9, a := .zero, b := 0#9, off := 0#32 },
    .atomMaxN plainHdr { space := .scr, width := .w32, scope := 6#3, hint := 0#2, d := 0#9, a := .zero, b := 0#9, off := 0#32 },
    .atomAnd plainHdr { space := .scr, width := .w32, scope := 6#3, hint := 0#2, d := 0#9, a := .zero, b := 0#9, off := 0#32 },
    .atomOr plainHdr { space := .scr, width := .w32, scope := 6#3, hint := 0#2, d := 0#9, a := .zero, b := 0#9, off := 0#32 },
    .atomXor plainHdr { space := .scr, width := .w32, scope := 6#3, hint := 0#2, d := 0#9, a := .zero, b := 0#9, off := 0#32 },
    .atomExch plainHdr { space := .scr, width := .w32, scope := 6#3, hint := 0#2, d := 0#9, a := .zero, b := 0#9, off := 0#32 },
    .atomFadd plainHdr { space := .scr, width := .w32, scope := 6#3, hint := 0#2, d := 0#9, a := .zero, b := 0#9, off := 0#32 },
    .atomFmin plainHdr { space := .scr, width := .w32, scope := 6#3, hint := 0#2, d := 0#9, a := .zero, b := 0#9, off := 0#32 },
    .atomFmax plainHdr { space := .scr, width := .w32, scope := 6#3, hint := 0#2, d := 0#9, a := .zero, b := 0#9, off := 0#32 },
    .atomcas plainHdr { space := .scr, width := .w32, scope := 6#3, hint := 0#2, d := 0#9, a := .zero, b := 0#9, off := 0#32 },
    .red plainHdr { op := .add, space := .scr, width := .w32, scope := 6#3, hint := 0#2, a := .zero, b := 0#9, off := 0#32 },
    .atombInc plainHdr { space := .scr, scope := 6#3, hint := 0#2, d := 0#9, a := .zero, b := 0#9, off := 0#32 },
    .atombDec plainHdr { space := .scr, scope := 6#3, hint := 0#2, d := 0#9, a := .zero, b := 0#9, off := 0#32 },
    .inspT plainHdr { scope := 6#3, d := 0#9, a := 0#9 },
    .inspG plainHdr { scope := 6#3, d := 0#9, a := 0#9 },
    .inspB plainHdr { scope := 6#3, d := 0#9, a := 0#9 },
    .inspA plainHdr { space := .scr, scope := 6#3, d := 0#9, a := 0#9, len := .imm 0#32 },
    .barw plainHdr { space := .scr, target := .none, scope := 6#3, d := 0#9, a := 0#9, b := 0#9 },
    .copy plainHdr { kind := .token, target := .none, sc := 6#3, ss := 0#2, ds := 0#2, d := 0#9, a := 0#9, b := 0#9, len := 0#32 },
    .kick plainHdr { kind := .token, target := .none, sc := 6#3, d := 0#9, a := 0#9, n := .imm 0#32 },
    .tilef plainHdr { kind := .token, target := .none, sc := 6#3, d := 0#9, a := 0#9, b := 0#9 },
    .fabxWr plainHdr { kind := .token, target := .none, sc := 6#3, ss := 0#2, d := 0#9, a := 0#9, b := 0#9, len := 0#32 },
    .fabxRed plainHdr { kind := .token, target := .none, sc := 6#3, ss := 0#2, d := 0#9, a := 0#9, b := 0#9, len := 0#32 },
    .mma plainHdr { kind := .token, target := .none, sc := 6#3, d := 0#9, a := 0#9 },
    .mloadb plainHdr { kind := .token, target := .none, sc := 6#3, d := 0#9, a := 0#9, b := 0#9, k := 0#32 },
    .fmtset plainHdr { kind := .token, sc := 6#3, d := 0#9, a := 0#9, n := 0#5 }] : List Instr).all fun i => i.fieldsOk 64 && !i.scopesOk && !i.wf 64) = true := by decide

/-! ## Words written out from the encoding tables of the spec -/

/-- Every word decodes to its instruction, and is the instruction's encoding. -/
def wordsOk (l : List (BitVec 96 × Instr)) : Bool :=
  l.all fun (p : BitVec 96 × Instr) => decide (decode 512 p.1 = .ok p.2) && encode p.2 == some p.1

/-- Tables 7-1, 7-6 and 8-1; the last word sets every field of the header. -/
theorem test_words_of_control : wordsOk [
    (wordOf 0x00007000 0x00000000 0x0, .nop plainHdr),
    (wordOf 0x00007001 0x00001800 0xFFFFFFFC, .bra plainHdr { off := 0xFFFFFFFC#32 }),
    (wordOf 0x00007002 0x00001018 0x0, .brx plainHdr { b := 6#9 }),
    (wordOf 0x14007003 0xFFE00800 0x12, .brt plainHdr { a := 10#9, off := 18#32, count := 2047#11 }),
    (wordOf 0x00007004 0x00001800 0x7, .call plainHdr { off := 7#32 }),
    (wordOf 0x00007005 0x00001018 0x0, .callx plainHdr { b := 6#9 }),
    (wordOf 0x00007006 0x00000000 0x0, .ret plainHdr),
    (wordOf 0x00007007 0x00000000 0x0, .exit plainHdr),
    (wordOf 0x00007008 0x00001800 0x5, .split plainHdr { off := 5#32 }),
    (wordOf 0x00007009 0x00000000 0x0, .join plainHdr),
    (wordOf 0x0000700A 0x00001800 0x9, .yield plainHdr { n := 9#16 }),
    (wordOf 0x0000700B 0x00001018 0x0, .sleep plainHdr { b := .reg 6#9 }),
    (wordOf 0x0000700B 0x00001800 0x64, .sleep plainHdr { b := .imm 100#32 }),
    (wordOf 0x0000700C 0x00001800 0x4D, .trap plainHdr { off := 77#32 }),
    (wordOf 0x0000700D 0x00001800 0x1, .iret plainHdr { b := .imm 1#32 }),
    (wordOf 0x0000700D 0x00001018 0x0, .iret plainHdr { b := .reg 6#9 }),
    (wordOf 0x0000700E 0x00001800 0x3, .bkpt plainHdr { off := 3#32 }),
    (wordOf 0x0014700F 0x00001800 0xC, .svc plainHdr { d := 20#9, n := 12#16 }),
    (wordOf 0x0000B000 0x001CC000 0x0, .nop { neg := true, pred := 3#3, keep := .keepB, look := 9#4, yld := true, solo := true })] = true := by decide +kernel

/-- Tables 8-4, 8-7 and 8-8. -/
theorem test_words_of_integers_and_crews : wordsOk [
    (wordOf 0x14147010 0x00600800 0x5, .add plainHdr { ty := .n32, sat := true, d := 20#9, a := .reg 10#9, b := .imm 5#32 }),
    (wordOf 0x14147011 0x00600800 0x5, .sub plainHdr { ty := .n32, sat := true, d := 20#9, a := .reg 10#9, b := .imm 5#32 }),
    (wordOf 0x14147012 0x00600800 0x5, .mul plainHdr { ty := .n32, sat := true, d := 20#9, a := .reg 10#9, b := .imm 5#32 }),
    (wordOf 0x00147011 0x00001018 0x0, .sub plainHdr { ty := .s32, sat := false, d := 20#9, a := .zero, b := .reg 6#9 }),
    (wordOf 0x14147013 0x00200018 0x0, .mulh plainHdr { ty := .n32, d := 20#9, a := 10#9, b := .reg 6#9 }),
    (wordOf 0x14147014 0x00400800 0x5, .mad plainHdr { ty := .s32, sat := true, d := 20#9, a := 10#9, b := .imm 5#32 }),
    (wordOf 0x14147015 0x00200018 0x0, .madw plainHdr { ty := .n32, d := 20#9, a := 10#9, b := .reg 6#9 }),
    (wordOf 0x14147016 0x00200018 0x0, .div plainHdr { ty := .n32, d := 20#9, a := .reg 10#9, b := .reg 6#9 }),
    (wordOf 0x14147017 0x00200018 0x0, .rem plainHdr { ty := .n32, d := 20#9, a := .reg 10#9, b := .reg 6#9 }),
    (wordOf 0x14147018 0x00200018 0x0, .min plainHdr { ty := .n32, d := 20#9, a := .reg 10#9, b := .reg 6#9 }),
    (wordOf 0x14147019 0x00200018 0x0, .max plainHdr { ty := .n32, d := 20#9, a := .reg 10#9, b := .reg 6#9 }),
    (wordOf 0x1414701C 0x00200018 0x0, .addc plainHdr { ty := .n32, d := 20#9, a := .reg 10#9, b := .reg 6#9 }),
    (wordOf 0x1414702B 0x00200018 0x0, .bfx plainHdr { ty := .n32, d := 20#9, a := .reg 10#9, b := .reg 6#9 }),
    (wordOf 0x0014701A 0x00401018 0x0, .abs plainHdr { sat := true, d := 20#9, b := 6#9 }),
    (wordOf 0x0014701B 0x00401018 0x0, .neg plainHdr { sat := true, d := 20#9, b := 6#9 }),
    (wordOf 0x0014701D 0x00201018 0x1F, .lea plainHdr { ty := .n32, d := 20#9, a := .zero, b := 6#9, sh := 31#5 }),
    (wordOf 0x1414701E 0x00000800 0x5, .add64 plainHdr { d := 20#9, a := 10#9, b := .imm 5#32 }),
    (wordOf 0x1414701F 0x00000800 0x5, .sub64 plainHdr { d := 20#9, a := 10#9, b := .imm 5#32 }),
    (wordOf 0x14147020 0x00000800 0x5, .and plainHdr { d := 20#9, a := .reg 10#9, b := .imm 5#32 }),
    (wordOf 0x14147021 0x00000800 0x5, .or plainHdr { d := 20#9, a := .reg 10#9, b := .imm 5#32 }),
    (wordOf 0x14147022 0x00000800 0x5, .xor plainHdr { d := 20#9, a := .reg 10#9, b := .imm 5#32 }),
    (wordOf 0x14147023 0x00000800 0x5, .andn plainHdr { d := 20#9, a := .reg 10#9, b := .imm 5#32 }),
    (wordOf 0x14147024 0x00000800 0x5, .shl plainHdr { d := 20#9, a := .reg 10#9, b := .imm 5#32 }),
    (wordOf 0x14147025 0x00000800 0x5, .shr plainHdr { d := 20#9, a := .reg 10#9, b := .imm 5#32 }),
    (wordOf 0x14147026 0x00000800 0x5, .sar plainHdr { d := 20#9, a := .reg 10#9, b := .imm 5#32 }),
    (wordOf 0x14147027 0x00000800 0x5, .rotl plainHdr { d := 20#9, a := .reg 10#9, b := .imm 5#32 }),
    (wordOf 0x1414702C 0x00000800 0x5, .bfi plainHdr { d := 20#9, a := .reg 10#9, b := .imm 5#32 }),
    (wordOf 0x00147028 0x00001018 0x0, .clz plainHdr { d := 20#9, b := 6#9 }),
    (wordOf 0x00147029 0x00001018 0x0, .popc plainHdr { d := 20#9, b := 6#9 }),
    (wordOf 0x0014702A 0x00001018 0x0, .brev plainHdr { d := 20#9, b := 6#9 }),
    (wordOf 0x1414702D 0x00000018 0x7654, .prmb plainHdr { d := 20#9, a := .reg 10#9, b := 6#9, pick := 0x7654#16 }),
    (wordOf 0x0014702E 0x00001018 0x0, .mov plainHdr { d := 20#9, b := .reg 6#9 }),
    (wordOf 0x0401702F 0x0000000C 0xA, .sel plainHdr { d := 1#9, a := .reg 2#9, b := 3#9, p := 2#3, neg := true }),
    (wordOf 0x14057030 0x01A00800 0x5, .icmp plainHdr { cc := .ge, ty := .n32, p := 5#3, a := .reg 10#9, b := .imm 5#32 }),
    (wordOf 0x04017031 0x1800000C 0x7, .plop plainHdr { p := 1#3, pa := 2#3, pb := 3#3, pc := 7#3, table := 0xC0#8 }),
    (wordOf 0x00147032 0x00000000 0x0, .p2g plainHdr { d := 20#9 }),
    (wordOf 0x00007033 0x00001018 0x55, .g2p plainHdr { b := 6#9, mask := 0x55#7 }),
    (wordOf 0x14147034 0x00000800 0x5, .shflIdx plainHdr { d := 20#9, a := 10#9, b := .imm 5#32 }),
    (wordOf 0x14147134 0x00000800 0x5, .shflUp plainHdr { d := 20#9, a := 10#9, b := .imm 5#32 }),
    (wordOf 0x14147234 0x00000800 0x5, .shflDown plainHdr { d := 20#9, a := 10#9, b := .imm 5#32 }),
    (wordOf 0x14147334 0x00000800 0x5, .shflXor plainHdr { d := 20#9, a := 10#9, b := .imm 5#32 }),
    (wordOf 0x0C057035 0x00000000 0x0, .voteAll plainHdr { p := 5#3, pa := 6#3 }),
    (wordOf 0x0C057135 0x00000000 0x0, .voteAny plainHdr { p := 5#3, pa := 6#3 }),
    (wordOf 0x0C147235 0x00000000 0x0, .voteBallot plainHdr { d := 20#9, pa := 6#3 }),
    (wordOf 0x0C147335 0x00000000 0x0, .voteCount plainHdr { d := 20#9, pa := 6#3 }),
    (wordOf 0x00147036 0x00001018 0x0, .cred plainHdr .add { ty := .s32, d := 20#9, b := .reg 6#9 }),
    (wordOf 0x00147136 0x00201018 0x0, .cred plainHdr .min { ty := .n32, d := 20#9, b := .reg 6#9 }),
    (wordOf 0x00147236 0x00201018 0x0, .cred plainHdr .max { ty := .n32, d := 20#9, b := .reg 6#9 }),
    (wordOf 0x00147336 0x00001018 0x0, .cred plainHdr .and { ty := .s32, d := 20#9, b := .reg 6#9 }),
    (wordOf 0x00147436 0x00001018 0x0, .cred plainHdr .or { ty := .s32, d := 20#9, b := .reg 6#9 }),
    (wordOf 0x00147536 0x00001018 0x0, .cred plainHdr .xor { ty := .s32, d := 20#9, b := .reg 6#9 }),
    (wordOf 0x00147636 0x00001018 0x0, .cred plainHdr .fadd { ty := .s32, d := 20#9, b := .reg 6#9 }),
    (wordOf 0x00147736 0x00001018 0x0, .cred plainHdr .fmin { ty := .s32, d := 20#9, b := .reg 6#9 }),
    (wordOf 0x00147836 0x00001018 0x0, .cred plainHdr .fmax { ty := .s32, d := 20#9, b := .reg 6#9 }),
    (wordOf 0x00147037 0x00A01800 0x5, .cscan plainHdr { ty := .n32, op := .max, d := 20#9, b := .imm 5#32 }),
    (wordOf 0x00147037 0x01801018 0x0, .cscan plainHdr { ty := .s32, op := .fadd, d := 20#9, b := .reg 6#9 }),
    (wordOf 0x00147038 0x00001018 0x0, .matchLanes plainHdr { d := 20#9, b := 6#9 }),
    (wordOf 0x00057039 0x00000000 0x0, .elect plainHdr { p := 5#3 })] = true := by decide +kernel

/-- Table 9-1. -/
theorem test_words_of_floating_point : wordsOk [
    (wordOf 0x14147040 0x19400018 0x0, .fadd plainHdr { rnd := .ru, na := true, aa := false, nb := false, ab := true, sat := true, d := 20#9, a := .reg 10#9, b := .reg 6#9 }),
    (wordOf 0x14147041 0x19400018 0x0, .fsub plainHdr { rnd := .ru, na := true, aa := false, nb := false, ab := true, sat := true, d := 20#9, a := .reg 10#9, b := .reg 6#9 }),
    (wordOf 0x14147042 0x19400018 0x0, .fmul plainHdr { rnd := .ru, na := true, aa := false, nb := false, ab := true, sat := true, d := 20#9, a := .reg 10#9, b := .reg 6#9 }),
    (wordOf 0x14147043 0x19400018 0x0, .fma plainHdr { rnd := .ru, na := true, aa := false, nb := false, ab := true, sat := true, d := 20#9, a := .reg 10#9, b := .reg 6#9 }),
    (wordOf 0x14147047 0x19400018 0x0, .fdiv plainHdr { rnd := .ru, na := true, aa := false, nb := false, ab := true, sat := true, d := 20#9, a := .reg 10#9, b := .reg 6#9 }),
    (wordOf 0x00147044 0x06001800 0x5, .fmin plainHdr { na := false, aa := true, nb := true, ab := false, d := 20#9, a := .zero, b := .imm 5#32 }),
    (wordOf 0x00147045 0x06001800 0x5, .fmax plainHdr { na := false, aa := true, nb := true, ab := false, d := 20#9, a := .zero, b := .imm 5#32 }),
    (wordOf 0x14057046 0x09C00018 0x0, .fcmp plainHdr { cc := .un, na := true, aa := false, nb := false, ab := true, p := 5#3, a := .reg 10#9, b := .reg 6#9 }),
    (wordOf 0x00147048 0x14E01018 0x0, .frcp plainHdr { rnd := .dyn, nb := true, ab := false, sat := true, d := 20#9, b := .reg 6#9 }),
    (wordOf 0x00147049 0x14E01018 0x0, .frsq plainHdr { rnd := .dyn, nb := true, ab := false, sat := true, d := 20#9, b := .reg 6#9 }),
    (wordOf 0x0014704A 0x14E01018 0x0, .fsqrt plainHdr { rnd := .dyn, nb := true, ab := false, sat := true, d := 20#9, b := .reg 6#9 }),
    (wordOf 0x0014704B 0x14E01018 0x0, .fexp2 plainHdr { rnd := .dyn, nb := true, ab := false, sat := true, d := 20#9, b := .reg 6#9 }),
    (wordOf 0x0014704C 0x14E01018 0x0, .flog2 plainHdr { rnd := .dyn, nb := true, ab := false, sat := true, d := 20#9, b := .reg 6#9 }),
    (wordOf 0x0014704D 0x14E01018 0x0, .fsinp plainHdr { rnd := .dyn, nb := true, ab := false, sat := true, d := 20#9, b := .reg 6#9 }),
    (wordOf 0x0014704E 0x14E01018 0x0, .fcosp plainHdr { rnd := .dyn, nb := true, ab := false, sat := true, d := 20#9, b := .reg 6#9 }),
    (wordOf 0x1414704F 0x02600800 0x5, .fscale plainHdr { rnd := .rd, na := false, aa := true, sat := false, d := 20#9, a := 10#9, b := .imm 5#32 }),
    (wordOf 0x00147050 0x00001018 0x0, .fclass plainHdr { d := 20#9, b := 6#9 }),
    (wordOf 0x00147051 0x08801800 0x5, .frint plainHdr { rnd := .ra, nb := false, ab := true, d := 20#9, b := .imm 5#32 }),
    (wordOf 0x14147052 0x00800800 0x109, .fcvt plainHdr { ed := 4#5, d := 20#9, a := 10#9, es := 9#5, rnd := .rz }),
    (wordOf 0x00147053 0x01201018 0x0, .ftoi plainHdr { rnd := .rz, ty := .n32, d := 20#9, b := 6#9 }),
    (wordOf 0x00147054 0x01001800 0x5, .itof plainHdr { rnd := .rn, ty := .n32, d := 20#9, b := .imm 5#32 }),
    (wordOf 0x14147055 0x19400018 0x0, .dadd plainHdr { rnd := .ru, na := true, aa := false, nb := false, ab := true, sat := true, d := 20#9, a := .reg 10#9, b := .reg 6#9 }),
    (wordOf 0x14147056 0x19400018 0x0, .dmul plainHdr { rnd := .ru, na := true, aa := false, nb := false, ab := true, sat := true, d := 20#9, a := .reg 10#9, b := .reg 6#9 }),
    (wordOf 0x14147057 0x19400018 0x0, .dfma plainHdr { rnd := .ru, na := true, aa := false, nb := false, ab := true, sat := true, d := 20#9, a := .reg 10#9, b := .reg 6#9 }),
    (wordOf 0x14057058 0x06E00018 0x0, .dcmp plainHdr { cc := .ord, na := false, aa := true, nb := true, ab := false, p := 5#3, a := .reg 10#9, b := .reg 6#9 }),
    (wordOf 0x14147059 0x39400018 0x11, .hadd2 plainHdr { rnd := .ru, na := true, aa := false, nb := false, ab := true, sat := true, d := 20#9, a := .reg 10#9, b := 6#9, e := 17#5 }),
    (wordOf 0x1414705A 0x39400018 0x11, .hmul2 plainHdr { rnd := .ru, na := true, aa := false, nb := false, ab := true, sat := true, d := 20#9, a := .reg 10#9, b := 6#9, e := 17#5 }),
    (wordOf 0x1414705B 0x39400018 0x11, .hfma2 plainHdr { rnd := .ru, na := true, aa := false, nb := false, ab := true, sat := true, d := 20#9, a := .reg 10#9, b := 6#9, e := 17#5 }),
    (wordOf 0x1414705C 0x20000018 0x911, .fdot2 plainHdr { d := 20#9, a := 10#9, b := 6#9, ea := 17#5, eb := 9#5 }),
    (wordOf 0x1414705D 0x20000018 0x911, .fdot4 plainHdr { d := 20#9, a := 10#9, b := 6#9, ea := 17#5, eb := 9#5 }),
    (wordOf 0x1414705E 0x00000018 0x0, .cmul plainHdr { d := 20#9, a := 10#9, b := 6#9 })] = true := by decide +kernel

/-- Tables 7-7 and 10-1, R190, R194, R196. -/
theorem test_words_of_memory_and_synchronisation : wordsOk [
    (wordOf 0x14147060 0xC4800800 0x40, .ld plainHdr { space := .glb, width := .w128, hint := 3#2, d := 20#9, a := .reg 10#9, off := 0x40#32 }),
    (wordOf 0x14147160 0xC4800800 0x40, .ldAfter plainHdr { space := .glb, width := .w128, hint := 3#2, d := 20#9, a := .reg 10#9, off := 0x40#32 }),
    (wordOf 0x14147061 0xC4800800 0x40, .st plainHdr { space := .glb, width := .w128, hint := 3#2, d := 20#9, a := .reg 10#9, off := 0x40#32 }),
    (wordOf 0x14147062 0x03800800 0xF, .ldf plainHdr { width := .w64, d := 20#9, a := 10#9, e := 15#32 }),
    (wordOf 0x14147063 0x03800800 0xF, .stf plainHdr { width := .w64, d := 20#9, a := 10#9, e := 15#32 }),
    (wordOf 0x14007064 0x40800800 0x40, .pref plainHdr { hint := 1#2, a := .reg 10#9, off := 0x40#32 }),
    (wordOf 0x14007065 0x00800018 0x0, .cinvD plainHdr { a := 10#9, len := .reg 6#9 }),
    (wordOf 0x14007065 0x01800018 0x0, .cinvI plainHdr { a := 10#9, len := .reg 6#9 }),
    (wordOf 0x14007065 0x02800018 0x0, .cinvIf plainHdr { a := 10#9, len := .reg 6#9 }),
    (wordOf 0x14147070 0x9A600018 0x8, .atomAdd plainHdr { space := .lag, width := .w32, scope := 3#3, hint := 2#2, d := 20#9, a := .reg 10#9, b := 6#9, off := 8#32 }),
    (wordOf 0x14147170 0x9A600018 0x8, .atomMinS plainHdr { space := .lag, width := .w32, scope := 3#3, hint := 2#2, d := 20#9, a := .reg 10#9, b := 6#9, off := 8#32 }),
    (wordOf 0x14147270 0x9A600018 0x8, .atomMinN plainHdr { space := .lag, width := .w32, scope := 3#3, hint := 2#2, d := 20#9, a := .reg 10#9, b := 6#9, off := 8#32 }),
    (wordOf 0x14147370 0x9A600018 0x8, .atomMaxS plainHdr { space := .lag, width := .w32, scope := 3#3, hint := 2#2, d := 20#9, a := .reg 10#9, b := 6#9, off := 8#32 }),
    (wordOf 0x14147470 0x9A600018 0x8, .atomMaxN plainHdr { space := .lag, width := .w32, scope := 3#3, hint := 2#2, d := 20#9, a := .reg 10#9, b := 6#9, off := 8#32 }),
    (wordOf 0x14147570 0x9A600018 0x8, .atomAnd plainHdr { space := .lag, width := .w32, scope := 3#3, hint := 2#2, d := 20#9, a := .reg 10#9, b := 6#9, off := 8#32 }),
    (wordOf 0x14147670 0x9A600018 0x8, .atomOr plainHdr { space := .lag, width := .w32, scope := 3#3, hint := 2#2, d := 20#9, a := .reg 10#9, b := 6#9, off := 8#32 }),
    (wordOf 0x14147770 0x9A600018 0x8, .atomXor plainHdr { space := .lag, width := .w32, scope := 3#3, hint := 2#2, d := 20#9, a := .reg 10#9, b := 6#9, off := 8#32 }),
    (wordOf 0x14147870 0x9A600018 0x8, .atomExch plainHdr { space := .lag, width := .w32, scope := 3#3, hint := 2#2, d := 20#9, a := .reg 10#9, b := 6#9, off := 8#32 }),
    (wordOf 0x14147970 0x9A600018 0x8, .atomFadd plainHdr { space := .lag, width := .w32, scope := 3#3, hint := 2#2, d := 20#9, a := .reg 10#9, b := 6#9, off := 8#32 }),
    (wordOf 0x14147A70 0x9A600018 0x8, .atomFmin plainHdr { space := .lag, width := .w32, scope := 3#3, hint := 2#2, d := 20#9, a := .reg 10#9, b := 6#9, off := 8#32 }),
    (wordOf 0x14147B70 0x9A600018 0x8, .atomFmax plainHdr { space := .lag, width := .w32, scope := 3#3, hint := 2#2, d := 20#9, a := .reg 10#9, b := 6#9, off := 8#32 }),
    (wordOf 0x14147071 0x2B800018 0x8, .atomcas plainHdr { space := .glb, width := .w64, scope := 5#3, hint := 0#2, d := 20#9, a := .reg 10#9, b := 6#9, off := 8#32 }),
    (wordOf 0x00087072 0x4A201018 0x8, .red plainHdr { op := .exch, space := .scr, width := .w32, scope := 1#3, hint := 1#2, a := .zero, b := 6#9, off := 8#32 }),
    (wordOf 0x14147073 0x12400018 0x8, .atombInc plainHdr { space := .clu, scope := 2#3, hint := 0#2, d := 20#9, a := .reg 10#9, b := 6#9, off := 8#32 }),
    (wordOf 0x14147173 0x12400018 0x8, .atombDec plainHdr { space := .clu, scope := 2#3, hint := 0#2, d := 20#9, a := .reg 10#9, b := 6#9, off := 8#32 }),
    (wordOf 0x14147080 0x20000000 0x0, .inspT plainHdr { scope := 4#3, d := 20#9, a := 10#9 }),
    (wordOf 0x14147180 0x20000000 0x0, .inspG plainHdr { scope := 4#3, d := 20#9, a := 10#9 }),
    (wordOf 0x14147280 0x20000000 0x0, .inspB plainHdr { scope := 4#3, d := 20#9, a := 10#9 }),
    (wordOf 0x14147380 0x20800800 0x40, .inspA plainHdr { space := .glb, scope := 4#3, d := 20#9, a := 10#9, len := .imm 64#32 }),
    (wordOf 0x00147480 0x00000000 0x0, .inspS plainHdr { d := 20#9 }),
    (wordOf 0x14007081 0x00400800 0x8, .monitor plainHdr { space := .clu, a := .reg 10#9, off := 8#32 }),
    (wordOf 0x00147082 0x00001018 0x0, .mwait plainHdr { d := 20#9, b := .reg 6#9 }),
    (wordOf 0x14007083 0x00200800 0x4, .barinit plainHdr { space := .scr, a := 10#9, n := .imm 4#32 }),
    (wordOf 0x14147084 0x00600018 0x0, .bara plainHdr { space := .lag, d := 20#9, a := 10#9, n := .reg 6#9 }),
    (wordOf 0x14147085 0x0E400018 0x0, .barw plainHdr { space := .clu, target := .band, scope := 3#3, d := 20#9, a := 10#9, b := 6#9 }),
    (wordOf 0x14147086 0x00800000 0x9, .elide plainHdr { d := 20#9, a := 10#9, off := 9#32 }),
    (wordOf 0x00007087 0x00000000 0x0, .elend plainHdr)] = true := by decide +kernel

/-- Tables 11-1 and 12-1, R137. -/
theorem test_words_of_engines_choice_and_system : wordsOk [
    (wordOf 0x14147090 0x77400018 0x1000, .copy plainHdr { kind := .counter, target := .band, sc := 3#3, ss := 3#2, ds := 1#2, d := 20#9, a := 10#9, b := 6#9, len := 4096#32 }),
    (wordOf 0x14147091 0x07400800 0x5, .kick plainHdr { kind := .counter, target := .band, sc := 3#3, d := 20#9, a := 10#9, n := .imm 5#32 }),
    (wordOf 0x14007092 0x00000800 0x3F, .tileh plainHdr { a := 10#9, slot := 63#6 }),
    (wordOf 0x14147093 0x07400018 0x0, .tilef plainHdr { kind := .counter, target := .band, sc := 3#3, d := 20#9, a := 10#9, b := 6#9 }),
    (wordOf 0x14147094 0x00000018 0x0, .cwait plainHdr { d := 20#9, a := 10#9, b := 6#9 }),
    (wordOf 0x14147095 0x27400018 0x40, .fabxWr plainHdr { kind := .counter, target := .band, sc := 3#3, ss := 2#2, d := 20#9, a := 10#9, b := 6#9, len := 64#32 }),
    (wordOf 0x14147095 0x67400018 0x40, .fabxRed plainHdr { kind := .counter, target := .band, sc := 3#3, ss := 2#2, d := 20#9, a := 10#9, b := 6#9, len := 64#32 }),
    (wordOf 0x141470A0 0x07400000 0x0, .mma plainHdr { kind := .counter, target := .band, sc := 3#3, d := 20#9, a := 10#9 }),
    (wordOf 0x141470A1 0x07400018 0x60, .mloadb plainHdr { kind := .counter, target := .band, sc := 3#3, d := 20#9, a := 10#9, b := 6#9, k := 96#32 }),
    (wordOf 0x141470A2 0x00000800 0x21, .mread plainHdr { d := 20#9, a := .reg 10#9, off := 33#32 }),
    (wordOf 0x141470A3 0x00000800 0x21, .mwrite plainHdr { d := 20#9, a := .reg 10#9, off := 33#32 }),
    (wordOf 0x000070A4 0x00001800 0x40, .mzero plainHdr { a := .zero, n := 64#32 }),
    (wordOf 0x141470B0 0x00200800 0x3, .qput plainHdr { g := true, d := 20#9, a := 10#9, pipe := 3#2 }),
    (wordOf 0x141470B1 0x00000800 0x2, .qget plainHdr { d := 20#9, a := 10#9, pipe := 2#2 }),
    (wordOf 0x001470B2 0x00001800 0x1, .qcount plainHdr { d := 20#9, pipe := 1#2 }),
    (wordOf 0x141470B3 0x00000018 0xABCD0100, .msend plainHdr { d := 20#9, a := 10#9, b := 6#9, len := 256#9, tag := 0xABCD#16 }),
    (wordOf 0x141470B4 0x00000018 0x100, .mpost plainHdr { d := 20#9, a := 10#9, b := 6#9, size := 256#9 }),
    (wordOf 0x141470B5 0x00200000 0x0, .mtest plainHdr { w := true, d := 20#9, a := 10#9 }),
    (wordOf 0x141470B6 0x00000800 0x5, .jspawn plainHdr { d := 20#9, a := 10#9, b := .imm 5#32 }),
    (wordOf 0x001470B7 0x00000000 0x0, .jnext plainHdr { d := 20#9 }),
    (wordOf 0x141470B8 0x00000018 0x0, .posti plainHdr { d := 20#9, a := 10#9, b := 6#9 }),
    (wordOf 0x001470C0 0x7FE01800 0x2D, .tryAlt plainHdr { cnt := 15#4, wlen := 31#5, steal := true, d := 20#9, off := 45#32 }),
    (wordOf 0x000070C1 0x00000000 0x0, .fail plainHdr),
    (wordOf 0x000070C2 0x00001018 0x0, .cut plainHdr { b := .reg 6#9 }),
    (wordOf 0x001470C3 0x00000000 0x0, .mark plainHdr { d := 20#9 }),
    (wordOf 0x001470C4 0x00000000 0x0, .steal plainHdr { d := 20#9 }),
    (wordOf 0x140070C5 0x00000800 0x20, .trailw plainHdr { a := 10#9, n := 32#6 }),
    (wordOf 0x141470D0 0x06400800 0x1F, .fmtset plainHdr { kind := .counter, sc := 3#3, d := 20#9, a := 10#9, n := 31#5 }),
    (wordOf 0x001470D1 0x00001800 0x1F, .fmtget plainHdr { d := 20#9, n := 31#5 }),
    (wordOf 0x001470D2 0x00001800 0x21, .movs plainHdr { d := 20#9, idx := 0x021#12 }),
    (wordOf 0x001470D2 0x00001800 0x18, .movsCycl plainHdr 20#9),
    (wordOf 0x001470D2 0x00001800 0x19, .movsCych plainHdr 20#9),
    (wordOf 0x001470D3 0x00001800 0x13, .sets plainHdr { d := 20#9, idx := 0x013#12 }),
    (wordOf 0x001470D3 0x00001800 0x11, .setsTrb plainHdr 20#9),
    (wordOf 0x001470D3 0x00001800 0x16, .setsFlg plainHdr 20#9),
    (wordOf 0x001470D3 0x00001800 0x17, .setsFrm plainHdr 20#9)] = true := by decide +kernel

/-- Words that no instruction has, with the fault of each: an unassigned OP, an FN that is not listed, a field that must
be zero, KEEP 3, rounding 5, and scope 6 (R121, R126, R132, R135). -/
theorem test_words_refused :
    decode 512 (wordOf 0x000070E0 0 0) = .error .illegalOp ∧ decode 512 (wordOf 0x00007500 0 0) = .error .illegalOp ∧
    decode 512 (wordOf 0x00017000 0 0) = .error .illegalField ∧ decode 512 (wordOf 0x00007000 0x00006000 0) = .error .illegalField ∧
    decode 512 (wordOf 0x14147040 0x00A00018 0) = .error .illegalField ∧
    decode 512 (wordOf 0x14147080 0x30000000 0) = .error .scopeReserved := by decide +kernel

/-! ## Witnesses: computing instructions -/

/-- A thread with negative, large and float registers, and predicates set. -/
def wData : Thread := { wThread [(2, 0xFFFFFFFF#32), (3, 0x7FFFFFFF#32), (4, 0x3F800000#32), (5, 0x80000000#32)] with
  preds := 0x55#8 }

theorem witness_IntegerArithmeticResults :
    AloneReady (.add plainHdr { ty := .s32, sat := true, d := 1#9, a := .reg 3#9, b := .reg 3#9 }) wData ∧
    AloneReady (.addc plainHdr { ty := .n32, d := 1#9, a := .reg 2#9, b := .imm 1#32 }) wData :=
  ⟨aloneReady (by decide +kernel), aloneReady (by decide +kernel)⟩

theorem witness_BitFieldAndMoveResults :
    AloneReady (.shl plainHdr { d := 1#9, a := .reg 2#9, b := .imm 32#32 }) wData ∧
    AloneReady (.bfx plainHdr { ty := .s32, d := 1#9, a := .reg 5#9, b := .imm 0x011F#32 }) wData :=
  ⟨aloneReady (by decide +kernel), aloneReady (by decide +kernel)⟩

theorem witness_CompareWritesThePredicate :
    AloneReady (.icmp plainHdr { cc := .lt, ty := .n32, p := 7#3, a := .zero, b := .reg 5#9 }) wData := aloneReady (by decide +kernel)

theorem witness_Fp32ArithmeticResults :
    AloneReady (.fma plainHdr { rnd := .dyn, na := true, aa := false, nb := false, ab := true, sat := true, d := 4#9,
                                a := .reg 4#9, b := .imm 0x80000001#32 }) wData := aloneReady (by decide +kernel)

theorem witness_MinMaxOrderAndNan :
    AloneReady (.fmin plainHdr { na := false, aa := false, nb := true, ab := false, d := 1#9, a := .reg 2#9, b := .reg 5#9 })
      wData := aloneReady (by decide +kernel)

theorem witness_ClassifyNamesOneClass :
    AloneReady (.fclass plainHdr { d := 1#9, b := 3#9 }) wData ∧ ruleClass 0x7FFFFFFF#32 = 9 ∧ ruleClass 0x7F800001#32 = 8 ∧
      ruleClass 0x7F800000#32 = 7 ∧ ruleClass 0xFF800000#32 = 0 ∧ ruleClass 0x80000000#32 = 3 ∧ ruleClass 0x007FFFFF#32 = 5 :=
  ⟨aloneReady (by decide +kernel), by decide +kernel⟩

theorem witness_PredicateInstructions :
    AloneReady (.g2p plainHdr { b := 2#9, mask := 0x7F#7 }) wData ∧
    AloneReady (.fcmp plainHdr { cc := .un, na := false, aa := false, nb := false, ab := false, p := 0#3, a := .reg 2#9,
                                 b := .imm 0#32 }) wData :=
  ⟨aloneReady (by decide +kernel), aloneReady (by decide +kernel)⟩

/-- Thread 0 with work outstanding. -/
def wLong (k : LongKind) : Thread :=
  { wData with longs := [{ order := 0, pc := 65536#56, word := 0#96, opa := 0#64, opb := 0#64, left := 0, kind := k }] }

theorem witness_LongLatencyArithmetic :
    AloneReady (.div plainHdr { ty := .s32, d := 1#9, a := .reg 5#9, b := .reg 2#9 }) wData ∧
    AloneReady (.flog2 plainHdr { rnd := .rn, nb := false, ab := false, sat := false, d := 1#9, b := .imm 0#32 }) wData ∧
    ∃ (s : State) (a : Thread) (o : Outstanding), s.thread 0 = some a ∧ Sparse.wf a.regs = true ∧ a.outstanding 0 = some o ∧
      o.kind = .result [(1, 7#32), (2, 0#32)] 32 ∧ ∀ r, a.hold ≠ .faulting r :=
  ⟨aloneReady (by decide +kernel), aloneReady (by decide +kernel), eState (wLong (.result [(1, 7#32), (2, 0#32)] 32)),
    wLong (.result [(1, 7#32), (2, 0#32)] 32), _, by decide +kernel, by decide, rfl, rfl, fun r h => by cases h⟩

theorem witness_FormatsPackedAndWideResults :
    (AloneReady (.hadd2 plainHdr { rnd := .rn, na := false, aa := false, nb := false, ab := false, sat := false, d := 1#9,
                                   a := .reg 4#9, b := 4#9, e := 1#5 }) wData ∧ ((eState wData).entry 0 1).packable = true) ∧
    (AloneReady (.fdot4 plainHdr { d := 1#9, a := 4#9, b := 4#9, ea := 4#5, eb := 7#5 }) wData ∧
      (∀ n, n = 4 ∨ n = 7 → ((eState wData).entry 0 n).v = true ∧ ((eState wData).entry 0 n).blk = 0 ∧
        ((eState wData).entry 0 n).width ≤ 8)) ∧
    (AloneReady (.fcvt plainHdr { ed := 3#5, d := 8#9, a := 4#9, es := 0#5, rnd := .rz }) wData ∧
      ∀ n, n = 0 ∨ n = 3 → ((eState wData).entry 0 n).v = true ∧ ((eState wData).entry 0 n).blk = 0) ∧
    AloneReady (.dadd plainHdr { rnd := .rn, na := false, aa := false, nb := false, ab := false, sat := false, d := 8#9,
                                 a := .reg 2#9, b := .reg 4#9 }) wData :=
  ⟨⟨aloneReady (by decide +kernel), by decide +kernel⟩, ⟨aloneReady (by decide +kernel), by rintro n (rfl | rfl) <;> decide +kernel⟩,
    ⟨aloneReady (by decide +kernel), by rintro n (rfl | rfl) <;> decide +kernel⟩, aloneReady (by decide +kernel)⟩

/-! ## Witnesses: control -/

theorem witness_PacingHoldsAndWakes :
    AloneReady (.nop plainHdr) wData ∧ Alone (.yield plainHdr { n := 0#16 }) wData ∧
    Alone (.sleep plainHdr { b := .imm 0#32 }) wData ∧ Alone (.sleep plainHdr { b := .reg 2#9 }) wData ∧
    ((eState { wData with hold := .sleep 0 }).thread 0 = some { wData with hold := .sleep 0 }) ∧
    (eState { wData with hold := .yield 0 }).thread 0 = some { wData with hold := .yield 0 } :=
  ⟨aloneReady (by decide +kernel), alone (by decide +kernel), alone (by decide +kernel), alone (by decide +kernel), rfl, rfl⟩

/-- A table of one entry at the page of VA 0x20000, for a BRT that ends at the code base. -/
def wTable : Mem := { wMem with dram := Memory.writeNat [] 0x20000 4 (2 ^ 32 - 0x10000 / 4) }

theorem witness_BranchesCallsAndReturns :
    (Alone (.bra plainHdr { off := 0xFFFFFFFF#32 }) wData ∧
      (wState (.bra plainHdr { off := 0xFFFFFFFF#32 }) wData).isCode 0 (ruleTarget 65536#56 0xFFFFFFFF#32).toNat = true) ∧
    (AloneOpen (.bra plainHdr { off := 0xFFFFFFFE#32 }) wData ∧
      (wState (.bra plainHdr { off := 0xFFFFFFFE#32 }) wData).isCode 0 (ruleTarget 65536#56 0xFFFFFFFE#32).toNat = false) ∧
    (Alone (.brx plainHdr { b := 8#9 }) (wThread [(8, 65536#32)]) ∧
      (eState wData).isCode 0 ((wThread [(8, 65536#32)]).pair 8).toNat = true) ∧
    (AloneOpen (.brx plainHdr { b := 8#9 }) wData ∧ (eState wData).isCode 0 (wData.pair 8).toNat = false) ∧
    AloneOpen (.brt plainHdr { a := 2#9, off := 0#32, count := 1#11 }) wData ∧
    (Alone (.call plainHdr { off := 4#32 }) wData ∧ (eState wData).isCode 0 (ruleTarget 65536#56 4#32).toNat = true ∧
      wData.csp.toNat % 8 = 0 ∧ wData.trl + 8 ≤ wData.csp.toNat ∧
      (wData.privStore (wData.csp.toNat - 8) 8 (65536#56 + 12#56).toNat).isSome = true) ∧
    (AloneOpen (.call plainHdr { off := 4#32 }) { wData with csp := 512#32 } ∧
      (512#32 : Word).toNat < ({ wData with csp := 512#32 } : Thread).trl + 8) ∧
    (Alone (.ret plainHdr) { wData with csp := 1016#32, priv := Memory.writeNat [] 1016 8 65548 } ∧
      (eState wData).privBytes 0 = 1024 ∧ (eState wData).isCode 0 65548 = true ∧
      Memory.readNat (Memory.writeNat [] 1016 8 65548) 1016 8 = 65548) ∧
    (AloneOpen (.ret plainHdr) wData ∧ (eState wData).privBytes 0 < wData.csp.toNat + 8) :=
  ⟨⟨alone (by decide +kernel), by decide +kernel⟩, ⟨aloneOpen (by decide +kernel), by decide +kernel⟩, ⟨alone (by decide +kernel), by decide +kernel⟩,
    ⟨aloneOpen (by decide +kernel), by decide +kernel⟩, aloneOpen (by decide +kernel), ⟨alone (by decide +kernel), by decide +kernel⟩,
    ⟨aloneOpen (by decide +kernel), by decide +kernel⟩, ⟨alone (by decide +kernel), by decide +kernel⟩, ⟨aloneOpen (by decide +kernel), by decide +kernel⟩⟩

/-- A BRT of index 0 whose table, in the page at VA 0x10000 + 64, leads back to the code base. -/
theorem witness_BranchThroughATable :
    let i : Instr := .brt plainHdr { a := 1#9, off := BitVec.ofNat 32 ((0x20000 - 65536 - 12) / 4), count := 1#11 }
    let s := { wState i wData with mem := wTable }
    let acc : Access := { space := .glb, region := 0, addr := 0x20000, size := 4, issued := 0x20000#64 }
    let e := s.entered i 0 wData (wIssue i)
    Single i s (wIssue i) 0 wData ∧ tableStart 65536#56 (BitVec.ofNat 32 ((0x20000 - 65536 - 12) / 4)) = 0x20000 ∧
      (wData.reg 1).toNat = 0 ∧ TableEntry e 0 wData 0x20000 0 acc wPageU :=
  ⟨single_of (by decide +kernel), by decide +kernel, by decide +kernel, by decide +kernel, by decide +kernel, by decide +kernel,
    ⟨by decide +kernel, by decide +kernel, by decide +kernel, by decide +kernel⟩, by decide +kernel⟩

theorem witness_SplitRecordsTheGroup :
    AloneReady (.split plainHdr { off := 4#32 }) wData ∧ (∀ t ∈ (wIssue (.split plainHdr { off := 4#32 })).members, crewOf t = 0) ∧
      (eState wData).isCode 0 (ruleTarget 65536#56 4#32).toNat = true ∧ ((eState wData).crew 0).records.length < 8 :=
  ⟨aloneReady (by decide +kernel), by decide +kernel⟩

/-- A record that waits for lane 0 at the code base. -/
def wJoin (mask : BitVec 32) : State := { wState (.join plainHdr) wData with
  crews := [(0, { records := [⟨65536#56, 65536#56, mask, 0#32⟩], arrivals := [] })] }

theorem witness_JoinAndExit :
    Alone (.join plainHdr) wData ∧
    (Single (.join plainHdr) (wJoin 1#32) (wIssue (.join plainHdr)) 0 wData ∧
      ((wJoin 1#32).crew 0).records = [⟨65536#56, 65536#56, 1#32, 0#32⟩] ∧ (1#32 : BitVec 32).getLsbD (laneOf 0) = true) ∧
    (Single (.join plainHdr) (wJoin 3#32) (wIssue (.join plainHdr)) 0 wData ∧ 0#32 ||| (1#32 <<< laneOf 0) ≠ 3#32) ∧
    Alone (.exit plainHdr) wData :=
  ⟨alone (by decide +kernel), ⟨single_of (by decide +kernel), by decide +kernel⟩, ⟨single_of (by decide +kernel), by decide +kernel⟩, alone (by decide +kernel)⟩

/-- Thread 0 in its handler. -/
def wHandler : Thread := { wData with faults := { wData.faults with inh := true, fpc := 65536#64 } }

theorem witness_FaultEntryAndReturn :
    AloneOpen (.trap plainHdr { off := 5#32 }) wData ∧
    (AloneOpen (.bkpt plainHdr { off := 0#32 }) wData ∧ ((eState wData).gang 0).any (·.debug) = false) ∧
    (Single (.bkpt plainHdr { off := 0#32 })
        { wState (.bkpt plainHdr { off := 0#32 }) wData with gangs := [(0, { fetchGang with debug := true })] }
        (wIssue (.bkpt plainHdr { off := 0#32 })) 0 wData) ∧
    (Alone (.iret plainHdr { b := .imm 1#32 }) wHandler ∧ (eState wHandler).isCode 0 (iretTarget wHandler (.imm 1#32)) = true ∧
      wHandler.choice.cancel = false ∧ wHandler.missed = none) ∧
    AloneOpen (.iret plainHdr { b := .imm 1#32 }) wData :=
  ⟨aloneOpen (by decide +kernel), ⟨aloneOpen (by decide +kernel), by decide +kernel⟩, single_of (by decide +kernel), ⟨alone (by decide +kernel), by decide +kernel⟩,
    aloneOpen (by decide +kernel)⟩

theorem witness_BandStopsWithoutAHandler :
    (Alone (.trap plainHdr { off := 0#32 }) { wData with hnd := 0#64 } ∧ (eState wData).gang 0 = some fetchGang ∧
      (eState wData).job 0 = some wJob ∧ wJob.stop = none ∧ (eState wData).bandStopped wData = false) ∧
    Alone (.trap plainHdr { off := 0#32 }) wHandler :=
  ⟨⟨alone (by decide +kernel), rfl, rfl, rfl, by decide +kernel⟩, alone (by decide +kernel)⟩

theorem witness_ServiceCallWaitsForItsReply :
    (Alone (.svc plainHdr { d := 1#9, n := 7#16 }) wData ∧ (eState wData).jobOf 0 = some wJob ∧ wData.inSection = false ∧
      (eState wData).inspectable 0 .none 5 = true) ∧
    (eState { wData with hold := .wait (.svc 1#9) }).thread 0 = some { wData with hold := .wait (.svc 1#9) } :=
  ⟨⟨alone (by decide +kernel), by decide +kernel⟩, rfl⟩

/-! ## Witnesses: collectives and memory -/

/-- Thread 0 alone is a whole crew. -/
theorem wholeCrew {i : Instr} {th : Thread} (h : singleOk i (wState i th) (wIssue i) 0 th = true) (he : th.hold ≠ .exited)
    (hl : th.longs = []) : WholeCrew i (wState i th) (wIssue i) 0 := by
  refine ⟨aloneReady h, rfl, ?_, by simp [wIssue], rfl, ?_⟩
  · intro t
    constructor
    · intro ht; rw [wIssue, List.mem_singleton] at ht; subst ht; exact ⟨rfl, th, rfl, he⟩
    · rintro ⟨-, a, ha, -⟩; rw [(only_thread ha).1]; simp [wIssue]
  · intro t _ a ha o ho; rw [(only_thread ha).2, hl] at ho; cases ho

theorem witness_ShuffleReadsTheSourceLane :
    WholeCrew (.shflUp plainHdr { d := 1#9, a := 2#9, b := .imm 0xFFFFFFFF#32 })
      (wState (.shflUp plainHdr { d := 1#9, a := 2#9, b := .imm 0xFFFFFFFF#32 }) wData)
      (wIssue (.shflUp plainHdr { d := 1#9, a := 2#9, b := .imm 0xFFFFFFFF#32 })) 0 :=
  wholeCrew (by decide +kernel) (by decide) rfl

theorem witness_VoteCombinesThePredicates :
    WholeCrew (.voteBallot plainHdr { d := 1#9, pa := 7#3 }) (wState (.voteBallot plainHdr { d := 1#9, pa := 7#3 }) wData)
      (wIssue (.voteBallot plainHdr { d := 1#9, pa := 7#3 })) 0 := wholeCrew (by decide +kernel) (by decide) rfl

theorem witness_ReduceScanMatchElect :
    WholeCrew (.cscan plainHdr { ty := .s32, op := .fadd, d := 1#9, b := .reg 4#9 })
      (wState (.cscan plainHdr { ty := .s32, op := .fadd, d := 1#9, b := .reg 4#9 }) wData)
      (wIssue (.cscan plainHdr { ty := .s32, op := .fadd, d := 1#9, b := .reg 4#9 })) 0 :=
  wholeCrew (by decide +kernel) (by decide) rfl

/-- A load of a word at a register's address. -/
def wLd (sp : Space) (off : BitVec 32) : MemArgs := { space := sp, width := .w32, hint := 0#2, d := 1#9, a := .reg 8#9, off := off }

/-- Thread 0 with a pair that names an address. -/
def wAt (a : Nat) : Thread := wThread [(8, BitVec.ofNat 32 a)]

def accAt (sp : Space) (a n : Nat) : Access := { space := sp, region := 0, addr := a, size := n, issued := BitVec.ofNat 64 a }

theorem witness_AddressChecksRaiseTheirFaults :
    (AloneOpen (.ld plainHdr (wLd .priv 4#32)) (wAt 1020) ∧ (wAt 1020).inSection = false ∧
      operandAddress (.ld plainHdr (wLd .priv 4#32)) = some (.priv, .reg 8#9, 4#32, 4) ∧
      (ruleEa (wAt 1020) .priv (.reg 8#9) 4#32).toNat = 1024 ∧ (eState (wAt 1020)).privBytes 0 = 1024) ∧
    (AloneOpen (.ld plainHdr (wLd .lag 2#32)) (wAt 64) ∧ (ruleEa (wAt 64) .lag (.reg 8#9) 2#32).toNat % 4 ≠ 0 ∧
      (ruleEa (wAt 64) .lag (.reg 8#9) 2#32).toNat < ((eState (wAt 64)).part 0).size * 2 ^ 27) :=
  ⟨⟨aloneOpen (by decide +kernel), by decide +kernel⟩, ⟨aloneOpen (by decide +kernel), by decide +kernel⟩⟩

theorem witness_LoadsTakeAndBindTheirBytes_issue :
    (Alone (.ld plainHdr (wLd .scr 4#32)) (wAt 64) ∧
      LoadPasses (.ld plainHdr (wLd .scr 4#32)) (wState (.ld plainHdr (wLd .scr 4#32)) (wAt 64)) (wIssue (.ld plainHdr (wLd .scr 4#32))) 0 (wAt 64) .scr
        (ruleEa (wAt 64) .scr (.reg 8#9) 4#32) 4 0#2 (accAt .scr 68 4) none) ∧
    (Alone (.ldAfter plainHdr (wLd .glb 4#32)) (wAt 0x20000) ∧
      LoadPasses (.ldAfter plainHdr (wLd .glb 4#32)) (wState (.ldAfter plainHdr (wLd .glb 4#32)) (wAt 0x20000)) (wIssue (.ldAfter plainHdr (wLd .glb 4#32))) 0
        (wAt 0x20000) .glb (ruleEa (wAt 0x20000) .glb (.reg 8#9) 4#32) 4 0#2 (accAt .glb 0x20004 4) (some wPageU)) ∧
    (Alone (.ldf plainHdr { width := .w32, d := 1#9, a := 8#9, e := 3#32 }) (wAt 0x30040) ∧
      LoadPasses (.ldf plainHdr { width := .w32, d := 1#9, a := 8#9, e := 3#32 })
        (wState (.ldf plainHdr { width := .w32, d := 1#9, a := 8#9, e := 3#32 }) (wAt 0x30040))
        (wIssue (.ldf plainHdr { width := .w32, d := 1#9, a := 8#9, e := 3#32 })) 0 (wAt 0x30040) .glb
        ((wAt 0x30040).pair 8) 64 0#2 (accAt .glb 0x30040 64) (some wPageC) ∧
      elementFault (entryOf (wJob.image 0 (pteFmt wPageC))) (pteGeom wPageC).toNat 3 0x30040#64 = none) :=
  ⟨⟨alone (by decide +kernel), by decide +kernel, rfl, by decide +kernel, by decide +kernel⟩,
    ⟨alone (by decide +kernel), by decide +kernel, ⟨wPageU, rfl, by decide +kernel⟩, by decide +kernel, by decide +kernel⟩,
    ⟨alone (by decide +kernel), ⟨by decide +kernel, ⟨wPageC, rfl, by decide +kernel⟩, by decide +kernel, by decide +kernel⟩,
      by decide +kernel⟩⟩

/-- The load of thread 0 that may bind, of an address of a space, with the bytes that it had of its own. -/
def wLoad (acc : Access) (own : List OwnBytes) : Outstanding :=
  { order := 0, pc := 65536#56, word := 0#96, opa := 0#64, opb := 0#64, left := 0, kind := .load acc .w32 1#9 false true .raw own }

def wLoads (acc : Access) (own : List OwnBytes) : Thread := { wData with longs := [wLoad acc own] }

theorem binds (acc : Access) (own : List OwnBytes) (h1 : acc.size = 4) (h2 : acc.addr % acc.size = 0) :
    Binds (eState (wLoads acc own)) 0 (wLoads acc own) (wLoad acc own) acc .w32 1#9 false true own :=
  ⟨rfl, rfl, rfl, h1, h2, rfl, (fun f h => by cases h), show Sparse.wf wData.regs = true by decide⟩

/-- Four bytes of lane-private memory at 8, fixed as the load issued. -/
def wOwn : OwnBytes := { seq := none, data := 0#512, mask := 15 * 2 ^ 8 }

/-- A line of the cacheable page in the core's L1. -/
def wLine (own : Bool) (grant : BitVec 64) : L1Line :=
  { asid := 5, line := 0x30040 / 64, data := 7#512, pte := wPageC, owned := own, grant := grant, poison := false }

def lState (th : Thread) (l : L1Line) : State := { eState th with cores := [(0, { Core.reset with l1 := [l] })] }

theorem witness_LoadsTakeAndBindTheirBytes_bind :
    ((eState (wLoads (accAt .lag 64 4) [])).accessAbsent 0 (accAt .lag 64 4) none true = false ∧
      (eState (wLoads (accAt .lag 64 4) [])).bankPoisoned (.lag 0) 64 4 = false ∧
      (let s := eState (wLoads (accAt .lag 64 4) []); s.affordsFor 0 (s.loadCost 0 (accAt .lag 64 4) none 0) = true)) ∧
    (∀ i, i < 4 → ((wLoads (accAt .priv 8 4) [wOwn]).ownStanding [wOwn]).2.testBit (8 + i) = true) ∧
    ((lState (wLoads (accAt .glb 0x30040 4) []) (wLine false 0#64)).accessAttrs 0 (accAt .glb 0x30040 4) = some (some wPageC) ∧
      (lState (wLoads (accAt .glb 0x30040 4) []) (wLine false 0#64)).loadStalled 0 (accAt .glb 0x30040 4) = false ∧
      (lState (wLoads (accAt .glb 0x30040 4) []) (wLine false 0#64)).accessAbsent 0 (accAt .glb 0x30040 4) (some wPageC) true = false ∧
      cacheable wPart 5 0x30040 wPageC = true ∧
      (lState (wLoads (accAt .glb 0x30040 4) []) (wLine false 0#64)).reqSent (.load 0 0) = false ∧
      ((lState (wLoads (accAt .glb 0x30040 4) []) (wLine false 0#64)).core 0).line? 5 (0x30040 / 64) = some (wLine false 0#64)) ∧
    ((eState (wLoads (accAt .glb 0x20008 4) [])).accessAttrs 0 (accAt .glb 0x20008 4) = some (some wPageU) ∧
      (eState (wLoads (accAt .glb 0x20008 4) [])).loadStalled 0 (accAt .glb 0x20008 4) = false ∧
      (eState (wLoads (accAt .glb 0x20008 4) [])).accessAbsent 0 (accAt .glb 0x20008 4) (some wPageU) true = false ∧
      uncached wPageU = true ∧ pteTier wPageU ≠ 2 ∧
      (let s := eState (wLoads (accAt .glb 0x20008 4) []); s.affordsFor 0 (s.loadCost 0 (accAt .glb 0x20008 4) (some wPageU) 0) = true) ∧
      (eState (wLoads (accAt .glb 0x20008 4) [])).linePoisoned (dramKey wPageU 0x20008) = false) := by
  decide +kernel

/-- A store of a word. -/
def wStI (sp : Space) (a : Nat) : Instr := .st plainHdr { wLd sp (BitVec.ofNat 32 a) with a := .zero }

/-- Thread 0 with one choice point, its trail full but for `n` bytes. -/
def wChoice (n : Nat) : Thread := { wData with choice := { wData.choice with cpd := 1#32, trp := BitVec.ofNat 32 (480 - n) } }

theorem witness_StoresWriteOrEnterTheQueue_private :
    (Alone (wStI .priv 1020) wData ∧ Memory.wf wData.priv = true ∧ ((eState wData).privBytes 0 = 1024) ∧ wData.cpd = 0) ∧
    (Alone (wStI .priv 16) (wChoice 16) ∧ (wChoice 16).trp + 16 * 1 + 32 * (wChoice 16).cpd ≤ (wChoice 16).trl) ∧
    (AloneOpen (wStI .priv 16) (wChoice 15) ∧ (wChoice 15).cpd ≠ 0 ∧
      (wChoice 15).trl < (wChoice 15).trp + 16 * 1 + 32 * (wChoice 15).cpd) :=
  ⟨⟨alone (by decide +kernel), by decide +kernel⟩, ⟨alone (by decide +kernel), by decide +kernel⟩,
    ⟨aloneOpen (by decide +kernel), by decide +kernel⟩⟩

/-- Pending stores of thread 0, tentative or not. -/
def wEntry (sp : Space) (a seq : Nat) (tent : Bool) : PsqEntry :=
  { seq := seq, space := sp, region := 0, block := a / 16, data := 9#128, mask := 0xF#16, born := 0, tent := tent, frame := 0,
    order := 0, forced := false, poison := false }

def wFull : Thread := { wChoice 64 with psq := (List.range 32).map fun k => wEntry .scr (64 * k) k true }

theorem witness_StoresWriteOrEnterTheQueue_shared :
    (Alone (wStI .scr 64) wData ∧ (eState wData).checkAddr 0 .scr (ruleEa wData .scr .zero 64#32) 4 = .ok (accAt .scr 64 4) ∧
      wData.mergeInto (accAt .scr 64 4) ((eState wData).mayMerge 0 wData) = none ∧ (eState wData).psqRoom 0 wData = true) ∧
    (Alone (wStI .glb 0x30040) wData ∧ (∃ pte, (eState wData).checkGlb 0 .store (accAt .glb 0x30040 4) = .ok pte) ∧
      (eState wData).l1Hit 0 5 0x30040 = false) ∧
    ((eState { wData with hold := .storeCheck { acc := accAt .glb 0x30040 4, data := 5#128 } }).drainAttrs 0 wPart 5 0x30040
        = some wPageC ∧ (eState wData).permit 0 0 .store 5 0x30040 wPageC = none) ∧
    (AloneOpen (wStI .scr 8192) wFull ∧ (wState (wStI .scr 8192) wFull).checkAddr 0 .scr (ruleEa wFull .scr .zero 8192#32) 4
        = .ok (accAt .scr 8192 4) ∧ wFull.cpd ≠ 0 ∧ wFull.mergeInto (accAt .scr 8192 4) ((eState wFull).mayMerge 0 wFull) = none ∧ 32 ≤ wFull.tentative.length) :=
  ⟨⟨alone (by decide +kernel), by decide +kernel⟩, ⟨alone (by decide +kernel), ⟨wPageC, by decide +kernel⟩, by decide +kernel⟩,
    by decide +kernel, ⟨aloneOpen (by decide +kernel), by decide +kernel⟩⟩

/-- Thread 0 with one pending store. -/
def wPend (sp : Space) (a : Nat) : Thread := { wData with psq := [wEntry sp a 0 false] }

theorem drains (sp : Space) (a : Nat) (h : (eState (wPend sp a)).mayDrain 0 (wPend sp a) (wEntry sp a 0 false) = true)
    (h2 : (wPend sp a).olderOverlap (wEntry sp a 0 false) = false)
    (h3 : (eState (wPend sp a)).affordsFor 0 ((eState (wPend sp a)).drainCost 0 (wEntry sp a 0 false) false) = true)
    (h4 : (eState (wPend sp a)).entryRoom 0 (wEntry sp a 0 false) = true) :
    Drains (eState (wPend sp a)) 0 (wPend sp a) (wEntry sp a 0 false) := ⟨rfl, rfl, rfl, h, h2, rfl, h3, h4⟩

/-- No thread of the small machine waits in a CWAIT that would end. -/
theorem noMerge {s : State} (h : ∀ t a, s.thread t = some a → a = wData ∨ ∃ sp n, a = wPend sp n) : NoMergeOnWake s := by
  intro t a ha ⟨va, v, d, hh⟩
  rcases h t a ha with rfl | ⟨sp, n, rfl⟩ <;> cases hh

theorem noMergePend (sp : Space) (a : Nat) : NoMergeOnWake (eState (wPend sp a)) :=
  noMerge fun _ _ h => .inr ⟨sp, a, (only_thread h).2⟩

theorem noMergeData {s : State} (h : s.threads = [(0, wData)]) : NoMergeOnWake s :=
  noMerge fun t a ha => .inl (only_thread (u := t) (by simpa [State.thread, h] using ha)).2

/-- A drained entry in the core's write-through queue. -/
def wWt : WtEntry := { asid := 5, block := 0x30040 / 16, pte := wPageC, data := 9#128, mask := 0xF#16, thread := 0, vdev := 0, poison := false, second := false }

def wtState : State := { eState wData with cores := [(0, { Core.reset with wtq := [wWt] })] }

theorem witness_EntriesDrainToTheirBytes :
    Drains (eState (wPend .scr 64)) 0 (wPend .scr 64) (wEntry .scr 64 0 false) ∧
    (Drains (eState (wPend .glb 0x20040)) 0 (wPend .glb 0x20040) (wEntry .glb 0x20040 0 false) ∧
      DrainsUnder (eState (wPend .glb 0x20040)) 0 0x20040 wPageU ∧ uncached wPageU = true ∧
      (eState (wPend .glb 0x20040)).lineUnscrubbed (dramKey wPageU 0x20040) = false ∧
      (eState (wPend .glb 0x20040)).inDomain wPageU (dramKey wPageU 0x20040) = true ∧
      NoMergeOnWake (eState (wPend .glb 0x20040))) ∧
    (Drains (eState (wPend .glb 0x30040)) 0 (wPend .glb 0x30040) (wEntry .glb 0x30040 0 false) ∧
      DrainsUnder (eState (wPend .glb 0x30040)) 0 0x30040 wPageC ∧ uncached wPageC = false ∧ isMirror wPart wPageC = false ∧
      ((eState (wPend .glb 0x30040)).core 0).line? 5 (0x30040 / 64) = none) ∧
    ((wtState.core 0).wtq = [wWt] ∧ remapOf (wtState.part (wtState.partOf 0)) 5 0x30040 = none ∧
      wtState.queueAffords 0 wWt = true ∧ wtState.dir? 5 (0x30040 / 64) = none ∧
      wtState.lineUnscrubbed (dramKey wPageC 0x30040) = false ∧ wtState.inDomain wPageC (dramKey wPageC 0x30040) = true ∧
      (wtState.mem.l2.filter fun x => x.slice == wPart.home (0x30040 / 64)).length < 65536 ∧
      (wtState.reachHome 0 (.head 0) wPart 5 0x30040 wPageC (blockInLine wWt.block wWt.data wWt.mask).2 0 (some 0)).1 = true) ∧
    NoMergeOnWake wtState :=
  ⟨drains _ _ (by decide +kernel) (by decide +kernel) (by decide +kernel) (by decide +kernel),
    ⟨drains _ _ (by decide +kernel) (by decide +kernel) (by decide +kernel) (by decide +kernel),
      ⟨by decide +kernel, by decide +kernel, by decide +kernel, by decide +kernel, by decide +kernel⟩, by decide +kernel,
      by decide +kernel, by decide +kernel, noMergePend _ _⟩,
    ⟨drains _ _ (by decide +kernel) (by decide +kernel) (by decide +kernel) (by decide +kernel),
      ⟨by decide +kernel, by decide +kernel, by decide +kernel, by decide +kernel, by decide +kernel⟩, by decide +kernel⟩,
    by decide +kernel, noMergeData rfl⟩

/-- A demand for the line that the core holds under a grant. -/
def wDemand : State :=
  let s := lState wData (wLine false 1#64)
  { s with mem := { s.mem with demands := [⟨0, 5, 0x30040 / 64⟩] } }

/-- An update that die 1 owes, or has received and not acknowledged. -/
def wUpdate (todo : List Nat) : MirrorUpdate :=
  { asid := 5, line := 0x30040 / 64, part := 0, data := 7#512, poison := false, atomic := false, todo := todo, unacked := [1], writer := 0, job := none }

/-- The demand of core 1, whose copy the core's own one outlives, and one for a line with no grant. -/
def wShared : State :=
  let s := lState wData (wLine false 1#64)
  { s with
    cores := s.cores ++ [(1, { Core.reset with l1 := [wLine false 2#64] })]
    mem := { s.mem with
      demands := [⟨1, 5, 0x30040 / 64⟩]
      dir := [{ asid := 5, line := 0x30040 / 64, state := .priv, sharers := [0, 1], writers := [] }] } }

def wIdleDemand : State :=
  let s := lState wData (wLine false 0#64)
  { s with mem := { s.mem with demands := [⟨0, 5, 0x30040 / 64⟩] } }

def wMirror (todo : List Nat) : State := { eState wData with mem := { wMem with updates := [(0, wUpdate todo)] } }

/-- Thread 0 watching the cacheable line. -/
def wWatching : Thread := { wData with watch := some { space := .glb, line := 5 * 2 ^ 50 + 0x30040 / 64, overflow := false, events := [] } }

theorem witness_CoherenceStepsMoveOneLine :
    (((lState wData (wLine false 1#64)).core 0).line? 5 (0x30040 / 64) = some (wLine false 1#64) ∧ 0x30040 / 64 < 2 ^ 50) ∧
    ((⟨0, 5, 0x30040 / 64⟩ : Demand) ∈ wDemand.mem.demands ∧ (wDemand.core 0).line? 5 (0x30040 / 64) = some (wLine false 1#64) ∧
      (wLine false 1#64).grant ≠ 0#64 ∧ wDemand.reserveRoom (wDemand.partOfIsle 0) (0x30040 / 64) = true ∧
      wDemand.lineUnscrubbed (dramKey wPageC 0x30040) = false ∧ wDemand.inDomain wPageC (dramKey wPageC 0x30040) = true ∧
      Memory.wf wDemand.mem.dram = true ∧ OtherHolders wDemand 0 5 (0x30040 / 64) = []) ∧
    ((⟨1, 5, 0x30040 / 64⟩ : Demand) ∈ wShared.mem.demands ∧ (wShared.core 1).line? 5 (0x30040 / 64) = some (wLine false 2#64) ∧
      wShared.reserveRoom (wShared.partOfIsle (isleOf 1)) (0x30040 / 64) = true ∧
      wShared.lineUnscrubbed (dramKey wPageC 0x30040) = false ∧ wShared.inDomain wPageC (dramKey wPageC 0x30040) = true ∧
      Memory.wf wShared.mem.dram = true ∧ OtherHolders wShared 1 5 (0x30040 / 64) = [0] ∧
      (wShared.core 0).line? 5 (0x30040 / 64) = some (wLine false 1#64)) ∧
    ((⟨0, 5, 0x30040 / 64⟩ : Demand) ∈ wIdleDemand.mem.demands ∧ wIdleDemand.grantOf 0 5 (0x30040 / 64) = 0#64) ∧
    (Tab.get? (wMirror [1]).mem.updates 0 = some (wUpdate [1]) ∧ 1 ∈ (wUpdate [1]).todo ∧
      (wMirror [1]).replicaHeld 0 1 5 (0x30040 / 64) = false ∧ (wMirror [1]).oldestUpdate (wUpdate [1]) 1 = some 0 ∧
      1 ∉ (wMirror [1]).fw.reset ∧ 1 ∉ (wMirror [1]).fw.dead) ∧
    (Tab.get? (wMirror []).mem.updates 0 = some (wUpdate []) ∧ 1 ∉ (wUpdate []).todo) ∧
    (((lState wWatching (wLine false 0#64)).core 0).line? 5 (0x30040 / 64) = some (wLine false 0#64) ∧
      Tab.wf (lState wWatching (wLine false 0#64)).threads = true ∧
      (lState wWatching (wLine false 0#64)).thread 0 = some wWatching) := by
  decide +kernel

theorem witness_CoherenceStepsMoveOneLine_quiet :
    NoMergeOnWake wDemand ∧ NoMergeOnWake wShared ∧ NoMergeOnWake wIdleDemand :=
  ⟨noMergeData rfl, noMergeData rfl, noMergeData rfl⟩

/-- A walk that thread 0 waits for, with the given leaf or none in the tables of its context. -/
def wWalk : Walk := { isle := 0, part := 0, asid := 5, va := 0x20000, waiters := [0] }

def wWalker (leaf : DWord) : State :=
  let e (a : Nat) : Nat := 1 + 3 * 2 ^ 4 + a
  let m := Memory.writeNat (Memory.writeNat (Memory.writeNat (Memory.writeNat [] 0x100000 8 (e 0x200000)) 0x200000 8 (e 0x300000))
    0x300000 8 (e 0x400000)) 0x400010 8 leaf.toNat
  { eState { wData with hold := .walking 3 0x20000 false } with
    parts := [(0, { wPart with vdevs := [(0, { desc := 1#192, asid := 5, root := 0x100000 })] })]
    mem := { wMem with tlb := [], dram := m, walks := [(3, wWalk)] } }

/-- Thread 0 parked on the load of its last word. -/
def wParked (fetch : Bool) : Thread :=
  { wData with hold := .parked 0x20000 fetch, last := (encode (.ld plainHdr (wLd .glb 0#32))).getD 0#96 }

def wScrub : State := { eState wData with mem := { wMem with unscrubbed := [{ page := 2, lines := [2048], started := true }] } }

theorem witness_WalksEndInLeafParkOrStop :
    (Tab.get? (wWalker wPageU).mem.walks 3 = some wWalk ∧ (wWalker wPageU).walkLeaf wWalk = some wPageU ∧
      physExists (wWalker wPageU).caps wPageU 0x20000 = true ∧ isMirror ((wWalker wPageU).part 0) wPageU = false ∧ (wWalker wPageU).thread 0 = some { wData with hold := .walking 3 0x20000 false }) ∧
    (wWalker 0#64).walkLeaf wWalk = none ∧
    ((wWalker (wPageU + 0x7FFFFFFF#64 * 2 ^ 25)).walkLeaf wWalk = some (wPageU + 0x7FFFFFFF#64 * 2 ^ 25) ∧
      physExists (wWalker 0#64).caps (wPageU + 0x7FFFFFFF#64 * 2 ^ 25) 0x20000 = false) ∧
    (eState (wParked true)).thread 0 = some (wParked true) ∧
    (deliverOk (eState (wParked false)) (wParked false) = true ∧
      decode ((eState (wParked false)).regCount 0) (wParked false).last = .ok (.ld plainHdr (wLd .glb 0#32))) ∧
    (wScrub.mem.unscrubbed.find? (fun u => u.page == 2 && u.started)).isSome = true := by
  decide +kernel

/-- STF of FP32 bits into element 3 of a line. -/
def wStf (a : Nat) : Thread := { wAt a with regs := [(1, 0x3F800000#32), (8, BitVec.ofNat 32 a)] }

def wStfI : Instr := .stf plainHdr { width := .w32, d := 1#9, a := 8#9, e := 3#32 }

def wPref (hint : Nat) : Instr := .pref plainHdr { hint := BitVec.ofNat 2 hint, a := .reg 8#9, off := 0#32 }

def wStfHold : Thread := { wData with hold := .finishing (.stf (accAt .glb 0x20040 64) (fixedImage 0) 0#2 3 0x3F800000#64 false) }

def wCinv : Thread := { wAt 0x20000 with regs := [(8, 0x20000#32), (9, 0x01000000#32)] }

theorem witness_FormattedStoresAndCacheInstructions :
    (Alone wStfI (wStf 0x20040) ∧ (eState (wStf 0x20040)).jobOf 0 = some wJob ∧
      ((wState wStfI (wStf 0x20040)).entered wStfI 0 (wStf 0x20040) (wIssue wStfI)).checkAddr 0 .glb ((wStf 0x20040).pair 8) 64
        = .ok (accAt .glb 0x20040 64) ∧
      ((wState wStfI (wStf 0x20040)).entered wStfI 0 (wStf 0x20040) (wIssue wStfI)).checkGlb 0 .store (accAt .glb 0x20040 64)
        = .ok wPageU ∧
      elementFault (entryOf (wJob.image 0 (pteFmt wPageU))) (pteGeom wPageU).toNat 3 0x20040#64 = none ∧
      (wState wStfI (wStf 0x20040)).linePoisoned (dramKey wPageU 0x20040) = false) ∧
    ((eState wStfHold).accessAttrs 0 (accAt .glb 0x20040 64) = some (some wPageU) ∧
      (eState wStfHold).accessLocked 0 (accAt .glb 0x20040 64) = false ∧
      (eState wStfHold).accessAbsent 0 (accAt .glb 0x20040 64) (some wPageU) false = false ∧
      (eState wStfHold).affordsFor 0 ((eState wStfHold).accessCost 0 (accAt .glb 0x20040 64) (some wPageU) false) = true ∧
      wStfHold.longs = [] ∧ wStfHold.psq = [] ∧ ((eState wStfHold).core 0).wtq = [] ∧ (eState wStfHold).stfSent 0 = false ∧
      (eState wStfHold).linePoisoned (dramKey wPageU 0x20040) = false ∧
      (eState wStfHold).lineUnscrubbed (dramKey wPageU 0x20040) = false ∧
      elementFault (entryOf (fixedImage 0)) 0 3 0x20040#64 = none) ∧
    (AloneOpen (.cinvD plainHdr { a := 8#9, len := .imm 64#32 }) { wCinv with regs := [(9, 0x01000000#32)] } ∧
      2 ^ 56 ≤ (({ wCinv with regs := [(9, 0x01000000#32)] } : Thread).pair 8).toNat) ∧
    (Alone (.cinvI plainHdr { a := 8#9, len := .imm 64#32 }) (wAt 0x20000) ∧ ((wAt 0x20000).pair 8).toNat < 2 ^ 56) ∧
    (let s := eState { wData with hold := .finishing (.cinv 2 0x20000 64) }
     s.forceable 0 = true ∧ wData.psq = [] ∧ (s.core 0).wtq = [] ∧ s.mem.updates = [] ∧
      (eState { wData with hold := .finishing (.cinv 0 0x20000 64) }).thread 0
        = some { wData with hold := .finishing (.cinv 0 0x20000 64) }) ∧
    (Alone (wPref 0) (wAt 0x20000) ∧ cacheable wPart 5 0x20000 wPageU = false) ∧
    (Alone (wPref 2) (wAt 0x30040) ∧ cacheable wPart 5 0x30040 wPageC = true ∧
      classify wPart 5 0x30040 wPageC = .leaf wPageC ∧
      (let e := (wState (wPref 2) (wAt 0x30040)).entered (wPref 2) 0 (wAt 0x30040) (wIssue (wPref 2))
       e.checkAddr 0 .glb (ruleEa (wAt 0x30040) .glb (.reg 8#9) 0#32) 1 = .ok (accAt .glb 0x30040 1) ∧
       e.drainAttrs 0 wPart 5 0x30040 = some wPageC ∧ e.permit 0 0 .load 5 0x30040 wPageC = none ∧
       e.loadStalled 0 (accAt .glb 0x30040 1) = false ∧ e.loadRoom 0 (accAt .glb 0x30040 1) (some wPageC) = true ∧
       e.affordsFor 0 (e.accessCost 0 (accAt .glb 0x30040 1) (some wPageC) true) = true)) :=
  ⟨⟨alone (by decide +kernel), by decide +kernel⟩, by decide +kernel, ⟨aloneOpen (by decide +kernel), by decide +kernel⟩,
    ⟨alone (by decide +kernel), by decide +kernel⟩, by decide +kernel, ⟨alone (by decide +kernel), by decide +kernel⟩,
    ⟨alone (by decide +kernel), by decide +kernel⟩⟩

/-- No thread with a hold of another kind waits in a CWAIT. -/
theorem noMergeHold {th : Thread} (h : ∀ va v d, th.hold ≠ .wait (.cwait va v d)) : NoMergeOnWake (eState th) := by
  intro t a ha ⟨va, v, d, hh⟩
  rw [(only_thread ha).2] at hh
  exact absurd hh (h va v d)

theorem witness_FormattedStoresAndCacheInstructions_quiet : NoMergeOnWake (eState wStfHold) :=
  noMergeHold fun _ _ _ h => by cases h

/-- An atomic addition to a scratchpad word, and a compare and swap in memory. -/
def wAtom (sp : Space) : AtomArgs :=
  { space := sp, width := .w32, scope := 1#3, hint := 0#2, d := 1#9, a := .reg 8#9, b := 2#9, off := 0#32 }

/-- Thread 0 inside an elided section. -/
def wSection : Thread := { wChoice 64 with choice := { (wChoice 64).choice with elide := some { lock := 0, marked := [] } } }

def wAtomic (acc : Access) : Outstanding :=
  { order := 0, pc := 65536#56, word := 0#96, opa := 0#64, opb := 0#64, left := 0, kind := .atomic acc (.op .add) 5#64 1#3 (some 1#9) }

theorem performs (acc : Access) (h1 : acc.size = 4 ∨ acc.size = 8) (h2 : acc.addr % acc.size = 0) :
    Performs (eState { wData with longs := [wAtomic acc] }) 0 { wData with longs := [wAtomic acc] } (wAtomic acc) acc (.op .add)
      5#64 1#3 (some 1#9) :=
  ⟨rfl, rfl, rfl, rfl, h1, h2, rfl, ⟨rfl, rfl⟩, (fun f h => by cases h), show Sparse.wf wData.regs = true by decide,
    fun u a h => by rw [(only_thread h).2]; rfl⟩

theorem witness_AtomicsStartAndPerform :
    (Alone (.atomAdd plainHdr (wAtom .scr)) (wAt 64) ∧ (wAt 64).inSection = false ∧
      (eState (wAt 64)).checkAddr 0 .scr (ruleEa (wAt 64) .scr (.reg 8#9) 0#32) 4 = .ok (accAt .scr 64 4) ∧
      (eState (wAt 64)).atomicPoison 0 (accAt .scr 64 4) none = none) ∧
    (Alone (.atomcas plainHdr (wAtom .glb)) (wAt 0x20000) ∧ (eState (wAt 0x20000)).checkGlb 0 .atomic (accAt .glb 0x20000 4) = .ok wPageU ∧
      (eState (wAt 0x20000)).atomicPoison 0 (accAt .glb 0x20000 4) (some wPageU) = none) ∧
    Alone (.atomAdd plainHdr (wAtom .scr)) wSection ∧
    Performs (eState { wData with longs := [wAtomic (accAt .lag 64 4)] }) 0 { wData with longs := [wAtomic (accAt .lag 64 4)] }
      (wAtomic (accAt .lag 64 4)) (accAt .lag 64 4) (.op .add) 5#64 1#3 (some 1#9) ∧
    (let th : Thread := { wData with longs := [wAtomic (accAt .glb 0x20008 8)] }
     (eState th).accessAttrs 0 (accAt .glb 0x20008 8) = some (some wPageU) ∧ (eState th).accessLocked 0 (accAt .glb 0x20008 8) = false ∧
       (eState th).accessAbsent 0 (accAt .glb 0x20008 8) (some wPageU) false = false ∧
       (eState th).linePoisoned (dramKey wPageU 0x20008) = false ∧ (eState th).lineUnscrubbed (dramKey wPageU 0x20008) = false ∧
       (eState th).inDomain wPageU (dramKey wPageU 0x20008) = true ∧
       (eState th).affordsFor 0 ((eState th).atomicCost 0 0 (accAt .glb 0x20008 8) (some wPageU)) = true) ∧
    (let th : Thread := { wData with longs := [wAtomic (accAt .lag 64 4)] }
     (eState th).affordsFor 0 ((eState th).atomicCost 0 0 (accAt .lag 64 4) none) = true) :=
  ⟨⟨alone (by decide +kernel), by decide +kernel⟩, ⟨alone (by decide +kernel), by decide +kernel⟩, alone (by decide +kernel),
    performs _ (.inl rfl) rfl, by decide +kernel, by decide +kernel⟩

theorem witness_AtomicsStartAndPerform_glb :
    Performs (eState { wData with longs := [wAtomic (accAt .glb 0x20008 8)] }) 0 { wData with longs := [wAtomic (accAt .glb 0x20008 8)] }
      (wAtomic (accAt .glb 0x20008 8)) (accAt .glb 0x20008 8) (.op .add) 5#64 1#3 (some 1#9) ∧
    NoMergeOnWake (eState { wData with longs := [wAtomic (accAt .glb 0x20008 8)] }) :=
  ⟨performs _ (.inr rfl) rfl, noMergeHold fun _ _ _ h => by cases h⟩

/-! ## Witnesses: inspections, watches, barriers and sections -/

/-- An inspection of thread 0's own gang, with nothing left to cut. -/
def wInsp (todo : List Nat) : Insp :=
  { observer := 0, part := 0, scope := 4, range := none, todo := todo, entries := [], cores := [], forced := 0, reached := 1,
    tent := false, silent := false, engine := false }

def wInspO : Outstanding := { order := 0, pc := 65536#56, word := 0#96, opa := 0#64, opb := 0#64, left := 0, kind := .insp 6 1#9 }

def wInspState (todo : List Nat) : State := { eState { wData with longs := [wInspO] } with insps := [(6, wInsp todo)] }

theorem witness_InspectionsBeginCutAndEnd :
    (Alone (.inspT plainHdr { scope := 1#3, d := 1#9, a := 8#9 }) wData ∧ ¬ BadHandle (eState wData) 0 (wData.reg 8) ∧
      (eState wData).isleAbsent 0 = false) ∧
    (Alone (.inspG plainHdr { scope := 1#3, d := 1#9, a := 8#9 }) (wAt 32) ∧ ¬ BadHandle (eState wData) 0 ((wAt 32).reg 8)) ∧
    (Alone (.inspB plainHdr { scope := 1#3, d := 1#9, a := 8#9 }) wData ∧ ((eState wData).part 0).holdsIsle 0 = true) ∧
    Alone (.inspA plainHdr { space := .glb, scope := 0#3, d := 1#9, a := 8#9, len := .imm 0#32 }) (wAt 0x20000) ∧
    Alone (.inspS plainHdr { d := 1#9 }) wData ∧
    (AloneOpen (.inspT plainHdr { scope := 1#3, d := 1#9, a := 8#9 }) (wAt (192 * 32)) ∧
      192 ≤ ((wAt (192 * 32)).reg 8).toNat / 32 % 256) ∧
    AloneOpen (.inspG plainHdr { scope := 1#3, d := 1#9, a := 8#9 }) (wAt 1) ∧
    (AloneOpen (.inspB plainHdr { scope := 1#3, d := 1#9, a := 8#9 }) (wAt 8192) ∧ ((eState wData).part 0).holdsIsle 1 = false) ∧
    (Tab.get? (wInspState [0]).insps 6 = some (wInsp [0]) ∧ 0 ∈ (wInsp [0]).todo) ∧
    (Tab.get? (wInspState []).insps 6 = some (wInsp []) ∧ (wInsp []).observer = 0 ∧
      ((wInspState []).thread 0).map (·.longs) = some [wInspO] ∧ wInspO.kind = .insp 6 1#9 ∧
      (wInspState []).mem.updates = [] ∧ (wInspState []).net.conns = [] ∧ (wInspState []).inspCores (wInsp []) = [] ∧
      ((wInspState []).core 0).wtq = [] ∧ ((wInspState []).core 0).l1 = []) :=
  ⟨⟨alone (by decide +kernel), by unfold BadHandle; decide +kernel⟩, ⟨alone (by decide +kernel), by unfold BadHandle; decide +kernel⟩,
    ⟨alone (by decide +kernel), by decide +kernel⟩, alone (by decide +kernel), alone (by decide +kernel),
    ⟨aloneOpen (by decide +kernel), by decide +kernel⟩, aloneOpen (by decide +kernel),
    ⟨aloneOpen (by decide +kernel), by decide +kernel⟩, by decide +kernel, by decide +kernel⟩

def wMonLag : Instr := .monitor plainHdr { space := .lag, a := .reg 8#9, off := 0#32 }
def wMonGlb : Instr := .monitor plainHdr { space := .glb, a := .reg 8#9, off := 0#32 }

def wWaiter (n : Nat) : Thread :=
  { wWatching with longs := [{ order := 0, pc := 65536#56, word := 0#96, opa := 0#64, opb := 0#64, left := 0, kind := .mwait 1#9 (some n) }] }

/-- A wait that two events of one cycle end. -/
def wSeen : Thread :=
  { wWaiter 1 with watch := some { space := .glb, line := 5 * 2 ^ 50 + 0x30040 / 64, overflow := false, events := [1, 0] } }

theorem witness_WatchesAreArmedAndWaitedFor :
    (Alone (.monitor plainHdr { space := .lag, a := .reg 8#9, off := 0#32 }) (wAt 65) ∧
      (eState (wAt 65)).checkAddr 0 .lag (ruleEa (wAt 65) .lag (.reg 8#9) 0#32) 1 = .ok (accAt .lag 65 1) ∧
      (let e := (wState wMonLag (wAt 65)).entered wMonLag 0 (wAt 65) (wIssue wMonLag)
       e.affordsFor 0 (e.monitorCost 0 (accAt .lag 65 1) none) = true)) ∧
    (Alone (.monitor plainHdr { space := .glb, a := .reg 8#9, off := 0#32 }) (wAt 0x30041) ∧
      (eState (wAt 0)).checkGlb 0 .load (accAt .glb 0x30041 1) = .ok wPageC ∧
      (let e := (wState wMonGlb (wAt 0x30041)).entered wMonGlb 0 (wAt 0x30041) (wIssue wMonGlb)
       e.loadStalled 0 (accAt .glb 0x30041 1) = false ∧ e.loadRoom 0 (accAt .glb 0x30041 1) (some wPageC) = true ∧
       e.affordsFor 0 (e.monitorCost 0 (accAt .glb 0x30041 1) (some wPageC)) = true)) ∧
    Alone (.mwait plainHdr { d := 1#9, b := .imm 0#32 }) wWatching ∧
    ((wSeen.watch.map (·.events)) = some [1, 0] ∧ Tab.wf (eState wSeen).threads = true ∧ Sparse.wf wSeen.regs = true ∧
      (eState wSeen).thread 0 = some wSeen) ∧
    (eState (wWaiter 0)).thread 0 = some (wWaiter 0) ∧ (eState (wWaiter 1)).thread 0 = some (wWaiter 1) :=
  ⟨⟨alone (by decide +kernel), by decide +kernel⟩, ⟨alone (by decide +kernel), by decide +kernel⟩, alone (by decide +kernel),
    by decide +kernel, rfl, rfl⟩

theorem objectAt (i : Instr) (a : Nat)
    (h : ((wState i (wAt a)).entered i 0 (wAt a) (wIssue i)).checkAddr 0 .scr (ruleEa (wAt a) .scr (.reg 8#9) 0#32) 16
      = .ok (accAt .scr a 16)) : ObjectAt i (wState i (wAt a)) (wIssue i) 0 (wAt a) .scr 8#9 (accAt .scr a 16) :=
  ⟨.inl rfl, h, rfl, fun _ => rfl⟩

def wBara (n : Word) : Instr := .bara plainHdr { space := .scr, d := 1#9, a := 8#9, n := .imm n }
def wBarinit (n : Word) : Instr := .barinit plainHdr { space := .scr, a := 8#9, n := .imm n }
def wBarw : Instr := .barw plainHdr { space := .scr, target := .gang, scope := 1#3, d := 1#9, a := 8#9, b := 3#9 }

theorem witness_BarrierArrives :
    (Alone (wBara 1#32) (wAt 64) ∧ ObjectAt (wBara 1#32) (wState (wBara 1#32) (wAt 64)) (wIssue (wBara 1#32)) 0 (wAt 64) .scr 8#9 (accAt .scr 64 16) ∧
      (let s := wState (wBara 1#32) (wAt 64); s.affordsFor 0 (s.accessCost 0 (accAt .scr 64 16) none false) = true)) ∧
    (AloneOpen (wBara 0#32) (wAt 64) ∧
      ∃ acc, (wState (wBara 0#32) (wAt 64)).checkAddr 0 .scr (ruleEa (wAt 64) .scr (.reg 8#9) 0#32) 16 = .ok acc) :=
  ⟨⟨alone (by decide +kernel), objectAt _ _ (by decide +kernel), by decide +kernel⟩, aloneOpen (by decide +kernel),
    accAt .scr 64 16, by decide +kernel⟩

theorem witness_BarriersInitialiseAndWait :
    (Alone (wBarinit 4#32) (wAt 64) ∧
      ObjectAt (wBarinit 4#32) (wState (wBarinit 4#32) (wAt 64)) (wIssue (wBarinit 4#32)) 0 (wAt 64) .scr 8#9 (accAt .scr 64 16)) ∧
    AloneOpen (wBarinit 0#32) (wAt 64) ∧
    ((eState { wData with hold := .finishing (.barinit (accAt .scr 64 16) 4#32) }).thread 0
        = some { wData with hold := .finishing (.barinit (accAt .scr 64 16) 4#32) } ∧
      (eState wData).gang 0 = some fetchGang ∧ Memory.wf ((eState wData).bankMem (.scr 0)) = true) ∧
    (Alone wBarw (wAt 64) ∧ ObjectAt wBarw (wState wBarw (wAt 64)) (wIssue wBarw) 0 (wAt 64) .scr 8#9 (accAt .scr 64 16) ∧
      Memory.readNat ((wState wBarw (wAt 64)).bankMem (.scr 0)) 72 3 = ((wAt 64).reg 3).toNat % 2 ^ 24) ∧
    (let th : Thread := { wAt 64 with regs := [(3, 1#32), (8, 64#32)] }
     Alone wBarw th ∧ Memory.readNat ((wState wBarw th).bankMem (.scr 0)) 72 3 ≠ (th.reg 3).toNat % 2 ^ 24) :=
  ⟨⟨alone (by decide +kernel), objectAt _ _ (by decide +kernel)⟩, aloneOpen (by decide +kernel), ⟨rfl, rfl, rfl⟩,
    ⟨alone (by decide +kernel), objectAt _ _ (by decide +kernel), by decide +kernel⟩, alone (by decide +kernel), by decide +kernel⟩

def wElide : Instr := .elide plainHdr { d := 1#9, a := 8#9, off := 4#32 }

/-- Thread 0 with an elide frame at depth 1. -/
def wElided : Thread :=
  let th := { wSection with choice := { wSection.choice with trp := 0#32 } }
  th.setFrame 1 { ser := 1, stolen := 0, kind := 1, steal := false, mark := 0, wstart := 0, wlen := 0, cnt := 0, next := 0, trp0 := 0,
                  pv := false, prev := 0, table := 0, aux := 65536 }

/-- Thread 0 with no room for a frame. -/
def wBrim : Thread := let th := wAt 0x30040; { th with choice := { th.choice with trp := 496#32 } }

/-- Thread 0 at the end of its section, with one tentative store to the scratchpad. -/
def wEnding : Thread := { wElided with hold := .finishing .elend, psq := [wEntry .scr 64 0 true] }

theorem commits : Commits (eState wEnding) 0 wEnding :=
  ⟨rfl, rfl, rfl, by decide +kernel, (fun o h => by cases h), by decide +kernel, by decide +kernel, by decide +kernel,
    by decide +kernel, by decide +kernel, by decide +kernel, by decide +kernel, by decide +kernel⟩

/-- The same with its tentative store on the page of a die in reset. -/
def wLost : Thread := { wEnding with psq := [wEntry .glb 0x30040 0 true] }

def wLostState : State := let s := eState wLost; { s with fw := { s.fw with reset := [0] } }

theorem witness_SectionsOpenCommitAndFail :
    (Alone wElide (wAt 0x30040) ∧
      ((wState wElide (wAt 0x30040)).entered wElide 0 (wAt 0x30040) (wIssue wElide)).checkAddr 0 .glb ((wAt 0x30040).pair 8) 4
        = .ok (accAt .glb 0x30040 4) ∧
      ((wState wElide (wAt 0x30040)).entered wElide 0 (wAt 0x30040) (wIssue wElide)).checkGlb 0 .load (accAt .glb 0x30040 4) = .ok wPageC ∧
      (wAt 0x30040).cpd = 0 ∧ (wAt 0x30040).trp + 32 ≤ (wAt 0x30040).trl ∧ cacheable wPart 5 0x30040 wPageC = true ∧
      BindsNow ((wState wElide (wAt 0x30040)).entered wElide 0 (wAt 0x30040) (wIssue wElide)) 0 (wAt 0x30040) (accAt .glb 0x30040 4)
        wPageC) ∧
    (Alone wElide (wAt 0x20000) ∧
      ((wState wElide (wAt 0x20000)).entered wElide 0 (wAt 0x20000) (wIssue wElide)).checkAddr 0 .glb ((wAt 0x20000).pair 8) 4
        = .ok (accAt .glb 0x20000 4) ∧
      ((wState wElide (wAt 0x20000)).entered wElide 0 (wAt 0x20000) (wIssue wElide)).checkGlb 0 .load (accAt .glb 0x20000 4) = .ok wPageU ∧
      cacheable wPart 5 0x20000 wPageU = false ∧ (wAt 0x20000).trp < 2 ^ 18) ∧
    (Alone wElide wElided ∧ wElided.choice.elide.isSome = true ∧ wElided.elideDepth 0 = some 1) ∧
    (Alone wElide (wChoice 64) ∧ (wChoice 64).inSection = false ∧ (wChoice 64).cpd ≠ 0) ∧
    (AloneOpen wElide wBrim ∧ wBrim.cpd = 0 ∧ wBrim.trl < wBrim.trp + 32 ∧
      (wState wElide wBrim).checkAddr 0 .glb (wBrim.pair 8) 4 = .ok (accAt .glb 0x30040 4) ∧
      (wState wElide wBrim).checkGlb 0 .load (accAt .glb 0x30040 4) = .ok wPageC) ∧
    (Alone (.elend plainHdr) wElided ∧ wElided.elideDepth 0 = some 1) ∧
    (AloneOpen (.elend plainHdr) wData ∧ wData.elideDepth 0 = none) ∧
    (Tab.wf wLostState.threads = true ∧ wLostState.thread 0 = some wLost ∧ (wLost.elideDepth 0).isSome = true ∧
      (∀ e ∈ wLost.tentative, wLostState.entryLocked 0 e = false ∧ wLostState.entryMapped 0 e = true) ∧
      wLostState.commitAbsent 0 wLost = true ∧ deliverOk wLostState wLost = true) ∧
    ((eState wElided).thread 0 = some wElided ∧ wElided.choice.elide.isSome = true) ∧
    wData.choice.elide = none :=
  ⟨⟨alone (by decide +kernel), by decide +kernel, by decide +kernel, by decide +kernel, by decide +kernel, by decide +kernel,
      ⟨by decide +kernel, by decide +kernel, by decide +kernel, by decide +kernel⟩⟩,
    ⟨alone (by decide +kernel), by decide +kernel⟩, ⟨alone (by decide +kernel), by decide +kernel⟩,
    ⟨alone (by decide +kernel), by decide +kernel⟩, ⟨aloneOpen (by decide +kernel), by decide +kernel⟩,
    ⟨alone (by decide +kernel), by decide +kernel⟩, ⟨aloneOpen (by decide +kernel), by decide +kernel⟩, by decide +kernel,
    by decide +kernel, rfl⟩

theorem witness_ImplicitInspectionsForceFirst :
    Tab.wf (eState (wPend .glb 0x20040)).threads = true ∧ (eState (wPend .glb 0x20040)).inspectable 0 .gang 4 = true ∧
      (∀ u a, (eState (wPend .glb 0x20040)).thread u = some a → (a.psq.map (·.seq)).Nodup) ∧
      0 ∈ (eState (wPend .glb 0x20040)).inspected 0 .gang :=
  ⟨by decide, by decide +kernel, fun u a h => by rw [(only_thread h).2]; decide, by decide +kernel⟩

/-! ## Witnesses: engines, tiles, pipes and messages -/

/-- The latched group of an instruction, in a state with one core, for the instructions of a core's tables. -/
def cState (i : Instr) (th : Thread) (c : Core) : State := { wState i th with cores := [(0, c)] }

/-- A tile of 32 rows and columns of entry 1 in a space, its base 0. -/
def wTile (space : Nat) : BitVec 512 := BitVec.ofNat 512 (32 * 2 ^ 64 + 32 * 2 ^ 80 + 64 * 2 ^ 96 + space * 2 ^ 128
  + 2 ^ 131 + 2 ^ 132 + 2 ^ 139 + 32 * 2 ^ 160 + 32 * 2 ^ 176)

def wMacro : Macro := { cells := [(0, 0x3F80#16)], poison := false, image := fixedImage 1, rows := 32, desc := wTile 3, k0 := 0, c0 := 0,
                        member := 0, row0 := 0, asid := 5, vdev := 0, gang := 0 }

/-- A core with a tile in slot 0 and a loaded macro. -/
def wCore : Core := { Core.reset with tiles := [(0, { desc := wTile 3, job := 0 })], macros := [(0, wMacro)] }

def wCopy : Instr := .copy plainHdr { kind := .token, target := .none, sc := 0#3, ss := 0#2, ds := 2#2, d := 1#9, a := 10#9, b := 12#9, len := 32#32 }

def wKick (n : Nat) : Instr := .kick plainHdr { kind := .token, target := .none, sc := 0#3, d := 1#9, a := 10#9, n := .imm (BitVec.ofNat 32 n) }

def wTilef : Instr := .tilef plainHdr { kind := .token, target := .none, sc := 0#3, d := 1#9, a := 10#9, b := 12#9 }

def wFabx (red : Bool) : Instr :=
  let x : FabxArgs := { kind := .token, target := .none, sc := 0#3, ss := 0#2, d := 1#9, a := 10#9, b := 8#9, len := 64#32 }
  if red then .fabxRed plainHdr x else .fabxWr plainHdr x

def wMloadb : Instr := .mloadb plainHdr { kind := .token, target := .none, sc := 0#3, d := 1#9, a := 10#9, b := 12#9, k := 32 }

def wMma : Instr := .mma plainHdr { kind := .token, target := .none, sc := 0#3, d := 1#9, a := 8#9 }

theorem cSingle {i : Instr} {th : Thread} (h : singleOk i (cState i th wCore) (wIssue i) 0 th = true) :
    Single i (cState i th wCore) (wIssue i) 0 th := single_of h

theorem sinkOk (i : Instr) (th : Thread) (h : ((cState i th wCore).jobOf 0).isSome = true) (r : Reg) :
    SinkOk (cState i th wCore) 0 th (th.sinkRef .token r 0#3) := ⟨h, rfl⟩

/-- The block of an MMA of one row against one macro, in the scratchpad at 64. -/
def mState : State := { cState wMma (wAt 64) wCore with gangs := [(0, { fetchGang with scratch := Memory.writeNat [] 64 64 1 })] }

def mEntered : State := (mState.entered wMma 0 (wAt 64) (wIssue wMma)).inspectFor 0 .none 4

def mJob : MmaJob := { block := 1#512, tile := wTile 3, image := fixedImage 1, geom := 0#2, cores := [0], insp := none, kb := 0, row := 0, flags := 0,
                       bad := none, free := [] }


theorem witness_RequestsAreAccepted :
    (Single wCopy (cState wCopy wData wCore) (wIssue wCopy) 0 wData ∧ SinkOk (cState wCopy wData wCore) 0 wData (wData.sinkRef .token 1#9 0#3) ∧
      (cState wCopy wData wCore).copyFault 0 0 0 (endSpace 0#2) (endSpace 2#2) (wData.endAddr (endSpace 0#2) 10#9)
        (wData.endAddr (endSpace 2#2) 12#9) 32 = none ∧
      (cState wCopy wData wCore).inspectable 0 .none 4 = true ∧ (cState wCopy wData wCore).engineRoom 0 0 = true) ∧
    (Single (wKick 1024) (cState (wKick 1024) wData wCore) (wIssue (wKick 1024)) 0 wData ∧
      ((cState (wKick 1024) wData wCore).spot 0 0 0 .scr 0 (32 * 1024)).isSome = true) ∧
    AloneOpen (wKick 1025) wData ∧ AloneOpen (wKick 0) wData ∧
    (Single wTilef (cState wTilef wData wCore) (wIssue wTilef) 0 wData ∧ (cState wTilef wData wCore).coopSet 0 0 = some [(0, 0)] ∧
      TileNamed wTilef (cState wTilef wData wCore) (wIssue wTilef) 0 wData 0 (wTile 3) (fixedImage 1) 0 ∧ (Tile.of (wTile 3)).space ≠ 1 ∧
      (entryOf (fixedImage 1)).v = true ∧ perLine (fixedImage 1) 0 = 32 ∧ (Tile.of (wTile 3)).strideOk (fixedImage 1) 0 = true ∧
      0 + 64 * ((32 + 32 - 1) / 32) * 32 ≤ (cState wTilef wData wCore).gangScratch 0) ∧
    (∀ red, Single (wFabx red) (cState (wFabx red) (wAt 0x20000) wCore) (wIssue (wFabx red)) 0 (wAt 0x20000) ∧
      (cState (wFabx red) (wAt 0x20000) wCore).copyFault 0 0 0 .scr .glb ((wAt 0x20000).endAddr .scr 10#9) ((wAt 0x20000).pair 8) 64 = none) ∧
    (Single wMloadb (cState wMloadb wData wCore) (wIssue wMloadb) 0 wData ∧ (cState wMloadb wData wCore).coopSet 0 0 = some [(0, 0)] ∧
      TileNamed wMloadb (cState wMloadb wData wCore) (wIssue wMloadb) 0 wData 0 (wTile 3) (fixedImage 1) 0 ∧
      (entryOf (fixedImage 1)).width ≤ 16 ∧ (entryOf (fixedImage 1)).blk ≠ 1 ∧ (Tile.of (wTile 3)).prows = 32 ∧ (Tile.of (wTile 3)).pcols = 32 ∧
      ((cState wMloadb wData wCore).part 0).bring = false ∧ (cState wMloadb wData wCore).matrixRoom 0 = true) ∧
    (Single wMma mState (wIssue wMma) 0 (wAt 64) ∧
      (mState.entered wMma 0 (wAt 64) (wIssue wMma)).checkAddr 0 .scr (((wAt 64).reg 8).setWidth 64) 64 = .ok (accAt .scr 64 64) ∧
      mState.inspectable 0 .none 4 = true ∧ mState.matrixRoom 0 = true ∧
      BitVec.ofNat 512 (Memory.readNat (mEntered.bankMem (.scr 0)) 64 64) = mJob.block ∧ mEntered.coopSet 0 mJob.setCode = some [(0, 0)] ∧
      mJob.shape true = none ∧ mEntered.tileOf 0 0 mJob.slot = some (wTile 3) ∧
      mEntered.tileFmt 0 (Tile.of (wTile 3)) = .ok (fixedImage 1) 0 ∧ mJob.arow + mJob.mRows ≤ (Tile.of (wTile 3)).prows ∧
      mJob.kLen ≤ (Tile.of (wTile 3)).pcols ∧ mEntered.mmaFault 0 mJob (Tile.of (wTile 3)) 1 = none) := by
  refine ⟨⟨cSingle (by decide +kernel), sinkOk _ _ (by decide +kernel) _, by decide +kernel⟩, ⟨cSingle (by decide +kernel), by decide +kernel⟩,
    aloneOpen (by decide +kernel), aloneOpen (by decide +kernel), ⟨cSingle (by decide +kernel), by decide +kernel, ⟨by decide +kernel, by decide +kernel⟩,
    by decide +kernel⟩, ?_, ⟨cSingle (by decide +kernel), by decide +kernel, ⟨by decide +kernel, by decide +kernel⟩, by decide +kernel⟩,
    ⟨single_of (by decide +kernel), by decide +kernel⟩⟩
  rintro (_ | _) <;> exact ⟨cSingle (by decide +kernel), by decide +kernel⟩

def wMread : Instr := .mread plainHdr { d := 1#9, a := .zero, off := 40 }
def wMwrite : Instr := .mwrite plainHdr { d := 2#9, a := .zero, off := 65535 }
def wMzero (n : Nat) : Instr := .mzero plainHdr { a := .zero, n := BitVec.ofNat 32 n }

/-- Rows 1 to 2 are written by an MMA not yet observed. -/
def wUnseenCore : Core := { wCore with unseen := [{ req := 3, first := 1, rows := 2, token := none, done := false, seen := [] }] }

def wTileh : Instr := .tileh plainHdr { a := 8#9, slot := 5#6 }

/-- A tile descriptor in the scratchpad at 64. -/
def tState : State := { cState wTileh (wAt 64) wCore with
  gangs := [(0, { fetchGang with scratch := Memory.writeNat [] 64 64 (wTile 3).toNat })] }

def wCwait : Instr := .cwait plainHdr { d := 2#9, a := 8#9, b := 4#9 }

theorem witness_TilesCountersAndAccumulators :
    (Single wTileh tState (wIssue wTileh) 0 (wAt 64) ∧ tState.gangOf 0 = some { fetchGang with scratch := Memory.writeNat [] 64 64 (wTile 3).toNat } ∧
      (tState.entered wTileh 0 (wAt 64) (wIssue wTileh)).checkAddr 0 .scr (((wAt 64).reg 8).setWidth 64) 64 = .ok (accAt .scr 64 64) ∧
      Tab.get? (tState.core 0).tiles 5 = none ∧ ((tState.entered wTileh 0 (wAt 64) (wIssue wTileh)).loadNow 0 (accAt .scr 64 64) none false).poison = none ∧
      BitVec.ofNat 512 ((tState.entered wTileh 0 (wAt 64) (wIssue wTileh)).loadNow 0 (accAt .scr 64 64) none false).value = wTile 3 ∧
      tileOffence (wTile 3) = none) ∧
    (Alone wCwait (wAt 0x20000) ∧
      ((wState wCwait (wAt 0x20000)).entered wCwait 0 (wAt 0x20000) (wIssue wCwait)).checkAddr 0 .glb ((wAt 0x20000).pair 8) 8 = .ok (accAt .glb 0x20000 8) ∧
      ((wState wCwait (wAt 0x20000)).entered wCwait 0 (wAt 0x20000) (wIssue wCwait)).checkGlb 0 .load (accAt .glb 0x20000 8) = .ok wPageU ∧
      (let e := (wState wCwait (wAt 0x20000)).entered wCwait 0 (wAt 0x20000) (wIssue wCwait)
       let cost := e.accessCost 0 (accAt .glb 0x20000 8) (some wPageU) false
       e.sliceRoom wPart 5 0x20000 wPageU 255 wPart.primaryDie none = true ∧ e.affordsFor 0 cost = true ∧
         ((e.payFor 0 cost).homeLine 0 5 0x20000 wPageU 255 wPart.primaryDie none).poison = false ∧
         e.inDomain wPageU (dramKey wPageU 0x20000) = true) ∧
      uncached wPageU = true ∧ pteTier wPageU ≠ 2 ∧ (eState (wAt 0x20000)).lineUnscrubbed (dramKey wPageU 0x20000) = false) ∧
    (Ready wMread (cState wMread wData wUnseenCore) (wIssue wMread) ∧ (wData.a32 .zero).toNat + 0 < 65536 ∧
      ¬ RowUnseen (cState wMread wData wUnseenCore) 0 0 ∧ 0 ∉ ((cState wMread wData wUnseenCore).core 0).accPoison) ∧
    (Single wMread (cState wMread wData wUnseenCore) (wIssue wMread) 0 wData ∧ RowUnseen (cState wMread wData wUnseenCore) 0 (40 / 32)) ∧
    (Single wMwrite (cState wMwrite wData wCore) (wIssue wMwrite) 0 wData ∧ Sparse.wf ((cState wMwrite wData wCore).core 0).acc = true) ∧
    Single (wMzero 2048) (cState (wMzero 2048) wData wCore) (wIssue (wMzero 2048)) 0 wData ∧
    AloneOpen (wMzero 2049) wData ∧ AloneOpen (wMzero 0) wData ∧ AloneOpen (.mread plainHdr { d := 1#9, a := .zero, off := 65536 }) wData ∧
    AloneOpen (.mwrite plainHdr { d := 1#9, a := .reg 2#9, off := 1 }) wData :=
  ⟨⟨single_of (by decide +kernel), by decide +kernel⟩, ⟨alone (by decide +kernel), by decide +kernel⟩,
    ⟨ready_of_single (t := 0) (th := wData) (single_of (by decide +kernel)), by decide, by unfold RowUnseen; decide +kernel, by decide +kernel⟩,
    ⟨single_of (by decide +kernel), by unfold RowUnseen; decide +kernel⟩, ⟨cSingle (by decide +kernel), by decide +kernel⟩, cSingle (by decide +kernel),
    aloneOpen (by decide +kernel), aloneOpen (by decide +kernel), aloneOpen (by decide +kernel), aloneOpen (by decide +kernel)⟩

/-- A request of thread 0 into its token register 1. -/
def wReq (op : Nat) (b : ReqBody) (done : List Nat) : Request :=
  { core := 0, gang := 0, thread := 0, pc := 65536#56, job := 0, part := 0, vdev := 0, asid := 5, op := op, shared := false,
    sink := { kind := .token, reg := 1#9, desig := 0#64, scope := 4#3 }, body := b, done := done, started := [], lines := [], handed := [], declined := [], failed := [], abort := none, saved := false }

def rState (r : Request) : State := { cState (.nop plainHdr) { wData with tokens := [(1, .pending 4)] } wCore with reqs := [(4, r)] }

def wCopyJob : CopyJob := { src := 8#64, dst := 16#64, ssp := .scr, dsp := .lag, len := 32 }

def wItem (bad : Bool) : KickItem := { copy := wCopyJob, sink := none, bad := bad, done := none }

/-- An MMA of one row whose A tile stands in the Lagoon. -/
def wWork (kb : Nat) : MmaJob := { mJob with kb := kb }

def wLoadB : ReqBody := .mloadb (wTile 3) (fixedImage 1) 0#2 [(0, 0)] 0 0 0 32

def wCopyReq (done : List Nat) : Request := wReq 0x90 (.copy wCopyJob) done

def wMmaReq (kb : Nat) : Request := wReq 0xA0 (.mma (wWork kb)) []

theorem witness_EnginesWork :
    (Working (rState (wCopyReq [])) 4 (wCopyReq []) ∧ (rState (wCopyReq [])).mayCopy (wCopyReq []) 0 = true ∧
      (let s := rState (wCopyReq [])
       s.mayPay (wCopyReq []) ((s.gatherCost (wCopyReq []) .scr 8 32).add (s.endCost (wCopyReq []) .lag 16)) = true ∧
         s.spot 0 0 0 .scr 8 32 = some (.scr 0, 8) ∧ s.spot 0 0 0 .lag 16 32 = some (.lag 0, 16) ∧
         s.isleAbsent (Bank.isle (.scr 0)) = false ∧ s.isleAbsent (Bank.isle (.lag 0)) = false ∧
         s.bankPoisoned (.scr 0) 8 32 = false ∧ Memory.wf (s.bankMem (.lag 0)) = true)) ∧
    ((wCopyReq [0]).piecesDone 0 wCopyJob.pieces = true ∧ (rState (wCopyReq [0])).unacked 4 = false ∧
      (rState (wCopyReq [0])).mem.updates = []) ∧
    ((rState (wReq 0x91 (.kick 0 1 [wItem true]) [])).unacked 4 = false ∧ [wItem true][0]? = some (wItem true)) ∧
    (wReq 0x91 (.kick 0 1 [wItem false]) [0]).piecesDone (0 * 2 ^ 20) wCopyJob.pieces = true ∧
    (let r := wReq 0xA1 wLoadB []
     let w := ((rState r).loadMacros 4 r (wTile 3) (fixedImage 1) 0#2 [(0, 0)] 0 0 0 32 0 none).1
     Working (rState r) 4 r ∧ (rState r).matrixTurn 4 wLoadB = true ∧ w.wait = false ∧ w.after.mem.updates = []) ∧
    (Working (rState (wMmaReq 0)) 4 (wMmaReq 0) ∧ (wWork 0).kb < (wWork 0).kLen / 32 ∧
      (rState (wMmaReq 0)).matrixTurn 4 (.mma (wWork 0)) = true ∧
      (rState (wMmaReq 0)).writersDone (wWork 0) = true ∧ (Tile.of (wTile 3)).place ≠ .glb ∧ (wWork 0).cplx = false ∧
      (∀ row, row < 32 → (rState (wMmaReq 0)).rowCost (wMmaReq 0) (Tile.of (wTile 3)) 32 row 0 32 = Budget.none) ∧
      (rState (wMmaReq 0)).macroBad (wWork 0) 0 = false ∧ ((rState (wMmaReq 0)).core 0).accPoison = [] ∧
      ((rState (wMmaReq 0)).tileLines 4 (wMmaReq 0) (Tile.of (wTile 3)) 32 0 0 32).refused = false ∧
      ((rState (wMmaReq 0)).tileLines 4 (wMmaReq 0) (Tile.of (wTile 3)) 32 0 0 32).poison = false) ∧
    (wWork 1).kLen / 32 ≤ (wWork 1).kb ∧ (rState (wMmaReq 1)).request 4 = some (wMmaReq 1) :=
  ⟨⟨by unfold Working; decide +kernel, by decide +kernel⟩, by decide +kernel, by decide +kernel, by decide +kernel,
    by unfold Working; decide +kernel, by unfold Working; decide +kernel, by decide +kernel⟩

/-- A band of two gangs with a pipe in the Lagoon, thread 0 in stage `prod`. -/
def wPipe (prod cons : Nat) : Pipe := { valid := true, space := .lag, base := 4096, depth := 4, esize := 2, prod := prod, cons := cons }

def pState (i : Instr) (prod cons : Nat) : State := { wState i (wAt 64) with
  bands := [(0, { job := 0, gangs := [0], pipes := [wPipe prod cons], piped := true })] }

/-- The same with one entry in the pipe. -/
def pFull (i : Instr) : State := { pState i 1 0 with isles := [(0, { Isle.reset with lagoon := [(4160, 1#8)] })] }

def wUse (prod cons : Nat) : PipeUse := { gang := fetchGang, pipe := wPipe prod cons, core := 0, part := 0 }

def wQput : Instr := .qput plainHdr { g := true, d := 1#9, a := 8#9, pipe := 0#2 }
def wQget : Instr := .qget plainHdr { d := 1#9, a := 8#9, pipe := 0#2 }

theorem banks_wf (s : State) (m : Memory) (hm : Memory.wf m = true) (h1 : s.isles = [] ∨ s.isles = [(0, { Isle.reset with lagoon := m })])
    (h2 : s.cores = []) (h3 : s.gangs = [(0, fetchGang)]) (b : Bank) : Memory.wf (s.bankMem b) = true := by
  cases b with
  | scr g =>
    by_cases hg : g = 0
    · subst hg; simp [State.bankMem, State.gang, h3, Tab.get?, fetchGang]; rfl
    · simp [State.bankMem, State.gang, h3, Tab.get?, Ne.symm hg]; rfl
  | clu c => simp [State.bankMem, State.core, h2, Core.reset]; rfl
  | lag n =>
    rcases h1 with h1 | h1
    · simp [State.bankMem, State.isle, h1, Isle.reset]; rfl
    · by_cases hn : n = 0
      · subst hn; simpa [State.bankMem, State.isle, h1, Tab.getD, Tab.get?] using hm
      · simp [State.bankMem, State.isle, h1, Tab.getD, Tab.get?, Ne.symm hn, Isle.reset]; rfl

theorem witness_PipesMoveEntries :
    (Single wQput (pState wQput 0 1) (wIssue wQput) 0 (wAt 64) ∧ PipeAt (pState wQput 0 1) 0 0 (wUse 0 1) 0 ∧
      (pState wQput 0 1).entryFault 0 (wAt 64) (wUse 0 1) 64#64 = none ∧ (pState wQput 0 1).inspectable 0 .gang 4 = true ∧
      ∀ b, Memory.wf ((((pState wQput 0 1).entered wQput 0 (wAt 64) (wIssue wQput)).inspectFor 0 .gang 4).bankMem b) = true) ∧
    (let s1 := ((pState wQput 0 1).entered wQput 0 (wAt 64) (wIssue wQput)).inspectFor 0 .gang 4
     s1.affordsFor 0 (s1.pipeCost 0 (wUse 0 1)) = true) ∧
    (let s1 := ((pFull wQget).entered wQget 0 (wAt 64) (wIssue wQget)).inspectFor 0 .none 4
     s1.affordsFor 0 (s1.pipeCost 0 (wUse 1 0)) = true) ∧
    (Single wQget (pFull wQget) (wIssue wQget) 0 (wAt 64) ∧ PipeAt (pFull wQget) 0 0 (wUse 1 0) 0 ∧
      (pFull wQget).entryFault 0 (wAt 64) (wUse 1 0) 64#64 = none ∧ (pFull wQget).inspectable 0 .none 4 = true ∧
      (∀ b, Memory.wf ((((pFull wQget).entered wQget 0 (wAt 64) (wIssue wQget)).inspectFor 0 .none 4).bankMem b) = true) ∧
      (pFull wQget).pipeTail (wUse 1 0) ≠ (pFull wQget).pipeHead (wUse 1 0)) ∧
    ((pState wQget 1 0).pipeTail (wUse 1 0) = (pState wQget 1 0).pipeHead (wUse 1 0)) ∧
    (Ready (.qcount plainHdr { d := 1#9, pipe := 0#2 }) (pState (.qcount plainHdr { d := 1#9, pipe := 0#2 }) 0 1)
        (wIssue (.qcount plainHdr { d := 1#9, pipe := 0#2 })) ∧
      ((pState (.qcount plainHdr { d := 1#9, pipe := 0#2 }) 0 1).pipeOf 0 0).isSome = true) ∧
    (AloneOpen (.qput plainHdr { g := false, d := 1#9, a := 8#9, pipe := 3#2 }) wData ∧ (eState wData).pipeOf 0 3 = none) ∧
    AloneOpen (.qget plainHdr { d := 1#9, a := 8#9, pipe := 0#2 }) wData ∧ AloneOpen (.qcount plainHdr { d := 1#9, pipe := 0#2 }) wData :=
  ⟨⟨single_of (by decide +kernel), ⟨by decide +kernel, by decide, by decide, by decide⟩, by decide +kernel, by decide +kernel,
      banks_wf _ [] rfl (by decide +kernel) (by decide +kernel) (by decide +kernel)⟩, by decide +kernel, by decide +kernel,
    ⟨single_of (by decide +kernel), ⟨by decide +kernel, by decide, by decide, by decide⟩, by decide +kernel, by decide +kernel,
      banks_wf _ [(4160, 1#8)] (by decide) (by decide +kernel) (by decide +kernel) (by decide +kernel), by decide +kernel⟩, by decide +kernel,
    ⟨ready_of_single (t := 0) (th := wAt 64) (single_of (by decide +kernel)), by decide +kernel⟩, ⟨aloneOpen (by decide +kernel), by decide +kernel⟩,
    aloneOpen (by decide +kernel), aloneOpen (by decide +kernel)⟩

def wMsend : Instr := .msend plainHdr { d := 1#9, a := 10#9, b := 12#9, len := 256#9, tag := 7#16 }

def wMsg (st : Option Bool) : Message := { sender := 0, dst := 0, bytes := [5#8], tag := 7#16, status := st, reg := 1#9, order := 0 }

def wRecv (done : Option (Nat × Nat × Nat)) : Receive := { gang := 0, buffer := 128, size := 256, pick := 7#32, order := 0, done := done }

/-- A message on its way to gang 0, with the posted receives and the overflow of core 0. -/
def gState (st : Option Bool) (posted : Tab Receive) (n : Nat) : State :=
  { cState (.nop plainHdr) { wData with tokens := [(1, .pending (2 ^ 40 + 3))] }
      { Core.reset with posted := posted, overflow := List.replicate n (wMsg none) } with msgs := [(3, wMsg st)] }

def wMpost (n : BitVec 9) : Instr := .mpost plainHdr { d := 1#9, a := 10#9, b := 12#9, size := n }

def wMtest (w : Bool) : Instr := .mtest plainHdr { w := w, d := 2#9, a := 10#9 }

def mtState (w : Bool) (done : Option (Nat × Nat × Nat)) : State :=
  cState (wMtest w) wData { Core.reset with posted := [(0, wRecv done)] }

theorem witness_MessagesAreSentMatchedAndTaken :
    (Alone wMsend wData ∧ (eState wData).spot 0 0 0 .scr 0 256 = some (.scr 0, 0) ∧ (eState wData).badGang 0 0#32 = false ∧
      (eState wData).inspectable 0 .none 4 = true ∧ (eState wData).affordsFor 0 (flitCost 2 0 0) = true) ∧
    AloneOpen (.msend plainHdr { d := 1#9, a := 10#9, b := 12#9, len := 257#9, tag := 7#16 }) wData ∧
    AloneOpen (.msend plainHdr { d := 1#9, a := 10#9, b := 12#9, len := 0#9, tag := 7#16 }) wData ∧
    (Tab.get? (gState none [] 0).msgs 3 = some (wMsg none) ∧ (gState none [] 0).gang 0 = some fetchGang ∧
      (gState none [] 0).messageBehind (wMsg none) = false ∧ Tab.wf ((gState none [] 0).core 0).posted = true ∧ ((gState none [] 0).core 0).receiver (wMsg none) = none ∧
      ((gState none [] 0).core 0).overflow.length = 0) ∧
    ((gState none [(2, wRecv none)] 0).core 0).receiver (wMsg none) = some 2 ∧ ((gState none [] 64).core 0).overflow.length = 64 ∧
    ∃ th, (gState (some true) [] 0).thread 0 = some th ∧ Sparse.wf th.regs = true ∧
      Tab.get? th.tokens 1 = some (.pending (2 ^ 40 + 3)) := by
  refine ⟨⟨alone (by decide +kernel), by decide +kernel⟩, aloneOpen (by decide +kernel), aloneOpen (by decide +kernel), by decide +kernel, by decide +kernel,
    by decide +kernel, { wData with tokens := [(1, .pending (2 ^ 40 + 3))] }, by decide +kernel⟩

theorem witness_MessagesArePostedAndTested :
    (Alone (wMpost 256#9) wData ∧ ((eState wData).spot 0 0 0 .scr 0 256).isSome = true ∧ ((eState wData).core 0).freeReceive = some 0) ∧
    ((Core.reset).freeReceive = some 0 ∧
      ({ Core.reset with posted := (List.range 64).map fun k => (k, wRecv none) } : Core).freeReceive = none) ∧
    (∀ w done, (w, done) ∈ [(false, none), (true, none), (false, some (9, 5, 7))] →
      Single (wMtest w) (mtState w done) (wIssue (wMtest w)) 0 wData ∧
      Tab.get? ((mtState w done).core 0).posted (wData.reg 10).toNat = some (wRecv done) ∧ (wRecv done).gang = wData.gang) ∧
    (AloneOpen (wMtest true) wData ∧ Tab.get? ((eState wData).core 0).posted 0 = none) := by
  refine ⟨⟨alone (by decide +kernel), by decide +kernel⟩, by decide +kernel, ?_, aloneOpen (by decide +kernel), by decide +kernel⟩
  intro w done h
  simp only [List.mem_cons, Prod.mk.injEq, List.not_mem_nil, or_false] at h
  rcases h with ⟨rfl, rfl⟩ | ⟨rfl, rfl⟩ | ⟨rfl, rfl⟩ <;> exact ⟨single_of (by decide +kernel), by decide +kernel⟩

/-! ## Witnesses: job operations and search -/

def wJspawn (n : Word) : Instr := .jspawn plainHdr { d := 1#9, a := 10#9, b := .imm n }

/-- A job with eight records left, of the small machine's card or a card with 3 variants. -/
def wJobLeft : Job := { wJob with card := wCard ||| BitVec.ofNat 512 (8 * 2 ^ 288), next := 3, slots := 2 }

def jState (i : Instr) (j : Job) : State := { wState i wData with jobs := [(0, j)] }

def wJnext : Instr := .jnext plainHdr { d := 2#9 }

def wPosti (n : Word) : Thread := { wData with regs := [(2, n)] }

def wPostiI : Instr := .posti plainHdr { d := 1#9, a := 2#9, b := 4#9 }

theorem witness_JobOperationsReportAndDeal :
    (Alone (wJspawn 0#32) wData ∧ (eState wData).inspectable 0 .none 4 = true ∧ (wData.pair 10).toNat < 2 ^ 56 ∧
      (ruleStream wPart 0 0).isSome = true ∧ ruleStream wPart 0 255 = none) ∧
    Alone (wJspawn 255#32) wData ∧ Alone (wJspawn 256#32) wData ∧
    AloneOpen (.jspawn plainHdr { d := 1#9, a := 2#9, b := .imm 0#32 }) wData ∧
    AloneOpen (.jspawn plainHdr { d := 1#9, a := 8#9, b := .imm 0#32 }) (wAt 63) ∧
    (Single wJnext (jState wJnext wJobLeft) (wIssue wJnext) 0 wData ∧ (jState wJnext wJobLeft).gangOf 0 = some fetchGang ∧
      (jState wJnext wJobLeft).job 0 = some wJobLeft ∧ wJobLeft.remaining ≠ 0 ∧ Tab.wf (jState wJnext wJobLeft).gangs = true) ∧
    (Alone wJnext wData ∧ wJob.remaining = 0) ∧
    (Alone wPostiI (wPosti 0x00FF0000#32) ∧ (eState (wPosti 0x00FF0000#32)).inspectable 0 .none 5 = true) ∧ AloneOpen wPostiI (wPosti 0x01000000#32) :=
  ⟨⟨alone (by decide +kernel), by decide +kernel⟩, alone (by decide +kernel), alone (by decide +kernel), aloneOpen (by decide +kernel), aloneOpen (by decide +kernel),
    ⟨single_of (by decide +kernel), by decide +kernel⟩, ⟨alone (by decide +kernel), by decide +kernel⟩, ⟨alone (by decide +kernel), by decide +kernel⟩,
    aloneOpen (by decide +kernel)⟩

def wTrailw (n : BitVec 6) : Instr := .trailw plainHdr { a := 2#9, n := n }

theorem witness_TrailedRegistersComeBack :
    (Alone (wTrailw 4#6) wData ∧ wData.cpd = 0) ∧
    (Alone (wTrailw 4#6) (wChoice 64) ∧ (wChoice 64).cpd ≠ 0 ∧ (wChoice 64).trp + 16 * 4 + 32 * (wChoice 64).cpd = (wChoice 64).trl ∧
      2 + 4 ≤ 512 ∧ Memory.wf (wChoice 64).priv = true) ∧
    (AloneOpen (wTrailw 4#6) (wChoice 63) ∧ (wChoice 63).trl < (wChoice 63).trp + 16 * 4 + 32 * (wChoice 63).cpd) :=
  ⟨⟨alone (by decide +kernel), by decide +kernel⟩, ⟨alone (by decide +kernel), by decide +kernel⟩, aloneOpen (by decide +kernel), by decide +kernel⟩

/-- A TRY of two alternatives and two registers whose table is the page at 0x20000. -/
def wTry : Instr := .tryAlt plainHdr { cnt := 1#4, wlen := 1#5, steal := true, d := 2#9, off := BitVec.ofNat 32 ((0x20000 - 65536 - 12) / 4) }

/-- A frame of a kind at depth 1, with its window, its alternatives and the table at 0x20000. -/
def wFrame (kind next cnt : Nat) : Frame :=
  { ser := 1, stolen := 0, kind := kind, steal := true, mark := 0, wstart := 2, wlen := 1, cnt := cnt, next := next, trp0 := 0,
    pv := false, prev := 0, table := 0x8000, aux := 65536 }

def wBranch (f : Frame) : Thread :=
  let th : Thread := { wData with choice := { wData.choice with cpd := 1#32, trp := 32#32, fser := 1#32 } }
  th.setFrame 1 f

def qState (i : Instr) (th : Thread) : State := { wState i th with mem := wTable }

def wAcc (n : Nat) : Access := { space := .glb, region := 0, addr := 0x20000 + 4 * n, size := 4, issued := BitVec.ofNat 64 (0x20000 + 4 * n) }

/-- The table's entry 0 leads to the code base; its other entries are zero and lead to the table itself. -/
def entryOk (e : State) (th : Thread) : Bool :=
  e.checkAddr 0 .glb (BitVec.ofNat 64 (0x20000 + 4 * 0)) 4 == .ok (wAcc 0) && e.checkGlb 0 .load (wAcc 0) == .ok wPageU
    && !e.sectionLoadFails 0 (wAcc 0) (some wPageU) 0#2 && !e.loadStalled 0 (wAcc 0) && e.loadRoom 0 (wAcc 0) (some wPageU)
    && e.affordsFor 0 (bindCost e 0 th (wAcc 0) wPageU) && (bindRes e 0 th (wAcc 0) wPageU).poison.isNone
    && tableTarget 0x20000 (bindRes e 0 th (wAcc 0) wPageU) == 65536#56 && (bindRes e 0 th (wAcc 0) wPageU).after.isCode 0 65536

theorem tableEntry {e : State} {th : Thread} (h : entryOk e th = true) : TableEntry e 0 th 0x20000 0 (wAcc 0) wPageU := by
  simp only [entryOk, Bool.and_eq_true, beq_iff_eq, Option.isNone_iff_eq_none, Bool.not_eq_true'] at h
  obtain ⟨⟨⟨⟨⟨⟨⟨⟨h1, h2⟩, h3⟩, h4⟩, h5⟩, h6⟩, h7⟩, h8⟩, h9⟩ := h
  exact ⟨h1, h2, h3, ⟨h4, h5, h6, h7⟩, by rw [h8]; exact h9⟩

def wCut (n : Word) : Instr := .cut plainHdr { b := .imm n }

/-- A FAIL of a branch with alternatives, as its lane enters it. -/
def failEntered (cnt : Nat) : State :=
  (qState (.fail plainHdr) (wBranch (wFrame 0 0 cnt))).entered (.fail plainHdr) 0 (wBranch (wFrame 0 0 cnt)) (wIssue (.fail plainHdr))

theorem witness_ChoicePointsAreMadeAndTaken :
    (Single wTry (qState wTry wData) (wIssue wTry) 0 wData ∧ wData.trp + 16 * 2 + 32 * (wData.cpd + 1) ≤ wData.trl ∧
      wData.choice.fser ≠ 0xFFFFFFFF#32 ∧ TableEntry ((qState wTry wData).entered wTry 0 wData (wIssue wTry)) 0 wData 0x20000 0 (wAcc 0) wPageU ∧
      wData.trl < 2 ^ 18 ∧ wData.tentative.length ≤ 32 ∧ Memory.wf wData.priv = true) ∧
    AloneOpen wTry { wData with choice := { wData.choice with fser := 0xFFFFFFFF#32 } } ∧ AloneOpen wTry (wChoice 64) ∧
    (∀ cnt, cnt = 0 ∨ cnt = 1 →
      Single (.fail plainHdr) (qState (.fail plainHdr) (wBranch (wFrame 0 0 cnt))) (wIssue (.fail plainHdr)) 0 (wBranch (wFrame 0 0 cnt)) ∧
      (wBranch (wFrame 0 0 cnt)).frame 1 = wFrame 0 0 cnt ∧
      ∃ a, (failEntered cnt).thread 0 = some a ∧
        (let u := a.restoreTry 512 1024 (wFrame 0 0 cnt)
         TableEntry ((failEntered cnt).setThread 0 u) 0 u (4 * 0x8000) 0 (wAcc 0) wPageU)) ∧
    (Alone (.fail plainHdr) wElided ∧ wElided.cpd ≠ 0 ∧ (wElided.frame wElided.cpd).kind = 1) ∧
    (Alone (.fail plainHdr) (wBranch (wFrame 2 0 0)) ∧ ((wBranch (wFrame 2 0 0)).frame 1).kind = 2) ∧
    (AloneOpen (.fail plainHdr) wData ∧ wData.cpd = 0) ∧
    (Alone (wCut 0#32) (wBranch (wFrame 0 0 1)) ∧ (wBranch (wFrame 0 0 1)).cpd = 1 ∧ (wBranch (wFrame 0 0 1)).elideDepth 0 = none) ∧
    Alone (wCut 1#32) (wBranch (wFrame 0 0 1)) ∧ (Alone (wCut 0#32) wElided ∧ (wElided.elideDepth 0).isSome = true) ∧
    AloneReady (.mark plainHdr { d := 1#9 }) wElided := by
  refine ⟨⟨single_of (by decide +kernel), by decide +kernel, by decide +kernel, tableEntry (by decide +kernel), by decide +kernel⟩,
    aloneOpen (by decide +kernel), aloneOpen (by decide +kernel), ?_, ⟨alone (by decide +kernel), by decide +kernel⟩,
    ⟨alone (by decide +kernel), by decide +kernel⟩, ⟨aloneOpen (by decide +kernel), by decide +kernel⟩, ⟨alone (by decide +kernel), by decide +kernel⟩,
    alone (by decide +kernel), ⟨alone (by decide +kernel), by decide +kernel⟩, aloneReady (by decide +kernel)⟩
  rintro cnt (rfl | rfl)
  · exact ⟨single_of (by decide +kernel), by decide +kernel, _, rfl, tableEntry (by decide +kernel)⟩
  · exact ⟨single_of (by decide +kernel), by decide +kernel, _, rfl, tableEntry (by decide +kernel)⟩

def wSteal : Instr := .steal plainHdr { d := 1#9 }

/-- A thief of a crew whose lane 5 has a frame to steal from. -/
def sState : State := { qState wSteal wData with threads := [(0, wData), (5, wBranch (wFrame 0 0 1))] }

def wCancel (spent : Bool) : Thread :=
  let th := wBranch { wFrame 2 0 0 with aux := if spent then 2 ^ 41 else 0 }
  { th with choice := { th.choice with cancel := true } }

theorem witness_StealsAndCancels :
    (Single wSteal sState (wIssue wSteal) 0 wData ∧ wData.cpd = 0 ∧ sState.stealFrom 0 = some (5, 1) ∧
      sState.thread 5 = some (wBranch (wFrame 0 0 1)) ∧ (wBranch (wFrame 0 0 1)).frame 1 = wFrame 0 0 1 ∧
      wData.trp + 16 * 2 + 32 ≤ wData.trl ∧ TableEntry (sState.entered wSteal 0 wData (wIssue wSteal)) 0 wData (4 * 0x8000) 0 (wAcc 0) wPageU ∧
      Memory.wf (wBranch (wFrame 0 0 1)).priv = true) ∧
    (Alone wSteal wData ∧ (eState wData).stealFrom 0 = none) ∧ (AloneOpen wSteal (wChoice 64) ∧ (wChoice 64).cpd ≠ 0) ∧
    (∀ spent, (eState (wCancel spent)).thread 0 = some (wCancel spent) ∧ (wCancel spent).cancelReady = true ∧
      Sparse.wf (wCancel spent).regs = true) ∧
    (wCancel false).linkDepths.find? (fun d => !((wCancel false).frame d).spent) = some 1 ∧
    ∀ d ∈ (wCancel true).linkDepths, ((wCancel true).frame d).spent = true :=
  ⟨⟨single_of (by decide +kernel), by decide +kernel, by decide +kernel, by decide +kernel, by decide +kernel, by decide +kernel,
      tableEntry (by decide +kernel), by decide +kernel⟩,
    ⟨alone (by decide +kernel), by decide +kernel⟩, ⟨aloneOpen (by decide +kernel), by decide +kernel⟩, by decide +kernel, by decide +kernel, by decide +kernel⟩

/-! ## Witnesses: special registers and formats -/

def wMovs (idx : BitVec 12) : Instr := .movs plainHdr { d := 2#9, idx := idx }
def wSets (idx : BitVec 12) : Instr := .sets plainHdr { d := 8#9, idx := idx }

/-- Thread 0 in its handler. -/
def wInh (a : Nat) : Thread := { wAt a with faults := { (wAt a).faults with inh := true } }

theorem witness_SpecialRegistersAreReadAndWritten :
    (AloneReady (wMovs 0x00D#12) wData ∧ specAssigned 0x00D#12 = true ∧ ((eState wData).gangOf 0).isSome = true) ∧ AloneReady (wMovs 0x026#12) wData ∧
    Alone (.movsCycl plainHdr 1#9) wData ∧ Alone (.movsCych plainHdr 1#9) wData ∧ AloneReady (.fmtget plainHdr { d := 2#9, n := 31#5 }) wData ∧
    (Alone (wSets 0x013#12) (wAt 1024) ∧ (wAt 1024).cpd = 0 ∧ ((wAt 1024).reg 8).toNat % 32 = 0 ∧ (wAt 1024).trb < ((wAt 1024).reg 8).toNat ∧
      ((wAt 1024).reg 8).toNat ≤ (wAt 1024).csp.toNat) ∧
    (Alone (wSets 0x014#12) (wAt 512) ∧ (wAt 512).trl ≤ ((wAt 512).reg 8).toNat ∧ ((wAt 512).reg 8).toNat ≤ (eState wData).privBytes 0) ∧
    (Alone (wSets 0x015#12) (wAt 65536) ∧ (eState wData).isCode 0 ((wAt 65536).pair 8).toNat = true) ∧
    (Alone (wSets 0x020#12) (wInh 7) ∧ Alone (wSets 0x021#12) (wInh 7) ∧ Alone (wSets 0x02B#12) (wInh 7) ∧ (wInh 7).faults.inh = true) ∧
    AloneOpen (wSets 0x01A#12) wData ∧ AloneOpen (wSets 0x020#12) wData ∧
    (Alone (.setsTrb plainHdr 8#9) (wAt 496) ∧ ((wAt 496).reg 8).toNat % 16 = 0 ∧ ((wAt 496).reg 8).toNat < (wAt 496).trl) ∧
    (AloneOpen (.setsTrb plainHdr 8#9) (wChoice 64) ∧ (wChoice 64).cpd ≠ 0) ∧ Alone (.setsFlg plainHdr 2#9) wData ∧
    (Alone (.setsFrm plainHdr 8#9) (wAt 4) ∧ ((wAt 4).reg 8).toNat ≤ 4) ∧
    (AloneOpen (.setsFrm plainHdr 8#9) (wAt 5) ∧ 4 < ((wAt 5).reg 8).toNat) :=
  ⟨⟨aloneReady (by decide +kernel), by decide +kernel⟩, aloneReady (by decide +kernel), alone (by decide +kernel), alone (by decide +kernel),
    aloneReady (by decide +kernel), ⟨alone (by decide +kernel), by decide +kernel⟩, ⟨alone (by decide +kernel), by decide +kernel⟩,
    ⟨alone (by decide +kernel), by decide +kernel⟩, ⟨alone (by decide +kernel), alone (by decide +kernel), alone (by decide +kernel), by decide⟩,
    aloneOpen (by decide +kernel), aloneOpen (by decide +kernel), ⟨alone (by decide +kernel), by decide +kernel⟩,
    ⟨aloneOpen (by decide +kernel), by decide +kernel⟩, alone (by decide +kernel), ⟨alone (by decide +kernel), by decide +kernel⟩,
    aloneOpen (by decide +kernel), by decide +kernel⟩

/-- The limits of SETS, each where it is first broken. -/
theorem witness_SpecialRegistersAreReadAndWritten_limits :
    (AloneOpen (wSets 0x013#12) (wAt 1056) ∧ (wAt 1056).csp.toNat < ((wAt 1056).reg 8).toNat) ∧
    (AloneOpen (wSets 0x014#12) (wAt 1032) ∧ (eState (wAt 1032)).privBytes 0 < ((wAt 1032).reg 8).toNat) ∧
    (AloneOpen (wSets 0x015#12) (wAt 4) ∧ (eState (wAt 4)).isCode 0 ((wAt 4).pair 8).toNat = false) ∧
    (AloneOpen (wSets 0x013#12) (wChoice 64) ∧ (wChoice 64).cpd ≠ 0) ∧
    (AloneOpen (.setsTrb plainHdr 8#9) (wAt 512) ∧ (wAt 512).trl ≤ ((wAt 512).reg 8).toNat) :=
  ⟨⟨aloneOpen (by decide +kernel), by decide +kernel⟩, ⟨aloneOpen (by decide +kernel), by decide +kernel⟩,
    ⟨aloneOpen (by decide +kernel), by decide +kernel⟩, ⟨aloneOpen (by decide +kernel), by decide +kernel⟩,
    ⟨aloneOpen (by decide +kernel), by decide +kernel⟩⟩

def wFmtset (n : BitVec 5) : Instr := .fmtset plainHdr { kind := .token, sc := 0#3, d := 1#9, a := 10#9, n := n }

def fState (left : List Nat) (copies : Tab (Sparse 64)) : State :=
  { rState (wReq 0xD0 (.fmtset 8 5#64 left) []) with jobs := [(0, { wJob with copies := copies })] }

theorem witness_FormatEntriesAreWritten :
    (Single (wFmtset 8#5) (cState (wFmtset 8#5) wData wCore) (wIssue (wFmtset 8#5)) 0 wData ∧
      (cState (wFmtset 8#5) wData wCore).gangOf 0 = some fetchGang ∧ (cState (wFmtset 8#5) wData wCore).job 0 = some wJob ∧
      (entryOf (wData.pair 10)).v = false ∧ SinkOk (cState (wFmtset 8#5) wData wCore) 0 wData (wData.sinkRef .token 1#9 0#3) ∧
      (cState (wFmtset 8#5) wData wCore).fmtsetRoom 0 = true ∧ Sparse.wf wJob.fmt = true) ∧
    AloneOpen (wFmtset 7#5) wData ∧
    ((fState [0] []).request 4 = some (wReq 0xD0 (.fmtset 8 5#64 [0]) []) ∧ (fState [0] []).fmtsetBefore 4 0 0 = false ∧
      (fState [0] []).fmtsetAfter 4 0 0 = false) ∧
    (fState [] []).request 4 = some (wReq 0xD0 (.fmtset 8 5#64 []) []) ∧ (fState [] []).mem.updates = [] ∧
    ({ fState [0] [(0, [])] with reqs := [(4, wReq 0xD0 (.fmtset 8 5#64 [0]) []), (5, wReq 0xD0 (.fmtset 9 6#64 [0]) [])] } : State).fmtsetAfter 4 0 0
      = true :=
  ⟨⟨cSingle (by decide +kernel), by decide +kernel, by decide +kernel, by decide +kernel, sinkOk _ _ (by decide +kernel) _, by decide +kernel⟩,
    aloneOpen (by decide +kernel), by decide +kernel⟩

/-! ## Witnesses: network -/

/-- Window 0: valid, a reduction window of one page towards the peer 9, and a connection to it. -/
def wWindow : BitVec 256 := BitVec.ofNat 256 (3 + 2 ^ 92 + 9 * 2 ^ 128)

def wConn : Conn := { part := 0, peer := 9#128, nextSeq := 1, recvSeq := 0, ackSent := 0, sent := [], since := 0, resends := 0, badSince := none, failed := false }

def wSent : Sent := { seq := 1, acked := false, vdev := 0, channel := none, header := 0#256, payload := [], use := .other }

/-- A frame of the connection: its OPC, its SEQ, the offset and the payload. -/
def wCw (opc seq off : Nat) (payload : List Byte) : CwFrame :=
  { valid := true, port := 0, channel := 0, assoc := 0, payload := payload
    header := BitVec.ofNat 256 (1 + opc * 2 ^ 24 + seq * 2 ^ 128 + payload.length * 2 ^ 160 + off * 2 ^ 192) }

def nState (c : Conn) : State := { eState wData with
  parts := [(0, { wPart with pm := { wPart.pm with windows := [(0, wWindow)] } })]
  net := { State.reset.net with
    conns := [(0, c)], cycle := 16384
    macsec := [(0, [{ transmit := false, channel := 0, assoc := 0, key := 1#256, part := 0 }])] } }

def wPay : List Byte := bytesOf 5 16

/-- An atomic addition of 5 to four bytes. -/
def wPayAtom : List Byte := bytesOf (5 + 4 * 2 ^ 136) 32

theorem nSpot (c : Conn) (off n : Nat) (h : off + n ≤ 65536) :
    (nState c).windowSpot 0 0 off n = some ((Config.windowBase 0 0 + off) % 2 ^ 48) := by
  have h1 : (nState c).windowBits 0 0 0 1 = 1 := by
    show natBits (Sparse.get [(0, wWindow)] 0).toNat 0 1 = 1; decide +kernel
  have h2 : (nState c).windowBits 0 0 92 36 = 1 := by
    show natBits (Sparse.get [(0, wWindow)] 0).toNat 92 36 = 1; decide +kernel
  unfold State.windowSpot
  rw [h1, h2, if_neg]
  simp only [Bool.or_eq_true, beq_iff_eq, decide_eq_true_eq]
  omega

theorem cleared (s : State) (h : s.mem.unscrubbed = []) (key n : Nat) : Cleared s key n := fun a _ _ => by
  simp [State.lineUnscrubbed, State.unscrubbed?, h]

theorem frameNext (opc off : Nat) (p : List Byte) (h1 : (wCw opc 1 off p).wellFormed = true) (h2 : (wCw opc 1 off p).seq = 1) :
    FrameNext (nState wConn) 0 wConn (wCw opc 1 off p) := ⟨rfl, rfl, rfl, h1, h2, rfl⟩

theorem readNat_nil (a n : Nat) : Memory.readNat [] a n = 0 := by
  induction n generalizing a with
  | zero => rfl
  | succ n ih => simp only [Memory.readNat, ih, Memory.read]; rfl

/-- A frame that adds to an aligned word exists, wherever the window starts. -/
theorem alignedFrame : ∃ off, (off = 0 ∨ off = 1 ∨ off = 2 ∨ off = 3) ∧ (Config.windowBase 0 0 + off) % 2 ^ 48 % 4 = 0 := by
  have h : Config.windowBase 0 0 % 4 = 0 ∨ Config.windowBase 0 0 % 4 = 1 ∨ Config.windowBase 0 0 % 4 = 2 ∨ Config.windowBase 0 0 % 4 = 3 := by
    omega
  rcases h with h | h | h | h
  · exact ⟨0, by decide, by omega⟩
  · exact ⟨3, by decide, by omega⟩
  · exact ⟨2, by decide, by omega⟩
  · exact ⟨1, by decide, by omega⟩

theorem witness_FramesArrive :
    (∃ key, FrameNext (nState wConn) 0 wConn (wCw 1 1 64 wPay) ∧ (wCw 1 1 64 wPay).opc = 1 ∧
      (nState wConn).windowSpot 0 (wCw 1 1 64 wPay).win (wCw 1 1 64 wPay).addr (wCw 1 1 64 wPay).payload.length = some key ∧
      Cleared (nState wConn) key (wCw 1 1 64 wPay).payload.length) ∧
    (∃ off key fn r, FrameNext (nState wConn) 0 wConn (wCw 2 1 off wPayAtom) ∧ (wCw 2 1 off wPayAtom).opc = 2 ∧
      payloadFn (natOfBytes wPayAtom) = some fn ∧ natOfBytes wPayAtom / 2 ^ 136 % 256 = 4 ∧
      (nState wConn).windowSpot 0 (wCw 2 1 off wPayAtom).win (wCw 2 1 off wPayAtom).addr 4 = some key ∧ key % 4 = 0 ∧
      (nState wConn).linePoisoned key = false ∧ Cleared (nState wConn) key 4 ∧
      fn.apply 4 (Memory.readNat (nState wConn).mem.dram key 4) (natOfBytes wPayAtom % 2 ^ 64 % 2 ^ (8 * 4)) = some r) ∧
    (FrameNext (nState wConn) 0 wConn (wCw 4 1 0 wPay) ∧ (wCw 4 1 0 wPay).opc = 4 ∧
      (wCw 4 1 0 wPay).gen = (nState wConn).generation 0 (wCw 4 1 0 wPay).win) ∧
    ((wCw 1 2 64 wPay).wellFormed = true ∧ (nState wConn).frameValid wConn (wCw 1 2 64 wPay) = true ∧
      (wCw 1 2 64 wPay).seq ≠ (wConn.recvSeq + 1) % 2 ^ 32) ∧
    (nState wConn).frameValid wConn { wCw 1 1 64 wPay with channel := 1 } = false := by
  refine ⟨⟨_, frameNext _ _ _ (by decide +kernel) (by decide +kernel), by decide +kernel, nSpot wConn 64 16 (by decide), cleared _ rfl _ _⟩, ?_,
    ⟨frameNext _ _ _ (by decide +kernel) (by decide +kernel), by decide +kernel⟩, by decide +kernel, by decide +kernel⟩
  obtain ⟨off, ho, hk⟩ := alignedFrame
  refine ⟨off, _, _, atomOp .add 4 0 (natOfBytes wPayAtom % 2 ^ 64 % 2 ^ (8 * 4)), frameNext 2 off wPayAtom ?_ ?_, ?_, rfl, ?_, ?_, hk, rfl, cleared _ rfl _ _, ?_⟩
  · rcases ho with rfl | rfl | rfl | rfl <;> decide +kernel
  · rcases ho with rfl | rfl | rfl | rfl <;> decide +kernel
  · rcases ho with rfl | rfl | rfl | rfl <;> decide +kernel
  · decide +kernel
  · rcases ho with rfl | rfl | rfl | rfl
    · exact nSpot wConn 0 4 (by decide)
    · exact nSpot wConn 1 4 (by decide)
    · exact nSpot wConn 2 4 (by decide)
    · exact nSpot wConn 3 4 (by decide)
  · show AtomFn.apply _ 4 (Memory.readNat [] _ 4) _ = _
    rw [readNat_nil]; rfl

/-- A generation of window 0 with one whole result. -/
def wWhole : Contribution := { conn := 0, member := 0, off := 64, data := wPay, whole := true }

def redState (merged : List Nat) : State :=
  { nState wConn with net := { (nState wConn).net with reds := [(6, { part := 0, window := 0, gen := 0, parts := [wWhole], merged := merged })] } }

def wLoadAsync : Thread := { wLoads (accAt .glb 0x20008 4) [] with hnd := 65536#64 }

theorem witness_NetworkStepsKeepTheirProtocols :
    (Tab.get? [((5 : Nat), { Link.fresh with resend := some 7 })] 5 = some { Link.fresh with resend := some 7 }) ∧
    ((∃ n, ({ Link.fresh with refused := some 2, resend := some 7 } : Link).refused = some n ∧ n < 3) ∧
      ({ Link.fresh with refused := some 2, nacks := 63 } : Link).nacks = 63) ∧
    (Sparse.wf ((nState wConn).part 0).pm.windows = true ∧ wWindow.getLsbD 0 = true) ∧
    (Tab.get? (nState { wConn with sent := [wSent] }).net.conns 0 = some { wConn with sent := [wSent] } ∧ wSent.use = .other) ∧
    ((nState { wConn with resends := 16 }).net.cycle = (wConn.since + 16384) ∧ (eState wData).windowsTo 0 9#128 0 = []) ∧
    (∃ k r key, (redState []).reduction? 0 0 ((redState []).generation 0 0) = some (k, r) ∧ r.parts = [wWhole] ∧ wWhole.whole = true ∧
      r.merged = [] ∧ (redState []).windowSpot 0 0 64 wWhole.data.length = some key ∧ Cleared (redState []) key wWhole.data.length ∧
      Tab.wf (redState []).net.reds = true) ∧
    (∃ k r, (redState [64]).reduction? 0 0 ((redState [64]).generation 0 0) = some (k, r) ∧ ∀ x ∈ r.parts, x.off ∈ r.merged) ∧
    ((nState wConn).windowBits 0 0 0 2 = 3 ∧ Sparse.wf ((nState wConn).part 0).pm.gens = true) ∧
    (((eState wData).part 0).resident = true ∧ ((eState wData).part 0).holdsIsle (receiverIsle (.slice 31)) = true) ∧
    (((eState wData).part 0).holdsIsle (receiverIsle (.l1 32)) = false ∧ ((eState wData).thread 0).bind (fun th => th.outstanding 0) = none) ∧
    ((eState wLoadAsync).thread 0 = some wLoadAsync ∧ wLoadAsync.outstanding 0 = some (wLoad (accAt .glb 0x20008 4) []) ∧
      wLoadAsync.longs = [wLoad (accAt .glb 0x20008 4) []] ∧ (wLoad (accAt .glb 0x20008 4) []).order = wLoadAsync.order ∧ Deliverable (eState wLoadAsync) { wLoadAsync with longs := [] }) :=
  ⟨rfl, ⟨⟨2, rfl, by decide⟩, rfl⟩, by decide +kernel, by decide +kernel, by decide +kernel,
    ⟨6, _, _, rfl, rfl, rfl, rfl, nSpot wConn 64 16 (by decide), cleared _ rfl _ _, rfl⟩, ⟨6, _, rfl, by decide +kernel⟩, by decide +kernel, by decide +kernel,
    by decide +kernel, rfl, rfl, rfl, rfl, deliverable_of (by decide +kernel)⟩

/-! ## Witnesses: jobs, gangs and partitions -/

/-- A card that passes its checks: two record slots, sink scope 1. -/
def wGoodCard : BitVec 512 := wCard ||| BitVec.ofNat 512 (2 ^ 272 + 2 ^ 371)

/-- Job 1 stands at the head of stream 0, its card in the page of VA 0x20000. -/
def hState (card : BitVec 512) : State :=
  let s := wWalker wPageU
  let st : Stream := { desc := BitVec.ofNat 64 (1 + 16 * 2 ^ 32 + 2 ^ 44), queue := [1], last := none, runtime := some 0 }
  { s with
    jobs := [(1, Job.placed 0 0 0 0x20000)], threads := [], gangs := [], bands := []
    parts := [(0, { s.part 0 with streams := [(0, st)] })]
    mem := { s.mem with dram := Memory.writeNat s.mem.dram 0x20000 64 card.toNat } }

theorem headTaken (card : BitVec 512) (h1 : (hState card).nextHead ((hState card).part 0) = some (0, 1))
    (h2 : ((hState card).cardLine 0 5 0x20000).1 = card) (h3 : cardBits card 256 3 = 0) (h4 : card.getLsbD 120 = false)
    (h5 : (hState card).asidOfJob (Job.placed 0 0 0 0x20000) = 5) (h6 : (hState card).partOfIsle 0 = 0)
    (h7 : ((hState card).part 0).resident = true) (h8 : ((hState card).part 0).first = 0) :
    HeadTaken (hState card) 0 0 1 (Job.placed 0 0 0 0x20000) card := by
  constructor
  · rw [h6]; exact h7
  · rw [h6]; exact h8
  · rw [h6]; exact h1
  · rfl
  · rw [h6, h5]; exact h2.symm
  · exact h6.symm
  · exact h3
  · exact h4

/-- Job 1 of the same stream, past its admission. -/
def startJob (card : BitVec 512) (ph : JobPhase) : Job := { Job.placed 0 0 0 0x20000 with card := card, phase := ph, slots := 4 }

def startState (card : BitVec 512) (ph : JobPhase) : State := { hState card with jobs := [(1, startJob card ph)] }

/-- The same card for bands of two gangs. -/
def wBandCard : BitVec 512 := wGoodCard ^^^ BitVec.ofNat 512 (3 * 2 ^ 333)

theorem witness_JobsAreQueuedAdmittedAndStarted :
    ((Tab.get? ((hState wGoodCard).part 0).streams (streamKey 0 0)).map (fun x => (x.valid, x.queue.length, x.depth)) = some (true, 1, 16) ∧
      Tab.get? ((hState wGoodCard).part 0).streams (streamKey 0 1) = none) ∧
    ((hState wGoodCard).part ((hState wGoodCard).partOfIsle 0)).first ≠ 1 ∧
    (HeadTaken (hState wGoodCard) 0 0 1 (Job.placed 0 0 0 0x20000) wGoodCard ∧
      (hState wGoodCard).cardOffence (startJob wGoodCard .queued) [] 0#512 = none ∧
      (hState wGoodCard).sinkOffence (startJob wGoodCard .queued) = false) ∧
    (HeadTaken (hState wCard) 0 0 1 (Job.placed 0 0 0 0x20000) wCard ∧
      (startJob wCard .queued).fieldOffence = some 272 ∧ cardBits wCard 369 2 = 0 ∧ cardBits wCard 458 52 = 0) ∧
    ((startState wGoodCard .admitted).job 1 = some (startJob wGoodCard .admitted) ∧ (startJob wGoodCard .admitted).waits = [] ∧
      (startJob wGoodCard .admitted).deps = [] ∧ (startState wGoodCard .admitted).slotsOf (startJob wGoodCard .admitted) ≠ 0 ∧
      (startJob wGoodCard .admitted).hasImage = false) ∧
    ([((3 : Nat), (0 : Nat))].map Prod.fst).Nodup := by
  refine ⟨by decide +kernel, by decide +kernel, ⟨headTaken _ ?_ ?_ ?_ ?_ ?_ ?_ ?_ ?_, by decide +kernel⟩,
    ⟨headTaken _ ?_ ?_ ?_ ?_ ?_ ?_ ?_ ?_, by decide +kernel⟩, by decide +kernel, by decide⟩ <;> decide +kernel

/-- Gang 0 about to retire. -/
def retState : State := { eState { wData with hold := .exited } with gangs := [(0, { fetchGang with phase := .retiring })] }

/-- Job 0 over, with a sink of a kind. -/
def overJob (kind : Nat) : Job := { wJob with card := wCard ||| BitVec.ofNat 512 (kind * 2 ^ 369 + 3 * 2 ^ 458 + 4 * 2 ^ 461), phase := .draining }

def overState (kind : Nat) : State := { eState wData with threads := [], gangs := [], jobs := [(0, overJob kind)] }

theorem witness_GangsArePlacedAndRetired :
    ((startState wGoodCard .running).job 1 = some (startJob wGoodCard .running) ∧
      (∃ n, n < 8192 ∧ (startState wGoodCard .running).band (8192 * isleOf 0 + n) = none) ∧
      (startState wGoodCard .running).gangSpot 1 (startJob wGoodCard .running) = some (0, 0)) ∧
    ((startState wBandCard .running).job 1 = some (startJob wBandCard .running) ∧
      (∀ i, ∃ n, n < 8192 ∧ (startState wBandCard .running).band (8192 * i + n) = none) ∧
      (startState wBandCard .running).bandSpots 1 (startJob wBandCard .running) = some [(0, 0), (1, 0)]) ∧
    (Tab.wf retState.threads = true ∧ retState.gang 0 = some { fetchGang with phase := .retiring } ∧
      retState.mayRetire 0 { fetchGang with phase := .retiring } = true) ∧
    (eState wData).mayRetire 0 fetchGang = false ∧
    (NothingGranted (startState wGoodCard .running) 0 ∧ NothingGranted retState 0 ∧ (retState.core 0).wtq = []) ∧
    ((overState 2).job 0 = some (overJob 2) ∧ (overState 2).jobOver 0 (overJob 2) = true ∧ (overJob 2).sinkKind = 2 ∧
      (overState 2).mem.updates = [] ∧ (overState 2).jobCounterMay (overJob 2) = true) ∧
    ∀ kind, kind = 0 ∨ kind = 1 ∨ kind = 3 → (overState kind).job 0 = some (overJob kind) ∧ (overState kind).jobOver 0 (overJob kind) = true ∧
      (overState kind).mem.updates = [] ∧ (overJob kind).sinkKind = kind ∧
      (kind = 1 → (overState kind).jobObject (overJob kind) = some (.lag 0, 64)) := by
  refine ⟨⟨rfl, ⟨0, by decide, rfl⟩, by decide +kernel⟩, ⟨rfl, fun i => ⟨0, by decide, rfl⟩, by decide +kernel⟩, by decide +kernel, by decide +kernel,
    ⟨fun l h => (by cases h), fun l h => (by cases h), by decide +kernel⟩, by decide +kernel, ?_⟩
  rintro kind (rfl | rfl | rfl) <;> refine ⟨rfl, ?_, rfl, ?_, ?_⟩ <;> decide +kernel

/-- The machine once bring-up has ended. -/
def upFw : Firmware := { State.reset.fw with keys := [(0, 1#512)], boot := { State.reset.fw.boot with step := 4 } }

/-- Partition 0 in saved state, with the thread and the gang of the small machine. -/
def savedState : State := { eState wData with
  threads := [], gangs := [], bands := [(0, { job := 0, gangs := [0], pipes := [], piped := false })], fw := upFw
  parts := [(0, { wPart with resident := false
                             saved := some { Saved.empty with switch := true, threads := [(0, { wData with hold := .sleep 9 })], gangs := [(0, fetchGang)] } })] }

def upState : State := { eState wData with fw := upFw }

theorem witness_PartitionsComeAndGo :
    (descriptorOk (BitVec.ofNat 192 (1 + 2 ^ 97)) = true ∧ (upState.part 3).desc.getLsbD 0 = false ∧ upState.fw.boot.step = 4 ∧
      (∀ i, i < 1 → (upState.isle i).outOf = false) ∧
      ∀ q ∈ upState.parts, q.2.desc.getLsbD 0 = true → q.2.desc.extractLsb' 96 96 &&& (BitVec.ofNat 192 (1 + 2 ^ 97)).extractLsb' 96 96 = 0) ∧
    ((BitVec.ofNat 192 0).getLsbD 0 = false) ∧ ((eState wData).part 3).resident = false ∧
    (((eState wData).part 0).resident = true ∧ ((eState wData).part 0).halting = none ∧ Tab.wf (eState wData).threads = true ∧
      (∀ t th, (eState wData).thread t = some th → (eState wData).partOf t = 0 → th.inSection = false) ∧ (eState wData).quiet 0 false = true) ∧
    (eState (wLoads (accAt .lag 64 4) [])).quiet 0 false = false ∧ Undisturbed wData ∧
    (let s := { eState wData with isles := [(0, { Isle.reset with counter := 2 ^ 24 })], parts := [(0, { wPart with halting := some (true, 0) })] }
     (s.part 0).halting = some (true, 0) ∧ 0 + 2 ^ 24 ≤ (s.isle (s.part 0).first).counter ∧ s.quiet 0 true = true) ∧
    (eState wData).mayResume 0 = false ∧
    (∃ x, (savedState.part 0).saved = some x ∧ savedState.mayResume 0 = true ∧ Tab.wf x.threads = true ∧ x.poisonedCores = [] ∧
      x.poisonedLagoon = false ∧ Tab.get? x.threads 0 = some { wData with hold := .sleep 9 }) ∧
    ((savedState.part 0).desc.getLsbD 0 = true ∧ (savedState.part 0).resident = false) ∧
    ((eState wData).parts.filter (fun x => x.2.holdsIsle 0) = [(0, wPart)] ∧ Tab.wf (eState wData).parts = true ∧ wPart.resident = true ∧
      Tab.wf wPart.vdevs = true ∧ ((eState wData).isle 0).counter % 65536 = 0) := by
  refine ⟨by decide +kernel, by decide, by decide +kernel, ⟨by decide +kernel, by decide +kernel, by decide +kernel, ?_, by decide +kernel⟩, by decide +kernel,
    ⟨rfl, fun va v d h => by cases h⟩, by decide +kernel, by decide +kernel, ⟨_, rfl, by decide +kernel, by decide, rfl, rfl, rfl⟩, by decide +kernel,
    by decide +kernel⟩
  intro t th h _
  rw [(only_thread h).2]; rfl

theorem someOf {α : Type} {o : Option α} {p : α → Bool} (h : o.any p = true) : ∃ x, o = some x ∧ p x = true := by
  cases o with
  | none => cases h
  | some x => exact ⟨x, rfl, h⟩

theorem witness_PagesKeysAndHolds :
    ((wWalker wPageU).partOfAsid 5 = some 0 ∧
      (∃ x, (wWalker wPageU).pteSlot 0 5 0x30000 = some x ∧ (!pteV x.entry && x.takes wPageC && x.pa % 8 == 0
        && !(wWalker wPageU).lineUnscrubbed x.pa && !(wWalker wPageU).pageRefused 0 wPageC 0x30000) = true) ∧
      (∃ x, (wWalker wPageU).pteSlot 0 5 0x20000 = some x ∧ (pteV x.entry && x.leaf == some (ptePs x.entry) && x.takes 0#64
        && x.pa % 8 == 0 && !(wWalker wPageU).lineUnscrubbed x.pa && !(wWalker wPageU).pageRefused 0 0#64 0x20000) = true) ∧
      (wWalker wPageU).newPages wPageC 0x30000 = [3] ∧ Memory.wf (wWalker wPageU).mem.dram = true) ∧
    (wWalker wPageU).partOfAsid 6 = none ∧ Sparse.wf (eState wData).fw.keys = true ∧ (eState wData).mem.updates = [] ∧
    ((wWalker wPageU).slotNamed 1 = false ∧ (wWalker wPageU).slotNamed 0 = true) :=
  ⟨⟨by decide +kernel, someOf (by decide +kernel), someOf (by decide +kernel), by decide +kernel, by decide +kernel⟩,
    by decide +kernel, by decide +kernel, by decide +kernel, by decide +kernel⟩

/-! ## Witnesses: outside steps, firmware and the step -/

def wFault : FaultRec :=
  { code := 0x21, async := true, info := 3#32, addr := 64#64, pc := 0#56, word := 0#96, decoded := false, opa := 0#64, opb := 0#64 }

def wAsync (h : Hold) : Thread := { wData with asyncs := [wFault], hold := h }

def wCounted (h : Hold) : Thread := { wData with hold := h }

/-- The machine with its one thread on the NOP of an instruction-cache line, its gang stopped by the debugger. -/
def dState (stopped : Bool) : State :=
  let s := State.reset.withFetchWord 96 0
  { s with gangs := [(0, { fetchGang with stopped := stopped })], sched := { s.sched with agenda := [] } }

/-- The same, with the debugger authorised by the tenant. -/
def aState : State := (dState true).setPart 0 { (dState true).part 0 with authorised := true }

theorem witness_OutsideStepsOnThreads_authorised :
    Authorised aState { fetchGang with stopped := true } ∧ ¬ Authorised (dState true) { fetchGang with stopped := true } ∧
    (aState.gang 0 = some { fetchGang with stopped := true } ∧ fetchGang.phase = .running ∧
      aState.halting { fetchGang with stopped := true } = false ∧ Tab.wf aState.threads = true) ∧
    (MayStep aState 0 0 fetchThread ∧ fetchThread.pc = BitVec.ofNat 56 fetchBase) ∧
    (∀ t th, MayStep aState 0 t th → (BitVec.ofNat 56 fetchBase).toNat ≤ th.pc.toNat) ∧
    ∀ t th, aState.thread t = some th → th.gang = 0 → (∀ o ∈ th.longs, o.blocksFault = false) ∧ th.asyncs = [] ∧
      ∃ w, aState.fetch t (BitVec.ofNat 56 fetchBase) = .word w := by
  refine ⟨⟨fetchJob, by decide +kernel, by decide +kernel⟩, ?_, by decide +kernel, ⟨⟨rfl, rfl, by decide +kernel⟩, rfl⟩, ?_, ?_⟩
  · rintro ⟨j, hj, ha⟩
    have h : (dState true).job 0 = some fetchJob := by decide +kernel
    rw [show ({ fetchGang with stopped := true } : Gang).job = 0 from rfl, h] at hj
    cases hj
    exact absurd ha (by decide +kernel)
  · rintro t th ⟨h, -, -⟩
    rw [(only_thread (th := fetchThread) h).2]; decide
  · intro t th h _
    obtain ⟨rfl, rfl⟩ := only_thread (th := fetchThread) h
    exact ⟨fun o ho => by simp [fetchThread] at ho, rfl, 0#96, by decide +kernel⟩

theorem witness_OutsideStepsOnThreads :
    (∀ h, h = .none ∨ h = .wait (.barw (accAt .scr 64 16) 0 1#9 .none 0#3) ∨ h = .wait (.cwait 0x20000 7#64 2#9) →
      AtBoundary (eState (wAsync h)) 0 (wAsync h) ∧ Deliverable (eState (wAsync h)) (wAsync h) ∧ (wAsync h).asyncs = [wFault] ∧
        AtBoundary (eState (wCounted h)) 0 (wCounted h) ∧ Deliverable (eState (wCounted h)) (wCounted h)) ∧
    (wFault.async = true ∧ wFault.decoded = false ∧ wFault.code < 256) ∧
    (((eState wData).isle 0).counter % 2 ^ 20 = 0 ∧ Tab.wf (eState wData).parts = true ∧
      (eState wData).parts.filter (fun x => x.2.first == 0 && natBits x.2.desc.toNat 0 1 == 1) = [(0, wPart)] ∧
      ∀ n ∈ wPart.isles, ((eState wData).isle n).waits.length ≤ 262144) ∧
    (dState true).gang 0 = some { fetchGang with stopped := true } ∧ (dState false).gang 0 = some { fetchGang with stopped := false } ∧
    ((dState true).halting { fetchGang with stopped := true } = false ∧ Tab.wf (dState true).threads = true ∧
      ∀ t th, (dState true).thread t = some th → th.gang = 0 → (∀ o ∈ th.longs, o.blocksFault = false) ∧ th.asyncs = [] ∧
        ∃ w, (dState true).fetch t (BitVec.ofNat 56 fetchBase) = .word w) := by
  refine ⟨?_, by decide, by decide +kernel, rfl, rfl, by decide +kernel, by decide +kernel, ?_⟩
  · rintro h (rfl | rfl | rfl)
    · exact ⟨⟨rfl, .inl rfl, by decide +kernel⟩, deliverable_of (by decide +kernel), rfl, ⟨rfl, .inl rfl, by decide +kernel⟩, deliverable_of (by decide +kernel)⟩
    · exact ⟨⟨rfl, .inr (.inl ⟨_, _, _, _, _, rfl⟩), by decide +kernel⟩, deliverable_of (by decide +kernel), rfl,
        ⟨rfl, .inr (.inl ⟨_, _, _, _, _, rfl⟩), by decide +kernel⟩, deliverable_of (by decide +kernel)⟩
    · exact ⟨⟨rfl, .inr (.inr ⟨_, _, _, rfl⟩), by decide +kernel⟩, deliverable_of (by decide +kernel), rfl,
        ⟨rfl, .inr (.inr ⟨_, _, _, rfl⟩), by decide +kernel⟩, deliverable_of (by decide +kernel)⟩
  · intro t th h _
    obtain ⟨rfl, rfl⟩ := only_thread (th := fetchThread) h
    exact ⟨fun o ho => by simp [fetchThread] at ho, rfl, 0#96, by decide +kernel⟩

def wBoot (ok : Bool) (failed : List Port) : BootInput :=
  { headerOk := true, headerHash := 1#384, imageOk := ok, imageHash := 2#384, failed := failed }

def bootedState : State := { State.reset with fw := { State.reset.fw with boot := { step := 3, measurements := [], failed := [] } } }

def dieState (reset hot : List Nat) : State := { State.reset with fw := { State.reset.fw with reset := reset, hot := hot } }

theorem witness_FirmwareStepsOnTheMachine :
    ((wBoot true []).headerOk = true ∧ (wBoot false []).imageOk = false ∧ Port.memory 5 ∈ (wBoot true [.memory 5]).failed) ∧
    (bootedState.fw.boot.step = 3 ∧ bootedState.fw.boot.failed = [] ∧ (bootedState.part 0).resident = false) ∧
    ((State.reset.isle 4).power = .run ∧ State.reset.residentOn 4 = false ∧ (eState wData).residentOn 0 = true) ∧
    (∀ p, p = .gated ∨ p = .retain ∨ p = .off →
      ({ State.reset with isles := [(4, { Isle.reset with power := p })] } : State).mayRun 4 = true) ∧
    (State.reset.partsOnDie 2 = [] ∧ 2 ∈ (dieState [] [2]).fw.hot ∧ 2 ∉ (dieState [] [2]).fw.reset ∧ 2 ∉ (dieState [] [2]).fw.dead) ∧
    ((State.reset.isle 4).counter % 65536 = 0) ∧
    ((eState wData).isleAbsent (ScrubTarget.isle (.dram 0 0)) = false ∧
      ({ State.reset with isles := [(0, { Isle.reset with power := .off })] } : State).isleAbsent (ScrubTarget.isle (.dram 0 0)) = true) ∧
    ((eState wData).isleAbsent 0 = false ∧ (eState wData).lineUnscrubbed 64 = false) ∧
    ((eState wData).isleAbsent (isleOf (coreOf 0)) = false ∧ (eState wData).thread 0 = some wData) ∧
    (State.reset.dieQuiet 2 = true ∧ (eState wData).dieQuiet 0 = false ∧ 2 ∈ (dieState [2] []).fw.reset) := by
  refine ⟨by decide +kernel, by decide +kernel, by decide +kernel, ?_, by decide +kernel, by decide +kernel, by decide +kernel, by decide +kernel,
    by decide +kernel, by decide +kernel⟩
  rintro p (rfl | rfl | rfl) <;> decide +kernel

/-- The first step after reset with an instruction placed. -/
def firstState : State := State.reset.withFetchWord 96 0

/-- A runtime thread in its interrupt entry, with one record in its area. -/
def wRuntime : Runtime := { Runtime.empty with tail := 1#32, ring := [(0, 5#128)], running := true, entered := true }

theorem witness_StepRunsTheDecodedInstruction :
    ({ State.reset with sched := { State.reset.sched with agenda := [.event (.dieTempRecover 0)] } } : State).sched.agenda
      = .event (.dieTempRecover 0) :: [] ∧
    (firstState.sched.agenda = .group (0 :: []) :: [] ∧ firstState.fetch 0 (BitVec.ofNat 56 fetchBase) = .word 0#96 ∧
      firstState.thread 0 = some fetchThread ∧ fetchThread.pc = BitVec.ofNat 56 fetchBase ∧ fetchThread.hold = .none ∧
      decode (firstState.regCount 0) 0#96 = .ok (.nop { plainHdr with pred := 0#3 })) ∧
    (wRuntime.entered = true ∧ 1 ≤ wRuntime.count) ∧
    (∃ iss s', (dState false).popTurn.nextIssue = .group iss s' ∧ (dState false).sched.agenda = [] ∧
      decode (s'.regCount (iss.members.headD 0)) iss.word = .ok (.nop { plainHdr with pred := 0#3 })) := by
  refine ⟨rfl, by decide +kernel, by decide +kernel, ?_⟩
  have h : (match (dState false).popTurn.nextIssue with
    | .group iss s' => decide (decode (s'.regCount (iss.members.headD 0)) iss.word = .ok (.nop { plainHdr with pred := 0#3 }))
    | _ => false) = true := by decide +kernel
  generalize hn : (dState false).popTurn.nextIssue = n at h
  cases n with
  | group iss s' => exact ⟨iss, s', rfl, rfl, of_decide_eq_true h⟩
  | _ => cases h

theorem witness_EncodeAndDecodeAgree :
    encode (.mark plainHdr { d := 7#9 }) = some (wordOf 0x000770C3 0 0) ∧ (Instr.mark plainHdr { d := 7#9 }).wf 512 = true := by decide +kernel

theorem witness_IssueCycleFormsGroups :
    Tab.wf (dState false).threads = true ∧ (∃ iss s', (dState false).popTurn.nextIssue = .group iss s') ∧
      State.reset.sched.agenda = [] ∧ ∃ s1, State.reset.popTurn.nextIssue = .done s1 := by
  obtain ⟨iss, s', h, -⟩ := witness_StepRunsTheDecodedInstruction.2.2.2
  exact ⟨by decide, ⟨iss, s', h⟩, rfl, _, rfl⟩

theorem witness_EveryStepKeepsInv : State.reset.Inv ∧ ∃ s', step State.reset = .next s' :=
  ⟨⟨rfl, rfl, (fun p h => by cases h), rfl⟩, _, rfl⟩

/-! ## One step, with results that the spec's examples and tables give, or that follow from its rules by hand -/

/-- Thread 0 after its instruction, run alone on the given registers. -/
def ran (i : Instr) (rs : Sparse 32) : Option Thread :=
  match exec i (wState i (wThread rs)) with
  | .next s => s.thread 0
  | _ => none

/-- A register and FLG after an instruction. -/
def gives (i : Instr) (rs : Sparse 32) (r : Nat) (v flg : Word) : Bool := (ran i rs).map (fun th => (th.reg r, th.flg)) == some (v, flg)

/-- The writes and flags of the long-latency result that an instruction starts. -/
def starts (i : Instr) (rs : Sparse 32) (ws : List (Nat × Word)) (flags : Nat) : Bool :=
  (ran i rs).map (fun th => th.longs.map (·.kind)) == some [.result ws flags]

/-- A predicate and FLG after an instruction. -/
def decides (i : Instr) (rs : Sparse 32) (p : BitVec 3) (v : Bool) (flg : Word) : Bool :=
  (ran i rs).map (fun th => (th.pred p, th.flg)) == some (v, flg)

/-- The examples below Table 8-4: a saturating sum and difference, and ABS of the least number. -/
theorem test_saturation :
    (gives (.add plainHdr { ty := .s32, sat := true, d := 1#9, a := .reg 2#9, b := .imm 1#32 }) [(2, 0x7FFFFFFF#32)] 1 0x7FFFFFFF#32 32#32 &&
     gives (.sub plainHdr { ty := .n32, sat := true, d := 1#9, a := .reg 2#9, b := .imm 5#32 }) [(2, 3#32)] 1 0#32 32#32 &&
     gives (.abs plainHdr { sat := true, d := 1#9, b := 2#9 }) [(2, 0x80000000#32)] 1 0x7FFFFFFF#32 32#32 &&
     gives (.abs plainHdr { sat := false, d := 1#9, b := 2#9 }) [(2, 0x80000000#32)] 1 0x80000000#32 0#32) = true := by decide +kernel

/-- A product that needs both halves, and carry out of a sum (Table 8-4): (2^32 - 1)^2 = 2^64 - 2^33 + 1. -/
theorem test_products_and_carry :
    (gives (.mulh plainHdr { ty := .n32, d := 1#9, a := 2#9, b := .reg 2#9 }) [(2, 0xFFFFFFFF#32)] 1 0xFFFFFFFE#32 0#32 &&
     gives (.mulh plainHdr { ty := .s32, d := 1#9, a := 2#9, b := .reg 2#9 }) [(2, 0xFFFFFFFF#32)] 1 0#32 0#32 &&
     gives (.madw plainHdr { ty := .s32, d := 4#9, a := 2#9, b := .imm 1#32 }) [(2, 0xFFFFFFFF#32)] 5 0xFFFFFFFF#32 0#32 &&
     gives (.mad plainHdr { ty := .n32, sat := false, d := 1#9, a := 2#9, b := .imm 3#32 }) [(1, 4#32), (2, 5#32)] 1 19#32 0#32 &&
     gives (.addc plainHdr { ty := .n32, d := 1#9, a := .reg 2#9, b := .imm 1#32 }) [(2, 0xFFFFFFFF#32)] 1 1#32 0#32 &&
     gives (.addc plainHdr { ty := .s32, d := 1#9, a := .reg 2#9, b := .imm 1#32 }) [(2, 0xFFFFFFFF#32)] 1 0#32 0#32) = true := by decide +kernel

/-- 64-bit forms: an immediate is sign-extended (R124), and LEA scales a signed index (R151). -/
theorem test_pairs :
    (gives (.add64 plainHdr { d := 4#9, a := 2#9, b := .imm 0xFFFFFFFF#32 }) [(3, 1#32)] 4 0xFFFFFFFF#32 0#32 &&
     gives (.add64 plainHdr { d := 4#9, a := 2#9, b := .imm 0xFFFFFFFF#32 }) [(3, 1#32)] 5 0#32 0#32 &&
     gives (.sub64 plainHdr { d := 4#9, a := 2#9, b := .imm 1#32 }) [] 5 0xFFFFFFFF#32 0#32 &&
     gives (.lea plainHdr { ty := .s32, d := 4#9, a := .reg 2#9, b := 6#9, sh := 2#5 }) [(2, 8#32), (6, 0xFFFFFFFF#32)] 4 4#32 0#32 &&
     gives (.lea plainHdr { ty := .n32, d := 4#9, a := .zero, b := 6#9, sh := 2#5 }) [(6, 0xFFFFFFFF#32)] 5 3#32 0#32) = true := by
  decide +kernel

/-- A division or a remainder of registers 2 and 3. -/
def quot (rem : Bool) (ty : IntTy) (a b v : Word) : Bool :=
  let x : IntTyArgs := { ty := ty, d := 1#9, a := .reg 2#9, b := .imm b }
  starts (if rem then .rem plainHdr x else .div plainHdr x) (Sparse.set [] 2 a) [(1, v)] 0

/-- Table 8-5. -/
theorem test_division :
    (quot false .s32 7#32 (-2#32) (-3#32) && quot true .s32 7#32 (-2#32) 1#32 && quot false .s32 (-7#32) 2#32 (-3#32) &&
     quot true .s32 (-7#32) 2#32 (-1#32) && quot false .s32 5#32 0#32 (-1#32) && quot true .s32 5#32 0#32 5#32) = true := by decide +kernel

theorem test_division_corners :
    (quot false .s32 (-5#32) 0#32 1#32 && quot true .s32 (-5#32) 0#32 (-5#32) && quot false .s32 0#32 0#32 (-1#32) &&
     quot false .s32 0x80000000#32 (-1#32) 0x80000000#32 && quot true .s32 0x80000000#32 (-1#32) 0#32 &&
     quot false .n32 9#32 0#32 0xFFFFFFFF#32 && quot true .n32 9#32 0#32 9#32 && quot false .n32 0xFFFFFFF9#32 2#32 0x7FFFFFFC#32) = true := by
  decide +kernel

/-- Shifts by the width and more (R152), and the fields of R152's examples. -/
theorem test_shifts_and_fields :
    (gives (.shl plainHdr { d := 1#9, a := .reg 2#9, b := .imm 32#32 }) [(2, 1#32)] 1 0#32 0#32 &&
     gives (.sar plainHdr { d := 1#9, a := .reg 2#9, b := .imm 255#32 }) [(2, 0x80000000#32)] 1 0xFFFFFFFF#32 0#32 &&
     gives (.rotl plainHdr { d := 1#9, a := .reg 2#9, b := .imm 36#32 }) [(2, 0x80000001#32)] 1 0x18#32 0#32 &&
     gives (.bfx plainHdr { ty := .s32, d := 1#9, a := .reg 2#9, b := .imm 0x404#32 }) [(2, 0xF50#32)] 1 5#32 0#32 &&
     gives (.bfx plainHdr { ty := .s32, d := 1#9, a := .reg 2#9, b := .imm 0x404#32 }) [(2, 0xFD0#32)] 1 0xFFFFFFFD#32 0#32 &&
     gives (.bfi plainHdr { d := 1#9, a := .reg 2#9, b := .imm 0x404#32 }) [(1, 0xFFFF#32), (2, 0xA#32)] 1 0xFFAF#32 0#32) = true := by
  decide +kernel

/-- R153's selectors, and counts of bits (Table 8-4). -/
theorem test_bytes_and_counts :
    (gives (.prmb plainHdr { d := 1#9, a := .reg 2#9, b := 3#9, pick := 0x0123#16 }) [(2, 0x11223344#32), (3, 0x55667788#32)] 1 0x44332211#32 0#32 &&
     gives (.prmb plainHdr { d := 1#9, a := .reg 2#9, b := 3#9, pick := 0x7654#16 }) [(2, 0x11223344#32), (3, 0x55667788#32)] 1 0x55667788#32 0#32 &&
     gives (.prmb plainHdr { d := 1#9, a := .reg 2#9, b := 3#9, pick := 0x000C#16 }) [(3, 0x80#32)] 1 0xFF#32 0#32 &&
     gives (.clz plainHdr { d := 1#9, b := 2#9 }) [(2, 0x00800000#32)] 1 8#32 0#32 &&
     gives (.popc plainHdr { d := 1#9, b := 2#9 }) [(2, 0xF00F#32)] 1 8#32 0#32 &&
     gives (.brev plainHdr { d := 1#9, b := 2#9 }) [(2, 1#32)] 1 0x80000000#32 0#32) = true := by decide +kernel

/-- Signed and unsigned order (R154), and R155's table of an AND. -/
theorem test_predicates :
    (decides (.icmp plainHdr { cc := .lt, ty := .s32, p := 1#3, a := .reg 2#9, b := .imm 1#32 }) [(2, 0xFFFFFFFF#32)] 1#3 true 0#32 &&
     decides (.icmp plainHdr { cc := .lt, ty := .n32, p := 1#3, a := .reg 2#9, b := .imm 1#32 }) [(2, 0xFFFFFFFF#32)] 1#3 false 0#32 &&
     decides (.plop plainHdr { p := 1#3, pa := 7#3, pb := 7#3, pc := 7#3, table := 0x80#8 }) [] 1#3 true 0#32 &&
     decides (.plop plainHdr { p := 1#3, pa := 7#3, pb := 3#3, pc := 7#3, table := 0xC0#8 }) [] 1#3 false 0#32 &&
     decides (.g2p plainHdr { b := 2#9, mask := 4#7 }) [(2, 0xFF#32)] 2#3 true 0#32 &&
     decides (.g2p plainHdr { b := 2#9, mask := 4#7 }) [(2, 0xFF#32)] 1#3 false 0#32) = true := by decide +kernel

/-- An FP32 instruction on registers 2 and 3, or 1 for an addend. -/
def fpArgs (m : Round) (sat : Bool) : FpArgs :=
  { rnd := m, na := false, aa := false, nb := false, ab := false, sat := sat, d := 1#9, a := .reg 2#9, b := .reg 3#9 }

/-- R165's example; 2^24 + 1 rounds to even; 0 times infinity is the canonical NaN with INVALID (R166, R167). -/
theorem test_fp32_arithmetic :
    (gives (.fadd plainHdr (fpArgs .rn true)) [(2, 0x3F400000#32), (3, 0x3F000000#32)] 1 0x3F800000#32 32#32 &&
     gives (.fadd plainHdr (fpArgs .rn false)) [(2, 0x4B800000#32), (3, 0x3F800000#32)] 1 0x4B800000#32 16#32 &&
     gives (.fadd plainHdr (fpArgs .ru false)) [(2, 0x4B800000#32), (3, 0x3F800000#32)] 1 0x4B800001#32 16#32 &&
     gives (.fmul plainHdr (fpArgs .rn false)) [(3, 0x7F800000#32)] 1 0x7FC00000#32 1#32 &&
     gives (.fma plainHdr (fpArgs .rn false)) [(1, 0xBF800000#32), (2, 0x3F800000#32), (3, 0x3F800000#32)] 1 0#32 0#32 &&
     gives (.fsub plainHdr (fpArgs .rd false)) [(2, 0x3F800000#32), (3, 0x3F800000#32)] 1 0x80000000#32 0#32) = true := by decide +kernel

/-- Table 9-6. -/
theorem test_ftoi :
    (gives (.ftoi plainHdr { rnd := .rn, ty := .s32, d := 1#9, b := 2#9 }) [(2, 0x40200000#32)] 1 2#32 16#32 &&
     gives (.ftoi plainHdr { rnd := .ra, ty := .s32, d := 1#9, b := 2#9 }) [(2, 0xC0200000#32)] 1 0xFFFFFFFD#32 16#32 &&
     gives (.ftoi plainHdr { rnd := .rn, ty := .n32, d := 1#9, b := 2#9 }) [(2, 0xBF800000#32)] 1 0#32 32#32 &&
     gives (.ftoi plainHdr { rnd := .rn, ty := .n32, d := 1#9, b := 2#9 }) [(2, 0xBF000000#32)] 1 0#32 16#32 &&
     gives (.ftoi plainHdr { rnd := .rz, ty := .n32, d := 1#9, b := 2#9 }) [(2, 0x4F800000#32)] 1 0xFFFFFFFF#32 32#32 &&
     gives (.ftoi plainHdr { rnd := .rn, ty := .s32, d := 1#9, b := 2#9 }) [(2, 0xFF800000#32)] 1 0x80000000#32 32#32 &&
     gives (.ftoi plainHdr { rnd := .rn, ty := .s32, d := 1#9, b := 2#9 }) [(2, 0x7FC00000#32)] 1 0#32 1#32) = true := by decide +kernel

theorem test_itof :
    (gives (.itof plainHdr { rnd := .rn, ty := .n32, d := 1#9, b := .reg 2#9 }) [(2, 0xFFFFFFFF#32)] 1 0x4F800000#32 16#32 &&
     gives (.itof plainHdr { rnd := .rz, ty := .n32, d := 1#9, b := .reg 2#9 }) [(2, 0xFFFFFFFF#32)] 1 0x4F7FFFFF#32 16#32 &&
     gives (.itof plainHdr { rnd := .rn, ty := .s32, d := 1#9, b := .reg 2#9 }) [(2, 0x80000000#32)] 1 0xCF000000#32 0#32) = true := by decide +kernel

/-- Table 9-5 and the examples below it: FEXP2 of -140 and of -149.5, and special operands. -/
def funArgs : FunArgs := { rnd := .rn, nb := false, ab := false, sat := false, d := 1#9, b := .reg 2#9 }

theorem test_functions :
    (starts (.fexp2 plainHdr funArgs) [(2, 0xC30C0000#32)] [(1, 0x200#32)] 0 && starts (.fexp2 plainHdr funArgs) [(2, 0xC3158000#32)] [(1, 1#32)] 24 &&
     starts (.frcp plainHdr funArgs) [(2, 0x80000000#32)] [(1, 0xFF800000#32)] 2 && starts (.frsq plainHdr funArgs) [(2, 0xBF800000#32)] [(1, 0x7FC00000#32)] 1 &&
     starts (.flog2 plainHdr funArgs) [] [(1, 0xFF800000#32)] 2 && starts (.fsqrt plainHdr funArgs) [(2, 0x80000000#32)] [(1, 0x80000000#32)] 0 &&
     starts (.fsinp plainHdr funArgs) [(2, 0x3F000000#32)] [(1, 0x3F800000#32)] 0 &&
     starts (.fcosp plainHdr funArgs) [(2, 0x3F800000#32)] [(1, 0xBF800000#32)] 0) = true := by decide +kernel

/-- R170's rounding of 2.5 to an integral value, and the sign of -0.5. -/
theorem test_frint :
    (gives (.frint plainHdr { rnd := .rn, nb := false, ab := false, d := 1#9, b := .imm 0x40200000#32 }) [] 1 0x40000000#32 16#32 &&
     gives (.frint plainHdr { rnd := .ra, nb := false, ab := false, d := 1#9, b := .imm 0x40200000#32 }) [] 1 0x40400000#32 16#32 &&
     gives (.frint plainHdr { rnd := .rn, nb := false, ab := false, d := 1#9, b := .imm 0xBF000000#32 }) [] 1 0x80000000#32 16#32) = true := by
  decide +kernel

/-! ## Crews -/

/-- Three lanes of a crew on the same instruction, lane 1 with a false guard; register 4 of lane i is i + 1. -/
def crewState (i : Instr) : State :=
  let th (n : Nat) : Thread := { wThread [(4, BitVec.ofNat 32 (n + 1))] with tid := n, preds := if n = 1 then 0#8 else 2#8 }
  { wState i wData with
    gangs := [(0, { fetchGang with threads := 3 })], threads := [(0, th 0), (1, th 1), (2, th 2)]
    sched := { State.reset.sched with issue := some { wIssue i with members := [0, 1, 2] } } }

/-- Register `d` of the three lanes after the collective. -/
def crewGives (i : Instr) (d : Nat) (vs : List Word) : Bool :=
  match exec i (crewState i) with
  | .next s => ([0, 1, 2].map fun t => ((s.thread t).map fun th => th.reg d)) == vs.map some
  | _ => false

def p1 : Hdr := { plainHdr with pred := 1#3 }

/-- Table 8-9 with three lanes: lane 1 has arrived but contributes nothing, and its register is unchanged. -/
theorem test_collectives :
    (crewGives (.cscan p1 { ty := .s32, op := .add, d := 6#9, b := .reg 4#9 }) 6 [1#32, 0#32, 4#32] &&
     crewGives (.cred p1 .add { ty := .s32, d := 7#9, b := .imm 1#32 }) 7 [2#32, 0#32, 2#32] &&
     crewGives (.voteBallot p1 { d := 8#9, pa := 1#3 }) 8 [5#32, 0#32, 5#32] &&
     crewGives (.matchLanes p1 { d := 9#9, b := 5#9 }) 9 [5#32, 0#32, 5#32] &&
     crewGives (.matchLanes p1 { d := 9#9, b := 4#9 }) 9 [1#32, 0#32, 4#32] &&
     crewGives (.shflXor p1 { d := 9#9, a := 4#9, b := .imm 2#32 }) 9 [3#32, 0#32, 1#32]) = true := by decide +kernel

/-! ## Control, memory, choice and system -/

/-- TRAP 77 of a thread with a handler enters it with SOFTWARE, FPC at the TRAP and the code in FIMM (R146). -/
theorem test_trap :
    (ran (.trap plainHdr { off := 77#32 }) []).map (fun th => (th.pc, th.faults.fcause, th.faults.fpc, th.faults.fimm, th.faults.fopc, th.faults.inh))
      = some (65536#56, 0x18#32, 65536#64, 77#32, 0x00C#32, true) := by decide +kernel

/-- BRA to the next instruction, to itself, and CALL's saved return address (R139, R141). -/
theorem test_branches :
    (ran (.bra plainHdr { off := 2#32 }) []).map (·.pc) = some (BitVec.ofNat 56 (65536 + 36)) ∧
    (ran (.call plainHdr { off := 2#32 }) []).map (fun th => (th.pc, th.csp, Memory.readNat th.priv 1016 8))
      = some (BitVec.ofNat 56 (65536 + 36), 1016#32, 65536 + 12) := by decide +kernel

/-- A store of two bytes to private memory is little-endian, and leaves its neighbours (R186). -/
theorem test_private_store :
    (ran (.st plainHdr { space := .priv, width := .w16, hint := 0#2, d := 2#9, a := .zero, off := 6#32 }) [(2, 0xAABBCCDD#32)]).map (·.priv)
      = some [(6, 0xDD#8), (7, 0xCC#8)] := by decide +kernel

/-- A store of four bytes to the scratchpad stands in one entry of the queue, at its place in the block (R86). -/
theorem test_shared_store :
    (ran (.st plainHdr { space := .scr, width := .w32, hint := 0#2, d := 2#9, a := .zero, off := 20#32 }) [(2, 7#32)]).map (fun th =>
      th.psq.map fun (e : PsqEntry) => (e.block, e.data, e.mask, e.tent)) = some [(1, 7#128 <<< 32, 0xF0#16, false)] := by decide +kernel

/-- TRAILW of one register in a choice frame (Table 12-3): the entry's kind, register and old value; TRP moves by 16. -/
theorem test_trail_entry :
    (match exec (wTrailw 1#6) (wState (wTrailw 1#6) (wChoice 64)) with
     | .next s => (s.thread 0).map fun th => (th.trp, Memory.readNat th.priv 416 16)
     | _ => none) = some (432, 0xFFFFFFFF * 2 ^ 64 + 2 * 2 ^ 62 + 2) := by decide +kernel

/-- The special registers of a thread alone in its gang, and FRM's range (R254, R257). -/
theorem test_special_registers :
    (gives (.movs plainHdr { d := 2#9, idx := 0x006#12 }) [] 2 1#32 0#32 && gives (.movs plainHdr { d := 2#9, idx := 0x01A#12 }) [] 2 0xF#32 0#32 &&
     gives (.movs plainHdr { d := 2#9, idx := 0x014#12 }) [] 2 1024#32 0#32 && gives (.mark plainHdr { d := 2#9 }) [(2, 9#32)] 2 0#32 0#32 &&
     gives (.setsFlg plainHdr 2#9) [(2, 0xFF#32)] 2 0xFF#32 0x3F#32) = true := by decide +kernel

/-- Table 13-4 (R268): the counts that its periods start with, for a budget of 4,096. -/
theorem test_budget_periods :
    [refillCount 4096 3096, refillCount 4096 7192, refillCount 4096 0, refillCount 4096 (-32)] = [7192, 8192, 4096, 4064] := by
  decide

/-- The example of R277: a request of core 37 to slice 300 crosses two Strait boundaries. -/
theorem test_strait_crossings : straits (dieOf 37) (dieOf 300) = 2 ∧ straits 1 1 = 0 ∧ straits 0 2 = 1 := by decide

end
end

section
/-! SUPPORT and CLAIM. SPLIT (R26, R143): one lane after another of a group records itself at its crew, and what stands
there after any number of them is the crew of before with one record for all the lanes that took part. -/

namespace Sys2Proof.Machine

/-! ## The record of the lanes of one SPLIT -/

/-- The top record of a crew is one that a SPLIT at `pc` with the target `target` joins (R26). -/
def Crew.joins (c : Crew) (pc target : Addr56) : Bool :=
  c.records.head?.any fun r => r.split == pc && r.rejoin == target && r.arrived == 0#32

/-- A crew after the lanes `m` have executed a SPLIT at `pc` with the target `target` (R26). -/
def Crew.recorded (c : Crew) (pc target : Addr56) (m : BitVec 32) : Crew :=
  { c with records :=
      if m = 0#32 then c.records
      else if c.joins pc target = true then c.records.modifyHead fun r => { r with mask := r.mask ||| m }
      else ⟨pc, target, m, 0#32⟩ :: c.records }

section Recorded
variable {c : Crew} {pc target : Addr56} {m b : BitVec 32}

@[simp] theorem Crew.recorded_zero : c.recorded pc target 0#32 = c := rfl

theorem Crew.joins_cons {r : Rejoin} {rest : List Rejoin} (hr : c.records = r :: rest) :
    c.joins pc target = true ↔ r.split = pc ∧ r.rejoin = target ∧ r.arrived = 0#32 := by
  simp [Crew.joins, hr, and_assoc]

/-- A lane's SPLIT finds room where it joins the top record, or where that is not the eighth. -/
theorem Crew.split_of_room (hroom : c.joins pc target = true ∨ c.records.length < 8) (hb : b ≠ 0#32) :
    c.split pc target b = some (c.recorded pc target b) := by
  cases hr : c.records with
  | nil => simp [Crew.split, Crew.recorded, Crew.joins, hr, hb]
  | cons r rest =>
    by_cases hj : c.joins pc target = true
    · have hjr := (Crew.joins_cons hr).1 hj
      simp only [Crew.split, Crew.recorded, hr, if_pos hjr, if_neg hb, if_pos hj, List.modifyHead_cons]
    · have hjr := mt (Crew.joins_cons hr).2 hj
      have hlen : ¬ 8 ≤ (r :: rest).length := hr ▸ Nat.not_le.2 (hroom.resolve_left hj)
      simp only [Crew.split, Crew.recorded, hr, if_neg hjr, if_neg hlen, if_neg hb, if_neg hj]

/-- Once a lane has been recorded, the top record is its SPLIT's own. -/
theorem Crew.joins_recorded (hm : m ≠ 0#32) : (c.recorded pc target m).joins pc target = true := by
  by_cases hj : c.joins pc target = true
  · cases hr : c.records with
    | nil => simp [Crew.joins, hr] at hj
    | cons r rest =>
      rw [Crew.joins_cons (r := { r with mask := r.mask ||| m }) (rest := rest) (by simp [Crew.recorded, hm, hj, hr])]
      exact (Crew.joins_cons hr).1 hj
  · rw [Crew.joins_cons (r := ⟨pc, target, m, 0#32⟩) (rest := c.records) (by simp [Crew.recorded, hm, hj])]
    exact ⟨rfl, rfl, rfl⟩

/-- The lanes of a SPLIT come into one record, whether they are recorded together or one group after the other. -/
theorem Crew.recorded_recorded (hm : m ≠ 0#32) (hb : b ≠ 0#32) :
    (c.recorded pc target m).recorded pc target b = c.recorded pc target (m ||| b) := by
  have hj' := Crew.joins_recorded (c := c) (pc := pc) (target := target) hm
  have hmb : m ||| b ≠ 0#32 := fun h => hm (BitVec.or_eq_zero_iff.1 h).1
  simp only [Crew.recorded, if_neg hm] at hj' ⊢
  simp only [if_neg hb, if_pos hj', if_neg hmb]
  by_cases hj : c.joins pc target = true
  · simp [hj, List.modifyHead_modifyHead, Function.comp_def, BitVec.or_assoc]
  · simp [hj]

/-- One more lane executes the SPLIT, after the lanes `m`. -/
theorem Crew.split_recorded (hroom : c.joins pc target = true ∨ c.records.length < 8) (hb : b ≠ 0#32) :
    (c.recorded pc target m).split pc target b = some (c.recorded pc target (m ||| b)) := by
  by_cases hm : m = 0#32
  · simpa [hm] using Crew.split_of_room hroom hb
  · rw [Crew.split_of_room (.inl (Crew.joins_recorded hm)) hb, Crew.recorded_recorded hm hb]

end Recorded

theorem laneBit_ne_zero (t : Nat) : laneBit t ≠ 0#32 := by
  have h : (laneBit t).getLsbD (laneOf t) = true := by
    simp [laneBit, laneOf, Nat.mod_lt]
  intro h0
  simp [h0] at h

/-! ## One lane of the group -/

/-- The effect of SPLIT on one lane; `full` where some lane of the group meets a full crew (R143). -/
def splitLane (x : OffArgs) (full : Bool) (pc : Addr56) (s : State) (t : Nat) : LaneRes :=
  if !s.isCode t (braTarget pc x.off) then .fault (badTarget (braTarget pc x.off))
  else
    match (s.crew (crewOf t)).split pc (BitVec.ofNat 56 (braTarget pc x.off)) (laneBit t) with
    | none => .fault (infoFault Code.callStack 2)
    | some c => .ok (if full then s else s.setCrew (crewOf t) c)

theorem exec_split (h : Hdr) (x : OffArgs) (s : State) :
    exec (.split h x) s = perThread (.split h x) (splitLane x (s.splitFull h x)) s := rfl

theorem braTarget_eq (pc : Addr56) (off : Word) : braTarget pc off = (ruleTarget pc off).toNat := rfl

theorem splitLane_ok {x : OffArgs} {pc : Addr56} {s : State} {t : Nat} {c : Crew}
    (hcode : s.isCode t (ruleTarget pc x.off).toNat = true)
    (hc : (s.crew (crewOf t)).split pc (ruleTarget pc x.off) (laneBit t) = some c) :
    splitLane x false pc s t = .ok (s.setCrew (crewOf t) c) := by
  simp [splitLane, braTarget_eq, hcode, hc]

theorem Alike.isCode {s s' : State} (h : Alike s s') (t a : Nat) : s'.isCode t a = s.isCode t a := by
  simp only [State.isCode, State.codeBase, h.jobOf]

@[simp] theorem State.crew_setCrew_same (s : State) (k : Nat) (c : Crew) : (s.setCrew k c).crew k = c := by
  simp [State.crew]

theorem State.crew_setCrew_other (s : State) (k j : Nat) (c : Crew) (h : j ≠ k) : (s.setCrew k c).crew j = s.crew j := by
  simp [State.crew, Tab.getD_set_other _ _ _ _ _ h]

/-- The lanes that take part, where the group has one more member. -/
theorem takingLanes_append {s : State} {iss : Issue} {ms : List Nat} {t : Nat} {th : Thread} (ht : s.thread t = some th) :
    takingLanes s { iss with members := ms ++ [t] }
      = if th.guard (headerOf iss.word) = true then takingLanes s { iss with members := ms } ||| laneBit t
        else takingLanes s { iss with members := ms } := by
  simp [takingLanes, ht, laneBit]

/-! ## The group, lane after lane -/

/-- A thread after its lane of a SPLIT: it has issued, and goes on at the next instruction. -/
def Thread.splitOut (a : Thread) (h : Hdr) (x : OffArgs) (s : State) (iss : Issue) (t : Nat) : Thread :=
  a.laneOut (.split h x) iss (a.marks.inRun || s.inLoop t iss.pc) fun b => b

/-- What holds after the lanes `done` of a SPLIT that crew `k` executes from the state `s0`: those that took part stand
in its record, and beside that crew only their own threads have changed. -/
structure SplitBy (h : Hdr) (x : OffArgs) (s0 : State) (iss : Issue) (k : Nat) (done : List Nat) (s : State) : Prop where
  alike  : Alike s0 { s with crews := s0.crews }
  crew   : s.crew k
    = (s0.crew k).recorded iss.pc (ruleTarget iss.pc x.off) (takingLanes s0 { iss with members := done })
  crews  : ∀ j, j ≠ k → s.crew j = s0.crew j
  others : ∀ t, t ∉ done → s.thread t = s0.thread t
  own    : ∀ t ∈ done, ∀ a, s0.thread t = some a → s.thread t = some (a.splitOut h x s0 iss t)

section Group
variable {h : Hdr} {x : OffArgs} {s0 s : State} {iss : Issue} {k : Nat} {done : List Nat} {t : Nat} {th : Thread}

theorem SplitBy.nil : SplitBy h x s0 iss k [] s0 :=
  ⟨Alike.refl s0, rfl, fun _ _ => rfl, fun _ _ => rfl, fun _ ht => absurd ht List.not_mem_nil⟩

theorem Thread.splitOut_gang : (th.splitOut h x s0 iss t).gang = th.gang := by
  unfold Thread.splitOut Thread.laneOut
  split
  · exact Thread.keepOperand_gang _ _ _
  · rfl

/-- A lane that has issued, with the crews `cs` after it, carries the invariant on. -/
theorem SplitBy.next (hs : SplitBy h x s0 iss k done s) (hnew : t ∉ done) (ht : s0.thread t = some th) (cs : Tab Crew)
    (hcrew : ({ s with crews := cs } : State).crew k = (s0.crew k).recorded iss.pc (ruleTarget iss.pc x.off)
      (takingLanes s0 { iss with members := done ++ [t] }))
    (hcrews : ∀ j, j ≠ k → ({ s with crews := cs } : State).crew j = s.crew j) :
    SplitBy h x s0 iss k (done ++ [t]) { s.setThread t (th.splitOut h x s0 iss t) with crews := cs } where
  alike := hs.alike.setThread ((hs.others t hnew).trans ht) Thread.splitOut_gang
  crew := hcrew
  crews j hj := (hcrews j hj).trans (hs.crews j hj)
  others u hu := by
    have hu' : u ∉ done ∧ u ≠ t := by simpa using hu
    exact (State.thread_setThread_other s t u _ hu'.2).trans (hs.others u hu'.1)
  own u hu a ha := by
    by_cases e : u = t
    · subst e
      obtain rfl : th = a := Option.some.inj (ht.symm.trans ha)
      exact State.thread_setThread_same s u _
    · have hu' : u ∈ done := by simpa [e] using hu
      exact (State.thread_setThread_other s t u _ e).trans (hs.own u hu' a ha)

/-- One more lane of the group executes the SPLIT. -/
theorem SplitBy.runLane (hs : SplitBy h x s0 iss k done s) (hnew : t ∉ done) (ht : s0.thread t = some th)
    (hpass : th.guard (headerOf iss.word) = true → precheck s0 t th (.split h x) = none ∧ th.untokened (.split h x))
    (hk : crewOf t = k) (hcode : s0.isCode t (ruleTarget iss.pc x.off).toNat = true)
    (hroom : (s0.crew k).joins iss.pc (ruleTarget iss.pc x.off) = true ∨ (s0.crew k).records.length < 8) :
    SplitBy h x s0 iss k (done ++ [t]) (runLane (.split h x) iss (splitLane x false) s t) := by
  have hst : s.thread t = some th := (hs.others t hnew).trans ht
  have hloop : s.inLoop t iss.pc = s0.inLoop t iss.pc := hs.alike.inLoop t iss.pc
  have hlanes := takingLanes_append (iss := iss) (ms := done) ht
  by_cases hg : th.guard (headerOf iss.word) = true
  · obtain ⟨hc, hu⟩ := hpass hg
    have hent : s.entered (.split h x) t th iss = s.setThread t (th.splitOut h x s0 iss t) := by
      simp [State.entered, Thread.splitOut, Thread.laneOut, hg, hloop]
    have hcode' : (s.setThread t (th.splitOut h x s0 iss t)).isCode t (ruleTarget iss.pc x.off).toNat = true :=
      ((hs.alike.setThread hst Thread.splitOut_gang).isCode t _).trans hcode
    have hsplit := Crew.split_recorded (m := takingLanes s0 { iss with members := done }) hroom (laneBit_ne_zero t)
    rw [← hs.crew, ← hk] at hsplit
    rw [runLane_true hst hg ((hs.alike.precheck t th _).trans hc) hu, hent, splitLane_ok hcode' hsplit]
    rw [if_pos hg] at hlanes
    refine hs.next hnew ht _ ?_ ?_
    · rw [hlanes, hk]; exact State.crew_setCrew_same s k _
    · rw [hk]; exact fun j hj => State.crew_setCrew_other s k j _ hj
  · have hg' : th.guard (headerOf iss.word) = false := by simpa using hg
    have hout : th.passed (.split h x) iss (th.marks.inRun || s.inLoop t iss.pc) = th.splitOut h x s0 iss t := by
      simp [Thread.splitOut, Thread.laneOut, hg', hloop]
    rw [runLane_false hst hg', hout]
    rw [if_neg hg] at hlanes
    exact hs.next hnew ht s.crews (hlanes ▸ hs.crew) fun _ _ => rfl

end Group

section Claim
variable {h : Hdr} {x : OffArgs} {s : State} {iss : Issue} {k : Nat}

/-- No lane of the group meets a full crew. -/
theorem splitFull_eq_false (hlatched : s.sched.issue = some iss) (hk : ∀ t ∈ iss.members, crewOf t = k)
    (hroom : (s.crew k).joins iss.pc (ruleTarget iss.pc x.off) = true ∨ (s.crew k).records.length < 8) :
    s.splitFull h x = false := by
  have hsome : ∀ t ∈ iss.members,
      ((s.crew (crewOf t)).split iss.pc (ruleTarget iss.pc x.off) (laneBit t)).isNone = false := by
    intro t ht
    rw [hk t ht, Crew.split_of_room hroom (laneBit_ne_zero t)]
    rfl
  simp only [State.splitFull, hlatched, braTarget_eq, BitVec.ofNat_toNat, BitVec.setWidth_eq, List.any_eq_false]
  intro t ht
  simp [hsome t ht]

/-- The whole group executes the SPLIT. -/
theorem splitBy_members (hr : Ready (.split h x) s iss) (hk : ∀ t ∈ iss.members, crewOf t = k)
    (hcode : ∀ t ∈ iss.members, s.isCode t (ruleTarget iss.pc x.off).toNat = true)
    (hroom : (s.crew k).joins iss.pc (ruleTarget iss.pc x.off) = true ∨ (s.crew k).records.length < 8) :
    SplitBy h x s iss k iss.members (iss.members.foldl (runLane (.split h x) iss (splitLane x false)) s) := by
  suffices H : ∀ done : List Nat, done.Nodup → done ⊆ iss.members →
      SplitBy h x s iss k done (done.foldl (runLane (.split h x) iss (splitLane x false)) s) from
    H _ hr.distinct (List.Subset.refl _)
  intro done hnodup hsub
  induction done using List.reverseRecOn with
  | nil => exact SplitBy.nil
  | append_singleton ms t ih =>
    obtain ⟨hnew, hms⟩ := List.nodup_cons.1 (List.nodup_append_comm.1 hnodup : (t :: ms).Nodup)
    obtain ⟨hsubms, hsubt⟩ := List.append_subset.1 hsub
    have ht : t ∈ iss.members := hsubt (List.mem_singleton_self t)
    obtain ⟨th, hth, _, hpass⟩ := hr.passes t ht
    rw [List.foldl_append]
    exact (ih hms hsubms).runLane hnew hth hpass (hk t ht) (hcode t ht) hroom

/-- A thread after its lane of a SPLIT has only passed it, whether it took part or not. -/
theorem Thread.computed_splitOut (a : Thread) (t : Nat) :
    Computed iss.pc noReg 0 noPred [] a (a.splitOut h x s iss t) := by
  have hlane := Thread.computed_lane (a := a) (i := .split h x) (iss := iss) (run := a.marks.inRun || s.inLoop t iss.pc)
    (fun _ _ => ⟨rfl, rfl, rfl, rfl⟩) fun b _ => Effect.none b
  rwa [ite_self] at hlane

end Claim

/-- Settles O13: the lanes of the group are recorded one after the other, each beside those before it. -/
theorem splitRecordsTheGroup : Obligations.SplitRecordsTheGroup := by
  intro h x s iss k hr hk hcode top same hroom
  have hby := splitBy_members hr hk hcode hroom
  have hexec : exec (.split h x) s = .next (iss.members.foldl (runLane (.split h x) iss (splitLane x false)) s) := by
    rw [exec_split, splitFull_eq_false hr.latched hk hroom, perThread, hr.latched]
  exact ⟨_, hexec, hby.alike.rest, hby.crews, by rw [hby.crew]; rfl, by rw [hby.crew]; rfl, hby.others,
    fun t ht a ha => ⟨_, hby.own t ht a ha, a.computed_splitOut t⟩⟩

end Sys2Proof.Machine
end

section
/-! SUPPORT. An instruction of a single thread: what its lane does where its own effect answers a next state, and where
it raises a fault that its handler takes (R122, R133, R359). -/

namespace Sys2Proof.Machine

/-! ## The lane of a single thread -/

section Group
variable {i : Instr} {f : Addr56 → State → Nat → LaneRes} {s s' : State} {iss : Issue} {t : Nat} {th a : Thread}

theorem Single.perThread_eq (h : Single i s iss t th) : perThread i f s = .next (runLane i iss f s t) := by
  simp [perThread, h.latched, h.members]

/-- The effect of the instruction answers a state. -/
theorem Single.next_of_ok (h : Single i s iss t th) (hf : f iss.pc (s.entered i t th iss) t = .ok s') :
    perThread i f s = .next s' := by
  rw [h.perThread_eq, runLane_true h.thread h.guard h.checks h.tokens, hf]

/-- The instruction fails a check. -/
theorem Single.next_of_fault {e : FaultInfo} (h : Single i s iss t th)
    (hf : f iss.pc (s.entered i t th iss) t = .fault e) :
    perThread i f s
      = .next (((s.setThread t (th.began i iss)).logFault t e).deliverFault t (faultOf th i iss e)) := by
  rw [h.perThread_eq, runLane_true h.thread h.guard h.checks h.tokens, hf]

/-- Thread `a` is thread `th` as the effect of the instruction that it has issued begins: its data are as they were, and
it stands at the next instruction (R122, R133). -/
structure Issued (iss : Issue) (th a : Thread) : Prop where
  data  : SameData th a
  pc    : a.pc = iss.pc + 12#56
  longs : a.longs.map (·.kind) = th.longs.map (·.kind)
  order : a.order = th.order + 1

theorem Thread.began_same (th : Thread) (i : Instr) (iss : Issue) : SameData th (th.began i iss) :=
  ⟨rfl, rfl, rfl, ⟨rfl, rfl, rfl, rfl, rfl, rfl, rfl, rfl, rfl, rfl, rfl, rfl, rfl, rfl⟩⟩

theorem Thread.keepOperand_order (th : Thread) (h : Hdr) (y : Body) : (th.keepOperand h y).order = th.order := by
  unfold Thread.keepOperand; repeat' split <;> try rfl

theorem State.entered_eq (i : Instr) (s : State) (t : Nat) (th : Thread) (iss : Issue) :
    ∃ a, s.entered i t th iss = s.setThread t a ∧ Issued iss th a :=
  ⟨_, rfl, th.entered_same i iss _, by rw [Thread.keepOperand_pc]; rfl,
    by rw [Thread.keepOperand_longs, Thread.passed_kinds], by rw [Thread.keepOperand_order]; rfl⟩

/-- A thread that has only issued its instruction. -/
theorem Issued.computed (h : Issued iss th a) : Computed iss.pc noReg 0 noPred [] th a where
  pc := h.pc
  regs r := Thread.reg_congr h.data.regs r
  flg := by simp [h.data.flg]
  preds n := Thread.pred_congr h.data.preds n
  longs := by simp [h.longs]
  rest := h.data.rest

end Group

/-! ## A fault that the handler takes -/

/-- A fault code that writes nothing to the error log (Table 25-2). -/
theorem State.logFault_unlogged {s : State} {t : Nat} {e : FaultInfo} (ha : e.code ≠ Code.access)
    (hs : e.code ≠ Code.synonym) : s.logFault t e = s := by
  simp [State.logFault, ha, hs]

/-- The fault registers of a decoded instruction are those that the tables name. -/
theorem faultOf_regs (th : Thread) (i : Instr) (iss : Issue) (e : FaultInfo) :
    (faultOf th i iss e).regs = ruleFaultRegs e.code iss.word iss.pc (th.fopa i (Fields.ofWord iss.word).body)
      (th.fopb i (Fields.ofWord iss.word).body) e.info e.addr := by
  have hopc : BitVec.ofNat 32 ((slice iss.word 0 8).toNat + 256 * (slice iss.word 8 4).toNat)
      = (iss.word.setWidth 12).setWidth 32 := by
    apply BitVec.eq_of_toNat_eq; simp [slice]; omega
  have hopd : BitVec.ofNat 32 ((slice iss.word 16 9).toNat + 2 ^ 9 * (slice iss.word 25 9).toNat
      + 2 ^ 18 * (slice iss.word 34 9).toNat) = (iss.word.extractLsb' 16 27).setWidth 32 := by
    apply BitVec.eq_of_toNat_eq; simp [slice, Nat.shiftRight_eq_div_pow]; omega
  have himm : slice iss.word 64 32 = iss.word.extractLsb' 64 32 := by
    apply BitVec.eq_of_toNat_eq; simp [slice, Nat.shiftRight_eq_div_pow]
  have hmod : slice iss.word 53 11 = iss.word.extractLsb' 53 11 := by
    apply BitVec.eq_of_toNat_eq; simp [slice, Nat.shiftRight_eq_div_pow]
  have hgd : slice iss.word 12 4 = iss.word.extractLsb' 12 4 := by
    apply BitVec.eq_of_toNat_eq; simp [slice, Nat.shiftRight_eq_div_pow]
  have haddr : hi32 e.addr = e.addr.extractLsb' 32 32 := by
    apply BitVec.eq_of_toNat_eq; simp [hi32, Nat.shiftRight_eq_div_pow]
  simp only [FaultRec.regs, faultOf, ruleFaultRegs, Fields.ofWord, hopc, hopd, himm, hmod, hgd, haddr, lo32, bit]
  simp

/-- The loop buffer of a core is freed, or nothing happens (R324). -/
theorem State.freeLoop_cases (s : State) (c : Nat) :
    s.freeLoop c = s ∨ s.freeLoop c = s.modCore c fun x => { x with loop := none } := by
  unfold State.freeLoop
  split
  · exact .inl rfl
  · exact .inr rfl

theorem SameButWaits.refl (t : Nat) (s : State) : SameButWaits t s s :=
  ⟨fun _ _ => rfl, rfl, fun _ => rfl, fun _ => rfl⟩

section Waits
variable {s s' : State} {t : Nat}

theorem SameButWaits.setThread (h : SameButWaits t s s') (b : Thread) : SameButWaits t s (s'.setThread t b) where
  others u hu := (State.thread_setThread_other s' t u b hu).trans (h.others u hu)
  rest := h.rest
  cores := h.cores
  isles := h.isles

theorem SameButWaits.dropWaits (h : SameButWaits t s s') (u : Nat) : SameButWaits t s (s'.dropWaits u) where
  others := h.others
  rest := h.rest
  cores := h.cores
  isles n := by
    by_cases hn : n = isleOf (coreOf u)
    · subst hn; simpa [State.dropWaits, State.modIsle] using h.isles _
    · rw [State.dropWaits, State.modIsle, State.isle_setIsle_other _ _ _ _ hn]; exact h.isles n

theorem SameButWaits.freeLoop (h : SameButWaits t s s') (c : Nat) : SameButWaits t s (s'.freeLoop c) := by
  rcases s'.freeLoop_cases c with e | e
  · rwa [e]
  · rw [e]
    refine ⟨h.others, h.rest, fun d => ?_, h.isles⟩
    by_cases hd : d = c
    · subst hd; simpa [State.modCore] using h.cores d
    · rw [State.modCore, State.core_setCore_other _ _ _ _ hd]; exact h.cores d

end Waits

section Fault
variable {s : State} {t : Nat} {th a : Thread}

@[simp] theorem State.dropWaits_gangs (s : State) (t : Nat) : (s.dropWaits t).gangs = s.gangs := rfl

@[simp] theorem State.freeLoop_gangs (s : State) (c : Nat) : (s.freeLoop c).gangs = s.gangs := by
  rcases s.freeLoop_cases c with e | e <;> rw [e]
  rfl

/-- A thread whose fault is delivered: what held it is over, and it has left its run (R324, R359). -/
def Thread.released (a : Thread) (missed : Option Addr56) : Thread :=
  { a with
    marks := { a.marks with solo := false, yld := 0, keepA := none, inRun := false }
    hold := .none
    missed := missed }

/-- The fault of a thread whose handler may take it, and whose band goes on (R359). -/
theorem State.deliverNow_handler {f : FaultRec} (ha : s.thread t = some a) (hlongs : a.longs = [])
    (hband : s.bandStopped a = false) (hinh : a.faults.inh = false) (hhnd : a.hnd ≠ 0#64) :
    s.deliverNow t f = (((s.setThread t (a.released f.missed)).dropWaits t).freeLoop (coreOf t)).setThread t
      { a.released f.missed with faults := f.regs, pc := a.hnd.setWidth 56 } := by
  have hb : (((s.setThread t (a.released f.missed)).dropWaits t).freeLoop (coreOf t)).bandStopped
      (a.released f.missed) = false := by
    simpa [State.bandStopped, State.gang, Thread.released] using hband
  have hopen : ¬ ((a.released f.missed).faults.inh || (a.released f.missed).hnd == 0#64) = true := by
    simp [Thread.released, hinh, hhnd]
  simp only [State.deliverNow, ha, Thread.endMwait_clear a 3 hlongs]
  exact (if_neg (Bool.eq_false_iff.1 hb)).trans (if_neg hopen)

/-- A fault of a thread `a` that has its data from `th` enters the handler of `th` at once (R359). -/
theorem State.deliverFault_enters {f : FaultRec} (hd : Deliverable s th) (h : SameData th a) (hlongs : a.longs = [])
    (hhold : a.hold = th.hold) : EnteredHandler s ((s.setThread t a).deliverFault t f) t th f.regs := by
  have hset := State.thread_setThread_same s t a
  have hnow : a.holdsFault = false := by simp [Thread.holdsFault, hlongs, h.rest.choice, hd.calm]
  have hband : (s.setThread t a).bandStopped a = false := by
    simpa [State.bandStopped, State.gang, h.rest.gang] using hd.band
  rw [State.deliverFault_now f hset (hhold ▸ hd.live) hnow,
    State.deliverNow_handler hset hlongs hband (h.rest.faults ▸ hd.out) (h.rest.hnd ▸ hd.hnd), State.setThread_setThread]
  exact ⟨⟨_, State.thread_setThread_same _ t _, by rw [h.rest.hnd], rfl, h.regs, h.preds, h.flg, rfl,
      { h.rest with faults := rfl }⟩,
    ((((SameButWaits.refl t s).setThread _).dropWaits t).freeLoop _).setThread _⟩

/-- An instruction whose effect raises an unlogged fault under a condition. -/
theorem raises_of_fault {i : Instr} {f : Addr56 → State → Nat → LaneRes} {c : State → Nat → Thread → Addr56 → Prop}
    {code : Nat} {info : Word} {addr : State → Nat → Thread → Addr56 → DWord} (hexec : ∀ s, exec i s = perThread i f s)
    (ha : code ≠ Code.access) (hs : code ≠ Code.synonym)
    (hf : ∀ s iss t th, Single i s iss t th → c s t th iss.pc →
      f iss.pc (s.entered i t th iss) t = .fault { code := code, info := info, addr := addr s t th iss.pc }) :
    Raises i c code info addr := by
  intro s iss t th h hd hc
  refine ⟨_, (hexec s).trans (h.next_of_fault (hf s iss t th h hc)), ?_⟩
  rw [State.logFault_unlogged ha hs, ← faultOf_regs th i iss { code := code, info := info, addr := addr s t th iss.pc }]
  exact State.deliverFault_enters hd (th.began_same i iss) (by simp [Thread.began, hd.clear]) rfl

end Fault

end Sys2Proof.Machine
end

section
/-! SUPPORT. Bytes: those of a number, of a data operand, of a block in which an access has been placed, of a block that
another has been merged into, and of byte memory (R86, R185, R186). -/

namespace Sys2Proof.Machine

/-! ## Bytes and bits of a number -/

/-- The bits of a byte. -/
theorem testBit_byteOf (v i j : Nat) : (byteOf v i).testBit j = (decide (j < 8) && v.testBit (8 * i + j)) := by
  rw [byteOf, show 256 = 2 ^ 8 from rfl, ← Nat.pow_mul, Nat.testBit_mod_two_pow, Nat.testBit_div_two_pow, Nat.add_comm]

/-- Two bytes are equal where their bits are. -/
theorem byteOf_eq_of_testBit {u v i k : Nat} (h : ∀ j, j < 8 → u.testBit (8 * i + j) = v.testBit (8 * k + j)) :
    byteOf u i = byteOf v k := by
  apply Nat.eq_of_testBit_eq
  intro j
  rw [testBit_byteOf, testBit_byteOf]
  by_cases hj : j < 8
  · rw [h j hj]
  · simp [hj]

/-- The low `m` bytes of a number are its bytes. -/
theorem byteOf_mod {v i m : Nat} (h : i < m) : byteOf (v % 2 ^ (8 * m)) i = byteOf v i :=
  byteOf_eq_of_testBit fun j hj => by rw [Nat.testBit_mod_two_pow]; simp; omega

/-- The bytes of a number that has been moved up by `o` bytes. -/
theorem byteOf_mul_pow {v o i : Nat} (h : o ≤ i) : byteOf (v * 2 ^ (8 * o)) i = byteOf v (i - o) := by
  obtain ⟨k, rfl⟩ := Nat.exists_eq_add_of_le h
  refine byteOf_eq_of_testBit fun j hj => ?_
  rw [Nat.testBit_mul_two_pow, show 8 * (o + k) + j - 8 * o = 8 * (o + k - o) + j by omega]
  simp; omega

/-! ## The bytes of a data operand -/

section Data
variable (th : Thread) (d : Reg) {i : Nat}

/-- The bytes of a pair of registers are those of its registers. -/
theorem byteOf_pair (r : Nat) (h : i < 8) : byteOf (th.pair r).toNat i = byteOf (th.reg (r + i / 4)).toNat (i % 4) := by
  refine byteOf_eq_of_testBit fun j hj => ?_
  simp only [BitVec.testBit_toNat, Thread.pair, pair64, BitVec.getLsbD_append]
  by_cases hi : i < 4
  · rw [Nat.div_eq_of_lt hi, Nat.mod_eq_of_lt hi, if_pos (by omega), Nat.add_zero]
  · rw [show i / 4 = 1 by omega, if_neg (by omega), show 8 * i + j - 32 = 8 * (i % 4) + j by omega]

/-- A quad of registers is two pairs (R185). -/
theorem testBit_data_quad {k : Nat} (hk : k < 128) :
    (th.data .w128 d).toNat.testBit k
      = if k < 64 then (th.pair d.toNat).toNat.testBit k else (th.pair (d.toNat + 2)).toNat.testBit (k - 64) := by
  simp only [Thread.data, BitVec.testBit_toNat, BitVec.getLsbD_or, BitVec.getLsbD_shiftLeft, BitVec.getLsbD_setWidth]
  by_cases h : k < 64
  · simp [h, hk]
  · have hout : (th.pair d.toNat).getLsbD k = false := BitVec.getLsbD_of_ge _ _ (by omega)
    simp [h, hk, hout]; omega

/-- A data operand has the bytes that ST writes (R185, R186). -/
theorem byteOf_data (w : Width) (h : i < w.bytes) : byteOf (th.data w d).toNat i = storeByte th d i := by
  have hone : ∀ n, n ≤ 4 → i < n → byteOf ((th.reg d.toNat).setWidth 128).toNat i = storeByte th d i := by
    intro n hn hi
    rw [storeByte, Nat.div_eq_of_lt (by omega), Nat.mod_eq_of_lt (by omega : i < 4),
      BitVec.toNat_setWidth_of_le (by decide)]
    rfl
  cases w with
  | w8 => exact hone 1 (by decide) h
  | w16 => exact hone 2 (by decide) h
  | w32 => exact hone 4 (by decide) h
  | w64 =>
    show byteOf ((th.pair d.toNat).setWidth 128).toNat i = _
    rw [BitVec.toNat_setWidth_of_le (by decide), byteOf_pair th d.toNat h]
    rfl
  | w128 =>
    have hlen : i < 16 := h
    by_cases hi : i < 8
    · refine Eq.trans (byteOf_eq_of_testBit fun j hj => ?_) (byteOf_pair th d.toNat hi)
      rw [testBit_data_quad th d (by omega), if_pos (by omega)]
    · have hhigh := byteOf_pair th (i := i - 8) (d.toNat + 2) (by omega)
      rw [show d.toNat + 2 + (i - 8) / 4 = d.toNat + i / 4 by omega, show (i - 8) % 4 = i % 4 by omega] at hhigh
      refine Eq.trans (byteOf_eq_of_testBit fun j hj => ?_) hhigh
      rw [testBit_data_quad th d (by omega), if_neg (by omega), show 8 * i + j - 64 = 8 * (i - 8) + j by omega]

end Data

/-! ## Blocks -/

/-- The mask of an access in its block (R86). -/
theorem blockData_mask (addr size : Nat) (v : BitVec 128) {k : Nat} (hk : k < 16) :
    (blockData addr size v).2.getLsbD k = decide (addr % 16 ≤ k ∧ k < addr % 16 + size) := by
  simp only [blockData, BitVec.getLsbD_ofNat, Nat.testBit_mul_two_pow, Nat.testBit_two_pow_sub_one, hk, decide_true,
    Bool.true_and]
  rw [← Bool.decide_and]
  congr 1; simp; omega

/-- The bytes of an access in its block (R86). -/
theorem blockData_byte {addr size k : Nat} (v : BitVec 128) (hk : k < 16) (h : addr % 16 ≤ k ∧ k < addr % 16 + size) :
    byteOf (blockData addr size v).1.toNat k = byteOf v.toNat (k - addr % 16) := by
  show byteOf (BitVec.ofNat 128 _).toNat k = _
  rw [BitVec.toNat_ofNat, byteOf_mod (m := 16) hk, byteOf_mul_pow h.1, byteOf_mod (by omega)]

theorem byteMask_lt (mask n : Nat) : byteMask mask n < 2 ^ (8 * n) := by
  induction n with
  | zero => exact Nat.one_pos
  | succ n ih =>
    rw [byteMask, show 8 * (n + 1) = 8 * n + 8 from rfl, Nat.pow_add]
    split <;> omega

/-- A mask of bits selects those of the bytes that the mask of bytes does. -/
theorem testBit_byteMask (mask n i : Nat) :
    (byteMask mask n).testBit i = (decide (i < 8 * n) && mask.testBit (i / 8)) := by
  induction n with
  | zero => simp [byteMask]
  | succ n ih =>
    have hterm : (if mask / 2 ^ n % 2 = 1 then 255 * 2 ^ (8 * n) else 0)
        = 2 ^ (8 * n) * (if mask.testBit n = true then 255 else 0) := by
      rw [Nat.testBit_eq_decide_div_mod_eq]
      split <;> simp_all [Nat.mul_comm]
    rw [byteMask, hterm, Nat.add_comm, Nat.testBit_two_pow_mul_add _ (byteMask_lt mask n), ih]
    by_cases hi : i < 8 * n
    · simp [hi]; omega
    · rw [if_neg hi]
      have hbyte : (if mask.testBit n = true then 255 else 0).testBit (i - 8 * n)
          = (decide (i - 8 * n < 8) && mask.testBit n) := by
        cases mask.testBit n
        · simp
        · simpa using Nat.testBit_two_pow_sub_one 8 (i - 8 * n)
      rw [hbyte]
      by_cases hi' : i - 8 * n < 8
      · rw [show i / 8 = n by omega, decide_eq_true hi', decide_eq_true (by omega : i < 8 * (n + 1))]
      · rw [decide_eq_false hi', decide_eq_false (by omega : ¬ i < 8 * (n + 1)), Bool.false_and, Bool.false_and]

/-- The bytes of a merge (R86). -/
theorem byteOf_mergeBytes {w : Nat} (old new : BitVec w) (mask : Nat) {k : Nat} (hk : k < w / 8) :
    byteOf (mergeBytes old new mask).toNat k = if mask.testBit k = true then byteOf new.toNat k else byteOf old.toNat k := by
  have hbit : ∀ j, j < 8 → (mergeBytes old new mask).toNat.testBit (8 * k + j)
      = if mask.testBit k = true then new.toNat.testBit (8 * k + j) else old.toNat.testBit (8 * k + j) := by
    intro j hj
    have hw : 8 * k + j < w := by omega
    have hm : 8 * k + j < 8 * (w / 8) := by omega
    simp only [mergeBytes, BitVec.testBit_toNat, BitVec.getLsbD_or, BitVec.getLsbD_and, BitVec.getLsbD_not,
      BitVec.getLsbD_ofNat, testBit_byteMask, hw, hm, show (8 * k + j) / 8 = k by omega, decide_true, Bool.true_and]
    cases mask.testBit k <;> simp
  split
  · exact byteOf_eq_of_testBit fun j hj => by rw [hbit j hj, if_pos ‹_›]
  · exact byteOf_eq_of_testBit fun j hj => by rw [hbit j hj, if_neg ‹_›]

/-! ## Byte memory -/

section Memory
variable {m m' : Memory} {a n : Nat}

/-- A byte read where a number has been written. -/
theorem Memory.read_writeNat_inside (h : Memory.wf m = true) (v : Nat) {i : Nat} (hi : i < n) :
    (Memory.read (Memory.writeNat m a n v) (a + i)).toNat = byteOf v i := by
  induction n generalizing m a v i with
  | zero => exact absurd hi (Nat.not_lt_zero i)
  | succ n ih =>
    show (Memory.read (Memory.writeNat (Memory.write m a (BitVec.ofNat 8 v)) (a + 1) n (v / 256)) (a + i)).toNat = _
    cases i with
    | zero =>
      rw [Memory.read_writeNat_outside _ _ _ _ _ (by omega), Nat.add_zero, Memory.read_write_same _ _ _ h]
      simp [byteOf]
    | succ i =>
      rw [show a + (i + 1) = a + 1 + i by omega, ih (Memory.wf_write _ _ _ h) _ (by omega), byteOf, byteOf,
        Nat.div_div_eq_div_mul, Nat.pow_succ']

/-- A number is read from its bytes alone. -/
theorem Memory.readNat_congr (h : ∀ b, a ≤ b → b < a + n → Memory.read m' b = Memory.read m b) :
    Memory.readNat m' a n = Memory.readNat m a n := by
  induction n generalizing a with
  | zero => rfl
  | succ n ih =>
    rw [Memory.readNat, Memory.readNat, h a (by omega) (by omega), ih fun b h1 h2 => h b (by omega) (by omega)]

theorem Memory.readNat_lt (m : Memory) (a n : Nat) : Memory.readNat m a n < 256 ^ n := by
  induction n generalizing a with
  | zero => exact Nat.one_pos
  | succ n ih =>
    have hbyte := (Memory.read m a).isLt
    have hrest := ih (a + 1)
    rw [Memory.readNat, Nat.pow_succ]
    omega

end Memory

end Sys2Proof.Machine
end

section
/-! SUPPORT. Stores to `.priv` and the trail (R46, R242): what stands in the `.priv` bytes of a thread after the words of
a store have been trailed and its bytes written. -/

namespace Sys2Proof.Machine

/-! ## The words of a store -/

/-- The bytes of the word that a trail entry of a kind keeps (Table 12-3). -/
def trailedBytes (kind : Nat) : Nat := if kind = 0 then 4 else 8

@[simp] theorem trailedBytes_zero : trailedBytes 0 = 4 := rfl

@[simp] theorem trailedBytes_one : trailedBytes 1 = 8 := rfl

/-- The trail entry of a word: its value, its kind and its address (Table 12-3). -/
def trailEntry (m : Memory) (w : Nat × Nat) : Nat :=
  Memory.readNat m w.2 (trailedBytes w.1) * 2 ^ 64 + w.1 * 2 ^ 62 + w.2 % 2 ^ 18

theorem ruleTrail_eq (a n : Nat) : ruleTrail a n = (trailWords a n).map fun w => (w.1, w.2, trailedBytes w.1) := by
  unfold ruleTrail trailWords
  split
  · rfl
  · split <;> rfl

@[simp] theorem ruleTrail_length (a n : Nat) : (ruleTrail a n).length = (trailWords a n).length := by
  simp [ruleTrail_eq]

/-- An aligned access lies in one block of 16 bytes. -/
theorem Width.inBlock (w : Width) {a : Nat} (h : a % w.bytes = 0) : a / 16 * 16 ≤ a ∧ a + w.bytes ≤ a / 16 * 16 + 16 := by
  cases w <;> simp only [Width.bytes] at h ⊢ <;> omega

/-- The words that a store trails lie in its block, and are of kind 0 or 1. -/
theorem trailWords_inBlock (w : Width) {a : Nat} (h : a % w.bytes = 0) {x : Nat × Nat} (hx : x ∈ trailWords a w.bytes) :
    x.1 ≤ 1 ∧ a / 16 * 16 ≤ x.2 ∧ x.2 + trailedBytes x.1 ≤ a / 16 * 16 + 16 := by
  cases w with
  | w8 | w16 | w32 =>
    obtain rfl : x = (0, a / 4 * 4) := List.mem_singleton.1 hx
    simp only [trailedBytes_zero]; omega
  | w64 =>
    obtain rfl : x = (1, a) := List.mem_singleton.1 hx
    simp only [trailedBytes_one, Width.bytes] at h ⊢; omega
  | w128 =>
    have hx' : x = (1, a) ∨ x = (1, a + 8) := by simpa [trailWords, Width.bytes] using hx
    rcases hx' with rfl | rfl <;> simp only [trailedBytes_one, Width.bytes] at h ⊢ <;> omega

theorem trailEntry_lt (m : Memory) {w : Nat × Nat} (h : w.1 ≤ 1) : trailEntry m w < 256 ^ 16 := by
  have hold : Memory.readNat m w.2 (trailedBytes w.1) < 2 ^ 64 := by
    refine Nat.lt_of_lt_of_le (Memory.readNat_lt m w.2 _) ?_
    unfold trailedBytes
    split <;> decide
  have hloc : w.2 % 2 ^ 18 < 2 ^ 18 := Nat.mod_lt _ (by decide)
  unfold trailEntry
  omega

/-- The entry of a word is the same in memories that agree on the word. -/
theorem trailEntry_congr {m m' : Memory} {w : Nat × Nat}
    (h : ∀ b, w.2 ≤ b → b < w.2 + trailedBytes w.1 → Memory.read m' b = Memory.read m b) :
    trailEntry m' w = trailEntry m w := by
  rw [trailEntry, trailEntry, Memory.readNat_congr h]

/-! ## Trailing -/

/-- A word of `.priv` memory trailed (R242). -/
def Thread.trailWord (th : Thread) (w : Nat × Nat) : Thread :=
  th.trail w.1 w.2 (Memory.readNat th.priv w.2 (trailedBytes w.1))

section Trail
variable {th a : Thread} {w : Nat × Nat} {ws : List (Nat × Nat)} {addr n v : Nat}

theorem Thread.trailWord_priv (th : Thread) (w : Nat × Nat) :
    (th.trailWord w).priv = Memory.writeNat th.priv th.trp 16 (trailEntry th.priv w) := by
  simp only [Thread.trailWord, Thread.trail, Thread.setTrp, Thread.privWrite, trailEntry]

/-- The choice registers with another TRP. -/
def Choice.withTrp (c : Choice) (n : Nat) : Choice := { c with trp := BitVec.ofNat 32 n }

@[simp] theorem Choice.withTrp_withTrp (c : Choice) (m n : Nat) : (c.withTrp m).withTrp n = c.withTrp n := rfl

@[simp] theorem Choice.withTrp_self (c : Choice) : c.withTrp c.trp.toNat = c := by simp [Choice.withTrp]

/-- Thread `b` is thread `a` but for its `.priv` bytes and the choice registers. -/
def SameButPriv (a b : Thread) : Prop :=
  b = { a with priv := b.priv, privPoison := b.privPoison, choice := b.choice }

theorem SameButPriv.trans {b c : Thread} (h : SameButPriv a b) (k : SameButPriv b c) : SameButPriv a c := by
  unfold SameButPriv at h k ⊢
  rw [k, h]

theorem Thread.privWrite_same (th : Thread) (a n v : Nat) : SameButPriv th (th.privWrite a n v) := rfl

theorem Thread.setTrp_same (th : Thread) (n : Nat) : SameButPriv th (th.setTrp n) := rfl

theorem Thread.trail_same (th : Thread) (kind loc old : Nat) : SameButPriv th (th.trail kind loc old) :=
  (th.privWrite_same _ _ _).trans (Thread.setTrp_same _ _)

/-- Thread `a` is thread `th` after it has trailed the words `ws`. -/
structure Trailed (th : Thread) (ws : List (Nat × Nat)) (a : Thread) : Prop where
  same    : SameButPriv th a
  wf      : Memory.wf a.priv = true
  choice  : a.choice = th.choice.withTrp (th.trp + 16 * ws.length)
  others  : ∀ c, c < th.trp ∨ th.trp + 16 * ws.length ≤ c → Memory.read a.priv c = Memory.read th.priv c
  entries : (∀ x ∈ ws, x.1 ≤ 1 ∧ (x.2 + trailedBytes x.1 ≤ th.trp ∨ th.trp + 16 * ws.length ≤ x.2)) →
    ∀ j x, ws[j]? = some x → Memory.readNat a.priv (th.trp + 16 * j) 16 = trailEntry th.priv x

theorem Trailed.nil (hwf : Memory.wf th.priv = true) : Trailed th [] th :=
  ⟨rfl, hwf, th.choice.withTrp_self.symm, fun _ _ => rfl, fun _ j x hx => by simp at hx⟩

/-- One word is trailed. -/
theorem Thread.trailed_word (hwf : Memory.wf th.priv = true) : Trailed th [w] (th.trailWord w) where
  same := th.trail_same _ _ _
  wf := th.trail_wf _ _ _ hwf
  choice := rfl
  others c hc := by
    rw [Thread.trailWord_priv]
    exact Memory.read_writeNat_outside _ _ 16 _ _ hc
  entries hws j x hx := by
    obtain ⟨rfl, rfl⟩ : j = 0 ∧ w = x := by simpa [List.getElem?_singleton] using hx
    have hkind : w.1 ≤ 1 := (hws w (List.mem_singleton_self w)).1
    rw [Nat.mul_zero, Nat.add_zero, Thread.trailWord_priv, Memory.readNat_writeNat _ _ _ _ hwf,
      Nat.mod_eq_of_lt (trailEntry_lt _ hkind)]

theorem Trailed.trp (h : Trailed th ws a) (hfit : th.trp + 16 * ws.length < 2 ^ 32) :
    a.trp = th.trp + 16 * ws.length := by
  rw [Thread.trp, h.choice]
  exact (BitVec.toNat_ofNat _ 32).trans (Nat.mod_eq_of_lt hfit)

/-- A first word trailed, and the others after it. -/
theorem Trailed.cons {u : Thread} (hfit : th.trp + 16 < 2 ^ 32) (hu : Trailed th [w] u) (h : Trailed u ws a) :
    Trailed th (w :: ws) a := by
  have htrp : u.trp = th.trp + 16 := hu.trp hfit
  obtain ⟨hsame, -, huchoice, huothers, huentries⟩ := hu
  obtain ⟨hsame', hwf, hchoice, hothers, hentries⟩ := h
  simp only [htrp] at hchoice hothers hentries
  refine ⟨hsame.trans hsame', hwf, ?_, fun c hc => ?_, fun hws j x hx => ?_⟩
  · rw [hchoice, huchoice, Choice.withTrp_withTrp, List.length_cons, Nat.mul_add, Nat.add_assoc, Nat.add_comm 16]
  · rw [List.length_cons] at hc
    rw [hothers c (by omega), huothers c (by simp; omega)]
  · obtain ⟨hw, hrest⟩ := List.forall_mem_cons.1 hws
    rw [List.length_cons] at hw hrest
    cases j with
    | zero =>
      obtain rfl : w = x := by simpa using hx
      rw [← huentries (fun y hy => ?_) 0 w rfl]
      · exact Memory.readNat_congr fun b _ hb => hothers b (by omega)
      · obtain rfl := List.mem_singleton.1 hy
        simp; omega
    | succ j =>
      have hx' : ws[j]? = some x := by simpa using hx
      have hapart := (hrest x (List.mem_of_getElem? hx')).2
      rw [show th.trp + 16 * (j + 1) = th.trp + 16 + 16 * j by omega,
        hentries (fun y hy => ⟨(hrest y hy).1, by have := (hrest y hy).2; omega⟩) j x hx']
      exact trailEntry_congr fun b _ _ => huothers b (by simp; omega)

theorem Thread.trailed (hwf : Memory.wf th.priv = true) (hfit : th.trp + 16 * ws.length < 2 ^ 32) :
    Trailed th ws (ws.foldl Thread.trailWord th) := by
  induction ws generalizing th with
  | nil => exact Trailed.nil hwf
  | cons w ws ih =>
    rw [List.length_cons] at hfit
    have hu := th.trailed_word (w := w) hwf
    rw [List.foldl_cons]
    generalize th.trailWord w = u at hu ⊢
    have htrp : u.trp = th.trp + 16 := hu.trp (by simp; omega)
    exact hu.cons (by omega) (ih hu.wf (by omega))

/-! ## The store -/

/-- The `.priv` bytes `m` under choice registers `c` become those of `b` by a store of the low `n` bytes of `v` at `addr`
that has trailed the words `ws` (R46, R242). -/
structure PrivStored (m : Memory) (c : Choice) (ws : List (Nat × Nat)) (addr n v : Nat) (b : Thread) : Prop where
  bytes   : ∀ i, i < n → (Memory.read b.priv (addr + i)).toNat = byteOf v i
  others  : ∀ x, x < addr ∨ addr + n ≤ x → x < c.trp.toNat ∨ c.trp.toNat + 16 * ws.length ≤ x →
    Memory.read b.priv x = Memory.read m x
  choice  : b.choice = c.withTrp (c.trp.toNat + 16 * ws.length)
  entries : addr / 16 * 16 + 16 ≤ c.trp.toNat ∨ c.trp.toNat + 16 * ws.length ≤ addr / 16 * 16 →
    ∀ j x, ws[j]? = some x → Memory.readNat b.priv (c.trp.toNat + 16 * j) 16 = trailEntry m x

/-- The bytes of a store written once its words have been trailed. -/
theorem Trailed.privWrite {w : Width} (h : Trailed th ws a) (hal : addr % w.bytes = 0)
    (hws : ∀ x ∈ ws, x ∈ trailWords addr w.bytes) (v : Nat) :
    PrivStored th.priv th.choice ws addr w.bytes v (a.privWrite addr w.bytes v) where
  bytes i hi := Memory.read_writeNat_inside h.wf v hi
  others x hx hx' := (a.privWrite_other _ _ _ _ hx).trans (h.others x hx')
  choice := h.choice
  entries hapart j x hx := by
    obtain ⟨hlo, hhi⟩ := Width.inBlock w hal
    have hj : j < ws.length := (List.getElem?_eq_some_iff.1 hx).1
    change addr / 16 * 16 + 16 ≤ th.trp ∨ th.trp + 16 * ws.length ≤ addr / 16 * 16 at hapart
    change Memory.readNat (a.privWrite addr w.bytes v).priv (th.trp + 16 * j) 16 = _
    refine (Memory.readNat_congr fun b hb hb' => a.privWrite_other _ _ _ _ (by omega)).trans
      (h.entries (fun y hy => ?_) j x hx)
    obtain ⟨hkind, hlow, hhigh⟩ := trailWords_inBlock w hal (hws y hy)
    exact ⟨hkind, by omega⟩

/-- The words that a thread's store to `.priv` trails: none without a choice point (R242). -/
def Thread.trailsOf (th : Thread) (addr n : Nat) : List (Nat × Nat) := if th.cpd = 0 then [] else trailWords addr n

theorem Thread.privStore_some
    (h : th.cpd = 0 ∨ th.trp + 16 * (trailWords addr n).length + 32 * th.cpd ≤ th.trl) (v : Nat) :
    th.privStore addr n v = some (((th.trailsOf addr n).foldl Thread.trailWord th).privWrite addr n v) := by
  by_cases hc : th.cpd = 0
  · rw [Thread.privStore, if_pos hc, Thread.trailsOf, if_pos hc, List.foldl_nil]
  · rw [Thread.privStore, if_neg hc, Thread.trailsOf, if_neg hc]
    exact if_pos (decide_eq_true (h.resolve_left hc))

theorem Thread.privStore_none (hc : th.cpd ≠ 0)
    (h : th.trl < th.trp + 16 * (trailWords addr n).length + 32 * th.cpd) (v : Nat) : th.privStore addr n v = none := by
  have hfull : ¬ th.trailFits (trailWords addr n).length = true := by simpa [Thread.trailFits] using h
  rw [Thread.privStore, if_neg hc]
  exact if_neg hfull

/-- A store to `.priv` with room for its trail. -/
theorem Thread.privStore_spec {w : Width} (hwf : Memory.wf th.priv = true) (hal : addr % w.bytes = 0)
    (h : th.cpd = 0 ∨ th.trp + 16 * (trailWords addr w.bytes).length + 32 * th.cpd ≤ th.trl) (v : Nat) :
    ∃ b, th.privStore addr w.bytes v = some b ∧ SameButPriv th b ∧
      PrivStored th.priv th.choice (th.trailsOf addr w.bytes) addr w.bytes v b := by
  have hfit : th.trp + 16 * (th.trailsOf addr w.bytes).length < 2 ^ 32 := by
    have htrl : th.trl < 2 ^ 32 := th.choice.trl.isLt
    have htrp : th.trp < 2 ^ 32 := th.choice.trp.isLt
    unfold Thread.trailsOf
    split
    · simpa using htrp
    · omega
  have hwords : ∀ x ∈ th.trailsOf addr w.bytes, x ∈ trailWords addr w.bytes := by
    intro x hx
    unfold Thread.trailsOf at hx
    split at hx
    · cases hx
    · exact hx
  have ht := Thread.trailed hwf hfit
  exact ⟨_, Thread.privStore_some h v, ht.same.trans (Thread.privWrite_same _ _ _ _), ht.privWrite hal hwords v⟩

end Trail

end Sys2Proof.Machine
end

section
/-! SUPPORT. The address checks of an access (R184, R209), and the entry of a store into the pending store queue (R86,
R87, R242). -/

namespace Sys2Proof.Machine

/-! ## Address checks -/

theorem ReadsData.base (sp : Space) (a : SrcA) : ReadsData fun th => th.base sp a := fun th b h => by
  simp only [Thread.base, ReadsData.a64 a th b h, ReadsData.a32 a th b h]

theorem ReadsData.data (w : Width) (r : Reg) : ReadsData fun th => th.data w r := fun th b h => by
  simp only [Thread.data, Thread.pair, Thread.reg_congr h.regs]

/-- The effective address is the one that the rules give (R42, R184). -/
theorem effAddr_base (th : Thread) (sp : Space) (a : SrcA) (off : Word) :
    effAddr sp (th.base sp a) off = ruleEa th sp a off := by
  unfold effAddr ruleEa
  split
  · next h => subst h; cases a <;> rfl
  · next h => cases a <;> simp [Thread.base, ruleBase, Thread.a32, lo32, h]

theorem ReadsData.ruleEa (sp : Space) (a : SrcA) (off : Word) : ReadsData fun th => ruleEa th sp a off := fun th b h => by
  simp only [← effAddr_base, ReadsData.base sp a th b h]

section Access
variable {s s' : State} {t n : Nat} {sp : Space} {ea : DWord} {acc : Access}

/-- An access that has been resolved is in its space, of its size. -/
theorem State.resolve_some (h : s.resolve t sp ea n = some acc) : acc.space = sp ∧ acc.size = n := by
  cases sp <;> simp only [State.resolve] at h
  all_goals
    repeat' split at h
    all_goals cases h
    all_goals exact ⟨rfl, rfl⟩

theorem State.checkAddr_ok (h : s.checkAddr t sp ea n = .ok acc) : acc.space = sp ∧ acc.size = n := by
  unfold State.checkAddr at h
  split at h
  · cases h
  · next a ha =>
    split at h
    · cases h
    · cases h; exact State.resolve_some ha

/-- A `.priv` address that passes its checks (R46, R184). -/
theorem State.checkAddr_priv (hin : ¬ Outside s t .priv ea.toNat) (hal : ea.toNat % n = 0) :
    s.checkAddr t .priv ea n = .ok { space := .priv, region := 0, addr := ea.toNat, size := n, issued := ea } := by
  simp [State.checkAddr, State.resolve, Nat.not_le.1 hin, hal]

/-- An access whose checks pass is made. -/
theorem withAccess_ok {k : AccessKind} {pc : Addr56} {f : Access → Option DWord → LaneRes} {r : LaneRes}
    (hacc : s.checkAddr t sp ea n = .ok acc) (hglb : sp = .glb → ∃ pte, s.checkGlb t k acc = .ok pte)
    (hf : ∀ p, f acc p = r) : withAccess s t pc k sp ea n f = r := by
  simp only [withAccess, hacc]
  split
  · next h =>
    obtain ⟨pte, hpte⟩ := hglb h
    rw [hpte]
    exact hf _
  · exact hf _

theorem Alike.eq_threads (h : Alike s s') : ∃ ts, s' = { s with threads := ts } :=
  ⟨s'.threads, by conv_rhs => rw [← h.rest]⟩

theorem Alike.asidOf (h : Alike s s') (t : Nat) : s'.asidOf t = s.asidOf t := by
  simp only [State.asidOf, h.jobOf t, State.part, h.parts]

theorem Alike.privBytes (h : Alike s s') (t : Nat) : s'.privBytes t = s.privBytes t := by
  simp only [State.privBytes, h.jobOf t]

theorem Alike.scrGang (h : Alike s s') (t ea : Nat) : s'.scrGang t ea = s.scrGang t ea := by
  have hg := h.gang t
  unfold State.scrGang State.gang
  rw [h.gangs]
  cases h1 : s.thread t <;> cases h2 : s'.thread t <;> simp_all

theorem Alike.scratchBytes (h : Alike s s') (t : Nat) : s'.scratchBytes t = s.scratchBytes t := by
  simp only [State.scratchBytes, h.jobOf t]

theorem Alike.checkAddr (h : Alike s s') : s'.checkAddr t sp ea n = s.checkAddr t sp ea n := by
  have hpriv := h.privBytes t
  have hscratch := h.scratchBytes t
  have hgang := h.scrGang t ea.toNat
  have hpart := h.partOf t
  obtain ⟨ts, rfl⟩ := h.eq_threads
  simp only [State.checkAddr, State.resolve, hpriv, hscratch, hgang, hpart]
  rfl

theorem Alike.checkGlb (h : Alike s s') (k : AccessKind) : s'.checkGlb t k acc = s.checkGlb t k acc := by
  have hpart := h.partOf t
  have hasid := h.asidOf t
  obtain ⟨ts, rfl⟩ := h.eq_threads
  simp only [State.checkGlb, hpart, hasid]
  rfl

end Access

/-! ## Entries that hold a store -/

section Entry
variable {o e : PsqEntry} {addr size : Nat} {v : BitVec 128} {byte : Nat → Nat}

theorem HoldsStore.of_new (hbyte : ∀ i, i < size → byteOf v.toNat i = byte i) (hdata : e.data = (blockData addr size v).1)
    (hmask : e.mask = (blockData addr size v).2) : HoldsStore none e addr size byte := by
  intro k hk
  rw [hmask, hdata, blockData_mask addr size v hk]
  split
  · next h => exact ⟨decide_eq_true h, (blockData_byte v hk h).trans (hbyte _ (by omega))⟩
  · next h => exact ⟨decide_eq_false h, fun o ho => by cases ho⟩

theorem HoldsStore.of_merge (hbyte : ∀ i, i < size → byteOf v.toNat i = byte i)
    (hdata : e.data = mergeBytes o.data (blockData addr size v).1 (blockData addr size v).2.toNat)
    (hmask : e.mask = o.mask ||| (blockData addr size v).2) : HoldsStore (some o) e addr size byte := by
  intro k hk
  have hin := blockData_mask addr size v hk
  rw [hmask, hdata, byteOf_mergeBytes _ _ _ (show k < 128 / 8 from hk), BitVec.testBit_toNat, BitVec.getLsbD_or, hin]
  split
  · next h =>
    rw [decide_eq_true h, Bool.or_true, if_pos rfl]
    exact ⟨rfl, (blockData_byte v hk h).trans (hbyte _ (by omega))⟩
  · next h =>
    rw [decide_eq_false h, Bool.or_false, if_neg Bool.false_ne_true]
    exact ⟨rfl, fun p hp => by rw [Option.some.inj hp]⟩

end Entry

/-! ## The queue after a store -/

section Queue
variable {th a : Thread} {acc : Access} {may : Bool} {now : Nat} {v : BitVec 128} {byte : Nat → Nat}

/-- The serial that a tentative entry records is that of the newest frame (R242). -/
theorem Thread.newestSerial_eq (h : th.cpd ≠ 0) : th.newestSerial = (th.frame th.cpd).ser := by
  have hc : th.choice.cpd ≠ 0#32 := fun e => h (by rw [Thread.cpd, e]; rfl)
  rw [Thread.newestSerial, if_neg hc]
  rfl

/-- The store is placed in the newest entry, or in a new one, and the thread is otherwise as it was. -/
theorem Thread.enqueue_same (th : Thread) (now : Nat) (acc : Access) (v : BitVec 128) (may : Bool) :
    th.enqueue now acc v may = { th with
      psq := (th.enqueue now acc v may).psq, nextSeq := (th.enqueue now acc v may).nextSeq } := by
  unfold Thread.enqueue
  cases th.mergeInto acc may <;> rfl

/-- A store enters the queue as the rules say (R86, R242). -/
theorem Thread.queued_enqueue (hbyte : ∀ i, i < acc.size → byteOf v.toNat i = byte i) :
    Queued now th th.order acc may byte (th.enqueue now acc v may).psq := by
  unfold Queued Thread.enqueue
  cases th.mergeInto acc may with
  | some o => exact ⟨_, rfl, HoldsStore.of_merge hbyte rfl rfl, rfl⟩
  | none =>
    have htent : (th.choice.cpd != 0#32) = decide (th.cpd ≠ 0) := by
      rw [Bool.eq_iff_iff, bne_iff_ne, decide_eq_true_iff, Thread.cpd, ← BitVec.toNat_ne_iff_ne, BitVec.toNat_ofNat]
    exact ⟨_, rfl, HoldsStore.of_new hbyte rfl rfl, rfl, rfl, rfl, rfl, rfl, htent,
      fun h => Thread.newestSerial_eq (by simpa [htent] using h), rfl, rfl⟩

theorem SameRest.mergeInto (h : SameRest th a) : a.mergeInto acc may = th.mergeInto acc may := by
  simp only [Thread.mergeInto, Thread.newestSerial, h.psq, h.choice, h.priv]

theorem SameRest.queued (h : SameRest th a) {order : Nat} {psq : List PsqEntry}
    (hq : Queued now a order acc may byte psq) : Queued now th order acc may byte psq := by
  have hcpd : a.cpd = th.cpd := by rw [Thread.cpd, Thread.cpd, h.choice]
  have hframe : a.frame th.cpd = th.frame th.cpd := by
    simp only [Thread.frame, Thread.frameAt, Thread.trl, h.choice, h.priv]
  unfold Queued at hq ⊢
  rwa [h.mergeInto, h.psq, hcpd, hframe] at hq

theorem State.psqRoom_congr (h : a.psq = th.psq) (s : State) (t : Nat) : s.psqRoom t a = s.psqRoom t th := by
  simp only [State.psqRoom, h]

/-- An atomic that has not been performed and reaches the block of an entry (R104). -/
def LongKind.reaches (e : PsqEntry) : LongKind → Bool
  | .atomic acc _ _ _ _ => acc.space == e.space && acc.region == e.region && acc.addr / 16 == e.block
  | _ => false

theorem State.awaited_eq (s : State) (t : Nat) (th : Thread) (e : PsqEntry) :
    s.awaited t th e = ((s.insps.any fun q => q.2.observer == t && q.2.entries.contains (t, e.seq)) ||
      (th.longs.map (·.kind)).any (LongKind.reaches e)) := by
  rw [List.any_map]
  rfl

/-- Whether a store may merge into the newest entry does not change as its instruction issues. -/
theorem Issued.mayMerge {iss : Issue} (h : Issued iss th a) (s : State) (t : Nat) :
    (s.setThread t a).mayMerge t a = s.mayMerge t th := by
  simp only [State.mayMerge, State.awaited_eq, h.data.rest.psq, h.longs, State.setThread_insps]

end Queue

end Sys2Proof.Machine
end

section
/-! SUPPORT and CLAIM. ST (R46, R86, R87, R186, R242): a store to `.priv` writes its bytes at once, and a store to a shared
space enters the pending store queue, at issue or as STORE_CHECK_PASS comes. -/

namespace Sys2Proof.Machine

theorem exec_st (h : Hdr) (x : MemArgs) (s : State) :
    exec (.st h x) s = perThread (.st h x) (fun pc s t => s.st t pc x) s := rfl

theorem exec_storeCheckPass (t : Nat) (s : State) : exec (.storeCheckPass t) s = .next (s.storeChecked t) := rfl

/-! ## The effect of ST on its lane -/

section Lane
variable {s : State} {t : Nat} {a b : Thread} {x : MemArgs} {acc : Access} {pc : Addr56} {v : BitVec 128}

/-- ST to `.priv` whose address passes its checks. -/
theorem State.st_priv (ha : s.thread t = some a) (hsp : x.space = .priv)
    (hin : ¬ Outside s t .priv (ruleEa a .priv x.a x.off).toNat)
    (hal : (ruleEa a .priv x.a x.off).toNat % x.width.bytes = 0) :
    s.st t pc x = s.storePriv t (ruleEa a .priv x.a x.off).toNat x.width.bytes (a.data x.width x.d).toNat := by
  simp only [State.st, ha, effAddr_base, hsp, if_true]
  exact withAccess_ok (State.checkAddr_priv hin hal) (fun h => by cases h) fun _ => rfl

/-- ST to a shared space whose address passes its checks. -/
theorem State.st_shared (ha : s.thread t = some a) (hsp : x.space ≠ .priv)
    (hacc : s.checkAddr t x.space (ruleEa a x.space x.a x.off) x.width.bytes = .ok acc)
    (hglb : x.space = .glb → ∃ pte, s.checkGlb t .store acc = .ok pte) :
    s.st t pc x = s.storeShared t acc (a.data x.width x.d) := by
  simp only [State.st, ha, effAddr_base]
  exact withAccess_ok hacc hglb fun _ => if_neg hsp

theorem State.storePriv_ok {addr n v : Nat} (ha : s.thread t = some a) (hb : a.privStore addr n v = some b) :
    s.storePriv t addr n v = .ok (s.setThread t b) := by
  simp [State.storePriv, ha, hb]

theorem State.storePriv_full {addr n v : Nat} (ha : s.thread t = some a) (hb : a.privStore addr n v = none) :
    s.storePriv t addr n v = .fault (plainFault Code.trailFull) := by
  simp [State.storePriv, ha, hb]

/-- A store that merges, or has room for its entry, is not held up (R87). -/
theorem Thread.not_stalled {may room : Bool} (h : a.mergeInto acc may = none → room = true) :
    ¬ (a.needsEntry acc may && !room) = true := by
  simp only [Thread.needsEntry, Bool.and_eq_true, Option.isNone_iff_eq_none, Bool.not_eq_true']
  rintro ⟨hnew, hno⟩
  exact Bool.false_ne_true (hno.symm.trans (h hnew))

/-- A store to a shared space with room for its entry enters the queue, or is held for the attributes of its page
(R86, R87, R186). -/
theorem State.storeShared_ok (ha : s.thread t = some a)
    (hroom : a.mergeInto acc (s.mayMerge t a) = none → s.psqRoom t a = true ∧ (a.cpd = 0 ∨ a.tentative.length < 32)) :
    s.storeShared t acc v = .ok (s.setThread t
      (if acc.space = .glb ∧ s.l1Hit (coreOf t) (s.asidOf t) acc.addr = false then
        { a with hold := .storeCheck { acc := acc, data := v } }
      else a.enqueue (s.clock t) acc v (s.mayMerge t a))) := by
  have hcpd : a.choice.cpd ≠ 0#32 → a.cpd ≠ 0 := BitVec.toNat_ne_iff_ne.2
  have hfull : ¬ (a.needsEntry acc (s.mayMerge t a) && a.choice.cpd != 0#32
      && decide (32 ≤ a.tentative.length)) = true := by
    simp only [Thread.needsEntry, Bool.and_eq_true, Option.isNone_iff_eq_none, bne_iff_ne, decide_eq_true_eq]
    rintro ⟨⟨hnew, hc⟩, hlen⟩
    rcases (hroom hnew).2 with h0 | hlt
    · exact hcpd hc h0
    · omega
  simp only [State.storeShared, ha]
  rw [if_neg hfull, if_neg (Thread.not_stalled fun hnew => (hroom hnew).1)]
  by_cases hmiss : acc.space = .glb ∧ s.l1Hit (coreOf t) (s.asidOf t) acc.addr = false
  · rw [if_pos hmiss, if_pos ⟨hmiss.1, by rw [hmiss.2]; rfl⟩]
  · rw [if_neg hmiss, if_neg (by simpa using hmiss)]

/-- A 33rd tentative entry outside a section (R242). -/
theorem State.storeShared_full (ha : s.thread t = some a) (hsect : a.inSection = false) (hc : a.cpd ≠ 0)
    (hnew : a.mergeInto acc (s.mayMerge t a) = none) (hlen : 32 ≤ a.tentative.length) :
    s.storeShared t acc v = .fault (plainFault Code.tentativeFull) := by
  have hcpd : a.choice.cpd ≠ 0#32 := BitVec.toNat_ne_iff_ne.1 hc
  simp [State.storeShared, ha, Thread.needsEntry, hnew, hcpd, hlen, hsect]

/-- A store that has waited for its page's attributes enters the queue (R186). -/
theorem State.storeChecked_ok {st : HeldStore} {pte : DWord} (ha : s.thread t = some a) (hst : a.hold = .storeCheck st)
    (hattrs : s.drainAttrs (coreOf t) (s.part (s.partOf t)) (s.asidOf t) st.acc.addr = some pte)
    (hpermit : s.permit (s.partOf t) (coreOf t) .store (s.asidOf t) st.acc.addr pte = none)
    (hroom : a.mergeInto st.acc (s.mayMerge t a) = none → s.psqRoom t a = true) :
    s.storeChecked t
      = s.setThread t { a.enqueue (s.clock t) st.acc st.data (s.mayMerge t a) with hold := .none } := by
  simp only [State.storeChecked, ha, hst, hattrs, hpermit]
  exact if_neg (Thread.not_stalled hroom)

end Lane

/-! ## What is left of the thread -/

section Frame
variable {iss : Issue} {th a b : Thread}

/-- An instruction that changes `.priv` bytes and choice registers alone. -/
theorem Issued.computed_priv (h : Issued iss th a) (hb : SameButPriv a b) :
    Computed iss.pc noReg 0 noPred [] { th with priv := b.priv, privPoison := b.privPoison, choice := b.choice } b := by
  unfold SameButPriv at hb
  generalize b.priv = p, b.privPoison = q, b.choice = c at hb
  subst hb
  exact Issued.computed ⟨⟨h.data.regs, h.data.preds, h.data.flg,
    { h.data.rest with priv := rfl, pbad := rfl, choice := rfl }⟩, h.pc, h.longs, h.order⟩

/-- An instruction that changes the pending stores and the hold alone. -/
theorem Issued.computed_queue (h : Issued iss th a) (p : List PsqEntry) (n : Nat) (x : Hold) :
    Computed iss.pc noReg 0 noPred [] { th with psq := p } { a with psq := p, nextSeq := n, hold := x } :=
  Issued.computed ⟨⟨h.data.regs, h.data.preds, h.data.flg, { h.data.rest with psq := rfl }⟩, h.pc, h.longs, h.order⟩

theorem Issued.computed_enqueue (h : Issued iss th a) (now : Nat) (acc : Access) (v : BitVec 128) (may : Bool) :
    Computed iss.pc noReg 0 noPred [] { th with psq := (a.enqueue now acc v may).psq } (a.enqueue now acc v may) := by
  have hc := h.computed_queue (a.enqueue now acc v may).psq (a.enqueue now acc v may).nextSeq a.hold
  change Computed _ _ _ _ _ _ { a with
    psq := (a.enqueue now acc v may).psq, nextSeq := (a.enqueue now acc v may).nextSeq } at hc
  rwa [← a.enqueue_same] at hc

end Frame

/-- An instruction reads the address and the data of its store as it issues. -/
theorem Issued.ruleEa_eq (h : Issued iss th a) (sp : Space) (y : SrcA) (off : Word) :
    ruleEa a sp y off = ruleEa th sp y off := ReadsData.ruleEa sp y off th a h.data

theorem Issued.data_eq (h : Issued iss th a) (w : Width) (r : Reg) : a.data w r = th.data w r :=
  ReadsData.data w r th a h.data

/-! ## The clauses -/

section Claim
variable {h : Hdr} {x : MemArgs} {s : State} {iss : Issue} {t : Nat} {th a : Thread}

/-- The checks of a `.priv` access do not change as its instruction issues. -/
theorem Alike.outside_priv {s' : State} (h : Alike s s') (t ea : Nat) : Outside s' t .priv ea ↔ Outside s t .priv ea := by
  simp only [Outside, h.privBytes t]

/-- A store to `.priv` that has issued is made, or refused, as its thread's `.priv` bytes and choice registers say. -/
theorem Single.st_priv (hs : Single (.st h x) s iss t th) (hx : x.space = .priv)
    (hin : ¬ Outside s t .priv (ruleEa th .priv x.a x.off).toNat)
    (hal : (ruleEa th .priv x.a x.off).toNat % x.width.bytes = 0) :
    ∃ a, s.entered (.st h x) t th iss = s.setThread t a ∧ Issued iss th a ∧
      (s.setThread t a).st t iss.pc x = (s.setThread t a).storePriv t (ruleEa th .priv x.a x.off).toNat x.width.bytes
        (th.data x.width x.d).toNat := by
  obtain ⟨a, hent, ha⟩ := State.entered_eq (.st h x) s t th iss
  have halike : Alike s (s.setThread t a) := hent ▸ State.entered_alike iss hs.thread
  refine ⟨a, hent, ha, ?_⟩
  rw [← ha.ruleEa_eq] at hin hal ⊢
  rw [← ha.data_eq]
  exact State.st_priv (State.thread_setThread_same s t a) hx (mt (halike.outside_priv t _).1 hin) hal

/-- A store to `.priv` with room for its trail. -/
theorem Single.st_priv_writes (hs : Single (.st h x) s iss t th) (hx : x.space = .priv)
    (hwf : Memory.wf th.priv = true) (hin : ¬ Outside s t .priv (ruleEa th .priv x.a x.off).toNat)
    (hal : (ruleEa th .priv x.a x.off).toNat % x.width.bytes = 0)
    (hroom : th.cpd = 0 ∨
      th.trp + 16 * (trailWords (ruleEa th .priv x.a x.off).toNat x.width.bytes).length + 32 * th.cpd ≤ th.trl) :
    ∃ b, exec (.st h x) s = .next (s.setThread t b) ∧
      Computed iss.pc noReg 0 noPred [] { th with priv := b.priv, privPoison := b.privPoison, choice := b.choice } b ∧
      PrivStored th.priv th.choice (th.trailsOf (ruleEa th .priv x.a x.off).toNat x.width.bytes)
        (ruleEa th .priv x.a x.off).toNat x.width.bytes (th.data x.width x.d).toNat b := by
  obtain ⟨a, hent, ha, hst⟩ := hs.st_priv hx hin hal
  have hpriv := ha.data.rest.priv
  have hchoice := ha.data.rest.choice
  obtain ⟨b, hb, hsame, hstored⟩ := Thread.privStore_spec (th := a) (hpriv ▸ hwf) hal
    (by simpa only [Thread.cpd, Thread.trp, Thread.trl, hchoice] using hroom) (th.data x.width x.d).toNat
  rw [Thread.trailsOf, Thread.cpd, hpriv, hchoice] at hstored
  refine ⟨b, (exec_st h x s).trans (hs.next_of_ok ?_), ha.computed_priv hsame, hstored⟩
  rw [hent, hst, State.storePriv_ok (State.thread_setThread_same s t a) hb, State.setThread_setThread]

theorem storesToPrivWriteAtOnce : PrivateStoresWriteAtOnceClause := by
  intro h x hx
  refine ⟨?_, raises_of_fault (exec_st h x) (by decide) (by decide) ?_⟩
  · intro s iss t th hs hwf ea n k hin hal hroom
    have hk : k = (trailWords ea n).length := ruleTrail_length ea n
    obtain ⟨b, hexec, hcomp, hbytes, hothers, hchoice, hentries⟩ := hs.st_priv_writes hx hwf hin hal (hk ▸ hroom)
    refine ⟨b, hexec, hcomp, fun i hi => (hbytes i hi).trans (byteOf_data th x.d x.width hi), ?_, ?_, ?_⟩
    · intro c hc hout
      refine hothers c hc ?_
      by_cases h0 : th.cpd = 0
      · rw [Thread.trailsOf, if_pos h0]
        exact (Nat.lt_or_ge c _).imp_right (by simp)
      · rw [Thread.trailsOf, if_neg h0, ← hk]
        exact hout.resolve_left h0
    · intro h0
      simpa [Thread.trailsOf, h0] using hchoice
    · intro h0
      rw [Thread.trailsOf, if_neg h0, ← hk] at hchoice hentries
      refine ⟨hchoice, fun hapart j _ w hw => ?_⟩
      rw [ruleTrail_eq, List.getElem?_map, Option.map_eq_some_iff] at hw
      obtain ⟨u, hu, rfl⟩ := hw
      exact hentries hapart j u hu
  · intro s iss t th hs hc
    obtain ⟨hin, hal, h0, hfull⟩ := hc
    obtain ⟨a, hent, ha, hst⟩ := hs.st_priv hx hin hal
    rw [ruleTrail_length] at hfull
    have hnone := Thread.privStore_none (th := a) (by simpa only [Thread.cpd, ha.data.rest.choice] using h0)
      (by simpa only [Thread.cpd, Thread.trp, Thread.trl, ha.data.rest.choice] using hfull) (th.data x.width x.d).toNat
    rw [hent, hst, State.storePriv_full (State.thread_setThread_same s t a) hnone]
    rfl

/-- A store to a shared space that has issued. -/
theorem Issued.st_shared (ha : Issued iss th a) {acc : Access} (hx : x.space ≠ .priv)
    (hacc : (s.setThread t a).checkAddr t x.space (ruleEa th x.space x.a x.off) x.width.bytes = .ok acc)
    (hglb : x.space = .glb → ∃ pte, (s.setThread t a).checkGlb t .store acc = .ok pte) :
    (s.setThread t a).st t iss.pc x = (s.setThread t a).storeShared t acc (th.data x.width x.d) := by
  rw [← ha.ruleEa_eq] at hacc
  rw [← ha.data_eq]
  exact State.st_shared (State.thread_setThread_same s t a) hx hacc hglb

/-- A store to a shared space with room for its entry: what it leaves of its thread. -/
theorem Single.st_shared_next (hs : Single (.st h x) s iss t th) {acc : Access} (hx : x.space ≠ .priv)
    (hent : s.entered (.st h x) t th iss = s.setThread t a) (ha : Issued iss th a)
    (hacc : (s.setThread t a).checkAddr t x.space (ruleEa th x.space x.a x.off) x.width.bytes = .ok acc)
    (hglb : x.space = .glb → ∃ pte, (s.setThread t a).checkGlb t .store acc = .ok pte)
    (hroom : th.mergeInto acc (s.mayMerge t th) = none →
      (s.setThread t a).psqRoom t th = true ∧ (th.cpd = 0 ∨ th.tentative.length < 32)) :
    exec (.st h x) s = .next (s.setThread t
      (if acc.space = .glb ∧ (s.setThread t a).l1Hit (coreOf t) ((s.setThread t a).asidOf t) acc.addr = false then
        { a with hold := .storeCheck { acc := acc, data := th.data x.width x.d } }
      else a.enqueue (s.clock t) acc (th.data x.width x.d) (s.mayMerge t th))) := by
  have hmay := ha.mayMerge s t
  have hroom' : a.mergeInto acc ((s.setThread t a).mayMerge t a) = none →
      (s.setThread t a).psqRoom t a = true ∧ (a.cpd = 0 ∨ a.tentative.length < 32) := by
    rwa [hmay, ha.data.rest.mergeInto, State.psqRoom_congr ha.data.rest.psq, Thread.cpd, Thread.tentative,
      ha.data.rest.choice, ha.data.rest.psq]
  have hok := State.storeShared_ok (v := th.data x.width x.d) (State.thread_setThread_same s t a) hroom'
  rw [hmay, State.setThread_setThread] at hok
  exact (exec_st h x s).trans (hs.next_of_ok (by rw [hent, ha.st_shared hx hacc hglb, hok]; rfl))

end Claim

theorem storesToSharedEnterTheQueue : SharedStoresEnterTheQueueClause := by
  refine ⟨?_, ?_, ?_⟩
  · intro h x s iss t th acc hs hx e hacc hglb hroom
    obtain ⟨a, hent, ha⟩ := State.entered_eq (.st h x) s t th iss
    have he : e = s.setThread t a := hent
    clear_value e
    subst he
    obtain ⟨hspace, hsize⟩ := State.checkAddr_ok hacc
    have hexec := hs.st_shared_next hx hent ha hacc hglb hroom
    rw [← hspace]
    by_cases hmiss : acc.space = .glb ∧
        (s.setThread t a).l1Hit (coreOf t) ((s.setThread t a).asidOf t) acc.addr = false
    · rw [if_pos hmiss] at hexec
      refine ⟨_, hexec, ha.computed_queue a.psq a.nextSeq _, ?_⟩
      rw [if_pos hmiss]
      exact ⟨ha.data.rest.psq, rfl⟩
    · rw [if_neg hmiss] at hexec
      refine ⟨_, hexec, ha.computed_enqueue _ _ _ _, ?_⟩
      rw [if_neg hmiss, ← ha.order]
      exact ha.data.rest.queued (Thread.queued_enqueue fun i hi => byteOf_data th x.d x.width (hsize ▸ hi))
  · intro s t th st pte hth hst _ hattrs hpermit hroom
    have hsame := th.enqueue_same (s.clock t) st.acc st.data (s.mayMerge t th)
    refine ⟨_, (exec_storeCheckPass t s).trans (congrArg _ (State.storeChecked_ok hth hst hattrs hpermit hroom)), ?_, rfl,
      Thread.queued_enqueue fun _ _ => rfl⟩
    rw [hsame]
  · intro h x hx
    refine raises_of_fault (exec_st h x) (by decide) (by decide) ?_
    intro s iss t th hs hc
    obtain ⟨acc, hacc, hglb, hsect, h0, hnew, hlen⟩ := hc
    obtain ⟨a, hent, ha⟩ := State.entered_eq (.st h x) s t th iss
    have halike : Alike s (s.setThread t a) := hent ▸ State.entered_alike iss hs.thread
    have hglb' : x.space = .glb → ∃ pte, (s.setThread t a).checkGlb t .store acc = .ok pte :=
      fun hg => (hglb hg).imp fun _ hp => (halike.checkGlb _).trans hp
    rw [hent, ha.st_shared hx (halike.checkAddr.trans hacc) hglb']
    refine State.storeShared_full (State.thread_setThread_same s t a) ?_ ?_ ?_ ?_
    · rwa [Thread.inSection, ha.data.rest.choice]
    · rwa [Thread.cpd, ha.data.rest.choice]
    · rwa [ha.mayMerge, ha.data.rest.mergeInto]
    · rwa [Thread.tentative, ha.data.rest.psq]

/-- Settles O23: ST is read lane by lane, its bytes from those of its operand, its trail word by word, and its entry from
the block in which its access stands. -/
theorem storesWriteOrEnterTheQueue : Obligations.StoresWriteOrEnterTheQueue :=
  ⟨storesToPrivWriteAtOnce, storesToSharedEnterTheQueue⟩

end Sys2Proof.Machine
end

section
/-! SUPPORT and CLAIM. ICMP (R154): a comparison that changes its thread alone. -/

namespace Sys2Proof.Machine

@[simp] theorem Thread.raise_zero (a : Thread) : a.raise 0 = a := by
  simp [Thread.raise]

theorem readTy_eq_ruleX (ty : IntTy) (v : Word) : readTy ty v = ruleX ty v := by
  cases ty <;> rfl

theorem ccHolds_eq_ruleCc (cc : Cc) (a b : Int) : ccHolds cc a b = ruleCc cc a b := by
  cases cc <;> rfl

theorem exec_icmp (h : Hdr) (x : IcmpArgs) (s : State) :
    exec (.icmp h x) s = perThread (.icmp h x) (threadOnly fun th =>
      th.setPred x.p (ccHolds x.cc (readTy x.ty (th.a32 x.a)) (readTy x.ty (th.b32 x.b)))) s := rfl

/-- Settles O3: ICMP changes its thread alone, by one predicate and no flag. -/
theorem compareWritesThePredicate : Obligations.CompareWritesThePredicate := by
  intro h x
  have hrule : ReadsData fun a => ruleCc x.cc (ruleX x.ty (a.a32 x.a)) (ruleX x.ty (a.b32 x.b)) :=
    ((ReadsData.a32 x.a).map (ruleX x.ty)).map₂ ((ReadsData.b32 x.b).map (ruleX x.ty)) (ruleCc x.cc)
  refine writesPred_of hrule (ReadsData.const 0) fun s => ?_
  simp only [exec_icmp, readTy_eq_ruleX, ccHolds_eq_ruleCc, Thread.raise_zero]

end Sys2Proof.Machine
end

section
/-! SUPPORT. The lanes of a crew: which threads stand there, which of them live, and who contributes (R29, R157). -/

namespace Sys2Proof.Machine

/-- A search for the one entry that satisfies a test finds it. -/
theorem find?_eq_some_of_unique {α : Type} {p : α → Bool} {x : α} {l : List α} (hx : x ∈ l) (hp : p x = true)
    (hu : ∀ y ∈ l, p y = true → y = x) : l.find? p = some x := by
  obtain ⟨y, hy⟩ := Option.isSome_iff_exists.1 (List.find?_isSome.2 ⟨x, hx, hp⟩)
  rw [hy, hu y (List.mem_of_find?_eq_some hy) (List.find?_some hy)]

theorem Tab.get?_of_mem {α : Type} {t : Tab α} {k : Nat} {v : α} (hwf : Tab.wf t = true) (h : (k, v) ∈ t) :
    Tab.get? t k = some v := by
  rw [Tab.wf_iff] at hwf
  induction t with
  | nil => simp at h
  | cons p rest ih =>
    obtain ⟨j, u⟩ := p
    obtain ⟨hhead, hrest⟩ := List.pairwise_cons.1 hwf
    rcases List.mem_cons.1 h with heq | hmem
    · obtain ⟨rfl, rfl⟩ := Prod.mk.inj heq
      simp [Tab.get?]
    · simp [Tab.get?, (hhead _ hmem).ne, ih hrest hmem]

theorem laneOf_lt (t : Nat) : laneOf t < 32 := Nat.mod_lt _ (by decide)

/-- A thread is the one at its lane of its crew. -/
theorem lane_crew {t k : Nat} (h : crewOf t = k) : 32 * k + laneOf t = t := h ▸ Nat.div_add_mod t 32

theorem crewOf_lane {k l : Nat} (h : l < 32) : crewOf (32 * k + l) = k := by
  simp only [crewOf]; omega

theorem laneOf_lane {k l : Nat} (h : l < 32) : laneOf (32 * k + l) = l := by
  simp only [laneOf]; omega

/-- The lanes of crew `k` in which the threads `ts` stand, in rising order. -/
def lanesOf (k : Nat) (ts : List Nat) : List Nat := (List.range 32).filter fun l => decide (32 * k + l ∈ ts)

section Lanes
variable {k : Nat} {ts : List Nat}

theorem mem_lanesOf {l : Nat} : l ∈ lanesOf k ts ↔ l < 32 ∧ 32 * k + l ∈ ts := by
  simp [lanesOf]

theorem nodup_lanesOf : (lanesOf k ts).Nodup := List.nodup_range.filter _

/-- The threads at the lanes of distinct threads of one crew are those threads. -/
theorem lanesOf_threads_perm (hd : ts.Nodup) (hk : ∀ t ∈ ts, crewOf t = k) :
    ((lanesOf k ts).map fun l => 32 * k + l).Perm ts := by
  refine (List.perm_ext_iff_of_nodup (nodup_lanesOf.map fun a b h => by simpa using h) hd).2 fun t => ?_
  simp only [List.mem_map, mem_lanesOf]
  constructor
  · rintro ⟨l, ⟨-, hl⟩, rfl⟩
    exact hl
  · intro ht
    have hlane := lane_crew (hk t ht)
    exact ⟨laneOf t, ⟨laneOf_lt t, hlane.symm ▸ ht⟩, hlane⟩

theorem length_lanesOf (hd : ts.Nodup) (hk : ∀ t ∈ ts, crewOf t = k) : (lanesOf k ts).length = ts.length := by
  simpa using (lanesOf_threads_perm hd hk).length_eq

end Lanes

/-- The live lanes of a crew, from the threads that live in it. -/
theorem State.liveLanes_eq {s : State} {k : Nat} {ts : List Nat} (hwf : Tab.wf s.threads = true)
    (hts : ∀ t, t ∈ ts ↔ crewOf t = k ∧ ∃ a, s.thread t = some a ∧ a.hold ≠ .exited) :
    s.liveLanes k = lanesOf k ts := by
  have hcrew : ∀ p ∈ s.threads.filter (fun p => crewOf p.1 == k && p.2.hold != .exited), crewOf p.1 = k := by
    intro p hp
    simp only [List.mem_filter, Bool.and_eq_true, beq_iff_eq] at hp
    exact hp.2.1
  have hrises : (s.liveLanes k).Pairwise (· < ·) := by
    refine List.pairwise_map.2 ((((Tab.wf_iff _).1 hwf).filter _).imp_of_mem fun {p q} hp hq hpq => ?_)
    have hp' := lane_crew (hcrew p hp)
    have hq' := lane_crew (hcrew q hq)
    omega
  refine hrises.eq_of_mem_iff (List.pairwise_lt_range.filter _) fun l => ?_
  rw [mem_lanesOf, hts]
  simp only [State.liveLanes, List.mem_map, List.mem_filter, Bool.and_eq_true, beq_iff_eq, bne_iff_ne]
  constructor
  · rintro ⟨⟨t, a⟩, ⟨hmem, hk, hlive⟩, rfl⟩
    dsimp only
    rw [lane_crew hk]
    exact ⟨laneOf_lt t, hk, a, Tab.get?_of_mem hwf hmem, hlive⟩
  · rintro ⟨hl, hk, a, ha, hlive⟩
    exact ⟨(32 * k + l, a), ⟨Tab.mem_of_get? ha, hk, hlive⟩, laneOf_lane hl⟩

/-- Of a group that stands in one crew, the contributor at a lane is the member there, where its guard holds. -/
theorem contrib_eq {s : State} {iss : Issue} {k l : Nat} (hk : ∀ t ∈ iss.members, crewOf t = k) (hl : l < 32) :
    contrib s iss l = if 32 * k + l ∈ iss.members then
      (s.thread (32 * k + l)).filter fun a => a.guard (headerOf iss.word) else none := by
  have hat : ∀ t ∈ iss.members, (laneOf t == l && (s.thread t).any fun a => a.guard (headerOf iss.word)) = true →
      t = 32 * k + l ∧ (s.thread (32 * k + l)).any (fun a => a.guard (headerOf iss.word)) = true := by
    intro t ht hp
    simp only [Bool.and_eq_true, beq_iff_eq] at hp
    obtain ⟨rfl, hguard⟩ := hp
    rw [lane_crew (hk t ht)]
    exact ⟨rfl, hguard⟩
  by_cases hc : 32 * k + l ∈ iss.members ∧ (s.thread (32 * k + l)).any (fun a => a.guard (headerOf iss.word)) = true
  · obtain ⟨hm, hguard⟩ := hc
    rw [contrib, find?_eq_some_of_unique hm (by simp [laneOf_lane hl, hguard]) fun t ht hp => (hat t ht hp).1, if_pos hm]
    cases ha : s.thread (32 * k + l) with
    | none => simp [ha]
    | some a => simpa [ha, Option.filter_some] using hguard
  · have hnone : (iss.members.find? fun t => laneOf t == l && (s.thread t).any fun a => a.guard (headerOf iss.word))
        = none := by
      refine List.find?_eq_none.2 fun t ht hp => hc ?_
      obtain ⟨rfl, hguard⟩ := hat t ht hp
      exact ⟨ht, hguard⟩
    rw [contrib, hnone]
    split
    · rename_i hm
      cases ha : s.thread (32 * k + l) with
      | none => rfl
      | some a => simpa [hm, ha, Option.filter_some] using hc
    · rfl

theorem contrib_eq_some {s : State} {iss : Issue} {k l : Nat} {a : Thread} (hk : ∀ t ∈ iss.members, crewOf t = k)
    (hl : l < 32) : contrib s iss l = some a ↔
      32 * k + l ∈ iss.members ∧ s.thread (32 * k + l) = some a ∧ a.guard (headerOf iss.word) = true := by
  rw [contrib_eq hk hl]
  split <;> simp [*, Option.filter_eq_some_iff]

end Sys2Proof.Machine
end

section
/-! SUPPORT. What a contributor brings to a collective, what it receives, and what the collective leaves of the machine
(R29, R157). -/

namespace Sys2Proof.Machine

/-! ## Arrivals -/

/-- What thread `a` at lane `l` brings to the collective `i` at `pc` whose operands `pick` reads. -/
def Thread.contribution (a : Thread) (i : Instr) (pick : Thread → Word × Word) (pc : Addr56) (l : Nat) : Arrival :=
  { lane := l, pc := pc, instr := i, counts := true, a := (pick a).1, b := (pick a).2, order := a.order + 1 }

/-- The arrival of member `t` of a group in the state `s`: its contribution, or an empty one where its guard is false
(R122, R157). -/
def State.arrivalOf (s : State) (i : Instr) (pick : Thread → Word × Word) (iss : Issue) (t : Nat) : Arrival :=
  match (s.thread t).filter fun a => a.guard (headerOf iss.word) with
  | some a => a.contribution i pick iss.pc (laneOf t)
  | none => emptyArrival t iss.pc i

/-- The contributions of the contributors `c`, in lane order. -/
def contributions (i : Instr) (pick : Thread → Word × Word) (pc : Addr56) (c : Nat → Option Thread) : List Arrival :=
  (List.range 32).filterMap fun l => (c l).map fun a => a.contribution i pick pc l

section Arrivals
variable {i : Instr} {pick : Thread → Word × Word} {s : State} {iss : Issue} {t k l : Nat} {a : Thread}
  {c : Nat → Option Thread} {pc : Addr56}

@[simp] theorem State.arrivalOf_lane : (s.arrivalOf i pick iss t).lane = laneOf t := by
  unfold State.arrivalOf; split <;> rfl

@[simp] theorem State.arrivalOf_pc : (s.arrivalOf i pick iss t).pc = iss.pc := by
  unfold State.arrivalOf; split <;> rfl

theorem State.arrivalOf_true (ht : s.thread t = some a) (hg : a.guard (headerOf iss.word) = true) :
    s.arrivalOf i pick iss t = a.contribution i pick iss.pc (laneOf t) := by
  rw [State.arrivalOf, ht, Option.filter_some, if_pos hg]

theorem State.arrivalOf_false (ht : s.thread t = some a) (hg : a.guard (headerOf iss.word) = false) :
    s.arrivalOf i pick iss t = emptyArrival t iss.pc i := by
  rw [State.arrivalOf, ht, Option.filter_some, if_neg (by simp [hg])]

theorem mem_contributions {x : Arrival} :
    x ∈ contributions i pick pc c ↔ ∃ l < 32, ∃ a, c l = some a ∧ x = a.contribution i pick pc l := by
  simp [contributions, eq_comm]

/-- The contribution in a lane is that of the contributor there. -/
theorem contributor_contributions (hl : l < 32) :
    contributor (contributions i pick pc c) l = (c l).map fun a => a.contribution i pick pc l := by
  have hlane : ∀ x ∈ contributions i pick pc c, (x.lane == l) = true →
      ∃ a, c l = some a ∧ x = a.contribution i pick pc l := by
    intro x hx hxl
    obtain ⟨j, -, a, ha, rfl⟩ := mem_contributions.1 hx
    obtain rfl : j = l := by simpa [Thread.contribution] using hxl
    exact ⟨a, ha, rfl⟩
  cases ha : c l with
  | none =>
    refine List.find?_eq_none.2 fun x hx hxl => ?_
    obtain ⟨a, hsome, -⟩ := hlane x hx hxl
    simp [ha] at hsome
  | some a =>
    refine find?_eq_some_of_unique (mem_contributions.2 ⟨l, hl, a, ha, rfl⟩) (by simp [Thread.contribution]) ?_
    intro x hx hxl
    obtain ⟨b, hb, rfl⟩ := hlane x hx hxl
    rw [ha] at hb
    rw [Option.some.inj hb]

/-- Each lane contributes at most once. -/
theorem contributions_lanes : (contributions i pick pc c).Pairwise fun x y => x.lane ≠ y.lane := by
  refine List.Pairwise.filterMap _ (fun j l hjl x hx y hy => ?_) (List.pairwise_lt_range (n := 32))
  obtain ⟨a, -, rfl⟩ := Option.map_eq_some_iff.1 hx
  obtain ⟨b, -, rfl⟩ := Option.map_eq_some_iff.1 hy
  exact Nat.ne_of_lt hjl

/-- The first arrival of a lane, where each member `ts` of one crew has arrived once. -/
theorem find?_arrivalOf {ts : List Nat} (hk : ∀ t ∈ ts, crewOf t = k) (hl : l < 32) :
    (ts.map (s.arrivalOf i pick iss)).find? (fun x => x.lane == l)
      = if 32 * k + l ∈ ts then some (s.arrivalOf i pick iss (32 * k + l)) else none := by
  have hat : ∀ t ∈ ts, laneOf t = l → t = 32 * k + l := fun t ht e => e ▸ (lane_crew (hk t ht)).symm
  split
  · rename_i hm
    refine find?_eq_some_of_unique (List.mem_map_of_mem hm) (by simp [laneOf_lane hl]) fun x hx hxl => ?_
    obtain ⟨t, ht, rfl⟩ := List.mem_map.1 hx
    rw [hat t ht (by simpa using hxl)]
  · rename_i hm
    refine List.find?_eq_none.2 fun x hx hxl => hm ?_
    obtain ⟨t, ht, rfl⟩ := List.mem_map.1 hx
    exact hat t ht (by simpa using hxl) ▸ ht

/-- The arrivals of the lanes of a crew in which `us` stand, where the members `ts` among them have arrived. -/
theorem firstOf_arrivals {ts us : List Nat} {cr : Crew} (hk : ∀ t ∈ ts, crewOf t = k) (hsub : ts ⊆ us)
    (hc : cr.arrivals = ts.map (s.arrivalOf i pick iss)) :
    cr.firstOf (lanesOf k us) = (lanesOf k ts).map fun l => s.arrivalOf i pick iss (32 * k + l) := by
  rw [Crew.firstOf, hc, ← List.filterMap_eq_map (f := fun l => s.arrivalOf i pick iss (32 * k + l)), lanesOf, lanesOf,
    List.filterMap_filter, List.filterMap_filter]
  refine List.filterMap_congr fun l hl => ?_
  rw [find?_arrivalOf hk (List.mem_range.1 hl)]
  by_cases hm : 32 * k + l ∈ ts
  · simp [hm, hsub hm]
  · simp [hm]

/-- Of the arrivals of a whole group, those that count are the contributions of its contributors. -/
theorem filter_counts_arrivals (hk : ∀ t ∈ iss.members, crewOf t = k) :
    (((lanesOf k iss.members).map fun l => s.arrivalOf i pick iss (32 * k + l)).filter (·.counts))
      = contributions i pick iss.pc (contrib s iss) := by
  rw [← List.filterMap_eq_map, lanesOf, List.filterMap_filter, List.filter_filterMap]
  refine List.filterMap_congr fun l hl => ?_
  have hl' := List.mem_range.1 hl
  rw [contrib_eq hk hl']
  by_cases hm : 32 * k + l ∈ iss.members
  · cases ha : (s.thread (32 * k + l)).filter fun a => a.guard (headerOf iss.word) with
    | none => simp [hm, State.arrivalOf, ha, emptyArrival]
    | some a => simp [hm, State.arrivalOf, ha, Thread.contribution, laneOf_lane hl']
  · simp [hm]

end Arrivals

/-! ## Results -/

/-- A thread with the registers, flags and predicates that a collective gives it. -/
def Thread.receive (a : Thread) (r : CollRes) : Thread :=
  r.preds.foldl (fun a p => a.setPred p.1 p.2) ((a.setRegs r.regs).raise r.flags)

theorem Thread.collDone_eq (a : Thread) (x : Arrival) (r : CollRes) :
    a.collDone x r = { a.receive r with longs := (a.receive r).longs.filter fun o => o.order != x.order } := rfl

@[simp] theorem Thread.longs_setRegs (a : Thread) (ws : List (Nat × Word)) : (a.setRegs ws).longs = a.longs := by
  induction ws generalizing a with
  | nil => rfl
  | cons w ws ih => exact ih _

theorem Thread.longs_setPreds (a : Thread) (ps : List (BitVec 3 × Bool)) :
    (ps.foldl (fun a p => a.setPred p.1 p.2) a).longs = a.longs := by
  induction ps generalizing a with
  | nil => rfl
  | cons p ps ih => exact (ih _).trans (a.setPred_longs p.1 p.2)

@[simp] theorem Thread.longs_receive (a : Thread) (r : CollRes) : (a.receive r).longs = a.longs :=
  (Thread.longs_setPreds _ _).trans (Thread.longs_setRegs a r.regs)

/-- The results `r` given to the lanes of crew `k` that the arrivals `xs` name. -/
def State.giveResults (s : State) (k : Nat) (r : Arrival → CollRes) (xs : List Arrival) : State :=
  xs.foldl (fun s x => s.modThread (32 * k + x.lane) fun a => a.collDone x (r x)) s

section Results
variable {s : State} {k t : Nat} {r : Arrival → CollRes} {xs : List Arrival}

theorem State.modThread_eq_threads (s : State) (t : Nat) (f : Thread → Thread) :
    ∃ ts, s.modThread t f = { s with threads := ts } := by
  unfold State.modThread
  cases s.thread t with
  | none => exact ⟨s.threads, rfl⟩
  | some a => exact ⟨_, rfl⟩

/-- Results change threads alone. -/
theorem State.giveResults_eq_threads : ∃ ts, s.giveResults k r xs = { s with threads := ts } := by
  induction xs generalizing s with
  | nil => exact ⟨s.threads, rfl⟩
  | cons x xs ih =>
    obtain ⟨us, hus⟩ := s.modThread_eq_threads (32 * k + x.lane) fun a => a.collDone x (r x)
    obtain ⟨ts, hts⟩ := ih (s := { s with threads := us })
    exact ⟨ts, (congrArg (State.giveResults · k r xs) hus).trans hts⟩

theorem State.thread_giveResults_other (h : ∀ x ∈ xs, t ≠ 32 * k + x.lane) :
    (s.giveResults k r xs).thread t = s.thread t := by
  induction xs generalizing s with
  | nil => rfl
  | cons x xs ih =>
    obtain ⟨hx, hxs⟩ := List.forall_mem_cons.1 h
    refine (ih hxs).trans ?_
    rw [State.thread_modThread, if_neg hx]

theorem State.thread_giveResults_same {x : Arrival} (hd : xs.Pairwise fun x y => x.lane ≠ y.lane) (hx : x ∈ xs) :
    (s.giveResults k r xs).thread (32 * k + x.lane) = (s.thread (32 * k + x.lane)).map fun a => a.collDone x (r x) := by
  induction xs generalizing s with
  | nil => simp at hx
  | cons y ys ih =>
    obtain ⟨hy, hys⟩ := List.pairwise_cons.1 hd
    rcases List.mem_cons.1 hx with rfl | hmem
    · have hother : ∀ z ∈ ys, 32 * k + x.lane ≠ 32 * k + z.lane := fun z hz e => hy z hz (Nat.add_left_cancel e)
      refine (State.thread_giveResults_other (s := s.modThread _ _) hother).trans ?_
      rw [State.thread_modThread, if_pos rfl]
    · refine (ih hys hmem).trans ?_
      have := hy x hmem
      rw [State.thread_modThread, if_neg (by omega)]

end Results

/-! ## Performance -/

section Perform
variable {s : State} {k : Nat} {firsts : List Arrival} {pc : Addr56}

/-- Nothing performs while a live lane has not arrived. -/
theorem State.gathered_none (h : ((s.crew k).firstOf (s.liveLanes k)).length < (s.liveLanes k).length) :
    s.gathered k = none := by
  unfold State.gathered
  dsimp only
  split
  · rfl
  · rename_i x xs hxs
    rw [if_neg]
    rintro ⟨hlen, -⟩
    exact absurd (hxs ▸ hlen) h.ne

/-- A collective performs when every live lane has arrived at it. -/
theorem State.gathered_some (hf : (s.crew k).firstOf (s.liveLanes k) = firsts) (hne : firsts ≠ [])
    (hlen : firsts.length = (s.liveLanes k).length) (hpc : ∀ x ∈ firsts, x.pc = pc) : s.gathered k = some firsts := by
  unfold State.gathered
  dsimp only
  rw [hf]
  cases firsts with
  | nil => exact absurd rfl hne
  | cons x xs =>
    dsimp only
    rw [if_pos]
    refine ⟨hlen, List.all_eq_true.2 fun y hy => ?_⟩
    simp [hpc y hy, hpc x List.mem_cons_self]

theorem State.performCrew_none (h : s.gathered k = none) (n : Nat) : s.performCrew k n = s := by
  cases n <;> simp [State.performCrew, h]

theorem State.gathered_no_arrivals (h : (s.crew k).arrivals = []) : s.gathered k = none := by
  have hfirst : (s.crew k).firstOf (s.liveLanes k) = [] := by simp [Crew.firstOf, h]
  simp [State.gathered, hfirst]

/-- The collective of a crew performed with the arrivals `xs`, after which none is pending. -/
def State.performed (s : State) (k : Nat) (xs : List Arrival) : State :=
  (s.setCrew k { s.crew k with arrivals := [] }).giveResults k (collResult xs) xs

theorem State.performed_eq_threads (s : State) (k : Nat) (xs : List Arrival) :
    ∃ ts, s.performed k xs = { s.setCrew k { s.crew k with arrivals := [] } with threads := ts } :=
  State.giveResults_eq_threads

theorem State.crew_performed (xs : List Arrival) : (s.performed k xs).crew k = { s.crew k with arrivals := [] } := by
  obtain ⟨ts, hts⟩ := s.performed_eq_threads k xs
  rw [hts]
  exact State.crew_setCrew_same s k _

/-- Every one of the pending arrivals taken away leaves none. -/
theorem foldl_erase_of_perm {α : Type} [DecidableEq α] {xs ys : List α} (h : xs.Perm ys) :
    xs.foldl List.erase ys = [] := by
  induction xs generalizing ys with
  | nil => exact List.nil_perm.1 h
  | cons x xs ih => exact ih (List.cons_perm_iff_perm_erase.1 h).2

/-- Where every pending arrival is one of those that perform, the crew is tested once. -/
theorem State.retestCrew_gathered (hg : s.gathered k = some firsts) (hp : firsts.Perm (s.crew k).arrivals)
    (hne : firsts ≠ []) : s.retestCrew k = s.performed k (firsts.filter (·.counts)) := by
  obtain ⟨n, hn⟩ : ∃ n, (s.crew k).arrivals.length = n + 1 :=
    Nat.exists_eq_succ_of_ne_zero (by rw [← hp.length_eq]; simpa using hne)
  rw [State.retestCrew, hn, State.performCrew, hg]
  dsimp only
  rw [foldl_erase_of_perm hp]
  exact State.performCrew_none (State.gathered_no_arrivals (by
    rw [← State.giveResults, ← State.performed, State.crew_performed])) n

end Perform

end Sys2Proof.Machine
end

section
/-! SUPPORT. A crew collective that a whole crew executes in one group: its members arrive one after the other, nothing
performs before the last of them, and then every contributor receives its result at once (R29, R157). -/

namespace Sys2Proof.Machine

theorem Thread.keepOperand_hold (th : Thread) (h : Hdr) (y : Body) : (th.keepOperand h y).hold = th.hold := by
  unfold Thread.keepOperand; repeat' split <;> try rfl

/-! ## One member -/

/-- A thread after it has arrived at the collective `i`: it has issued, and what it contributes is outstanding. -/
def Thread.collOut (a : Thread) (i : Instr) (s : State) (iss : Issue) (t : Nat) : Thread :=
  a.laneOut i iss (a.marks.inRun || s.inLoop t iss.pc) fun b => b.begin iss.pc s.issueWord (.coll i)

/-- A state with one more arrival pending at crew `k`. -/
def State.noted (s : State) (k : Nat) (x : Arrival) : State :=
  s.setCrew k { s.crew k with arrivals := (s.crew k).arrivals ++ [x] }

section Member
variable {i : Instr} {pick : Thread → Word × Word} {s : State} {iss : Issue} {t : Nat} {a : Thread}

theorem Thread.collOut_gang : (a.collOut i s iss t).gang = a.gang := by
  unfold Thread.collOut Thread.laneOut
  split
  · exact Thread.keepOperand_gang _ _ _
  · rfl

theorem Thread.collOut_hold : (a.collOut i s iss t).hold = .none := by
  unfold Thread.collOut Thread.laneOut
  split
  · exact Thread.keepOperand_hold _ _ _
  · rfl

/-- A contributor stands as the effect of its instruction begins, with the collective outstanding beside what it had
issued before. -/
theorem Thread.collOut_true (i : Instr) (s : State) (t : Nat) (hg : a.guard (headerOf iss.word) = true) :
    ∃ b, s.entered i t a iss = s.setThread t b ∧ a.collOut i s iss t = b.begin iss.pc s.issueWord (.coll i) ∧
      Issued iss a b ∧ ∀ o ∈ b.longs, ∃ o' ∈ a.longs, o.order = o'.order := by
  refine ⟨_, rfl, if_pos hg, ⟨Thread.entered_same a i iss _, ?_, ?_, ?_⟩, ?_⟩
  · rw [Thread.keepOperand_pc]; rfl
  · rw [Thread.keepOperand_longs, Thread.passed_kinds]
  · rw [Thread.keepOperand_order]; rfl
  · rw [Thread.keepOperand_longs]
    intro o ho
    obtain ⟨o', ho', rfl⟩ := List.mem_map.1 ho
    exact ⟨o', ho', rfl⟩

theorem collArrive_ok {pc : Addr56} (ht : s.thread t = some a) :
    collArrive i pick pc s t = .ok ((s.setThread t (a.begin pc s.issueWord (.coll i))).arrive t
      { a.contribution i pick pc (laneOf t) with order := a.order }) := by
  simp only [collArrive, ht]
  rfl

/-- A member arrives: its operands are those that stood when it issued, whatever issuing marks on it. -/
theorem collLane_eq (hpick : ReadsData pick) (ht : s.thread t = some a)
    (hpass : a.guard (headerOf iss.word) = true → precheck s t a i = none ∧ a.untokened i) :
    collLane i pick iss s t
      = ((s.setThread t (a.collOut i s iss t)).noted (crewOf t) (s.arrivalOf i pick iss t)).retestCrew (crewOf t) := by
  by_cases hg : a.guard (headerOf iss.word) = true
  · obtain ⟨hc, hu⟩ := hpass hg
    have hlane : collLane i pick iss s t = runLane i iss (collArrive i pick) s t := by
      simp [collLane, ht, hg, hc]
    obtain ⟨b, hent, hout, hb, -⟩ := a.collOut_true i s t hg
    have hcontr : { b.contribution i pick iss.pc (laneOf t) with order := b.order }
        = a.contribution i pick iss.pc (laneOf t) := by
      simp only [Thread.contribution, hpick a b hb.data, hb.order]
    rw [hlane, runLane_true ht hg hc hu, hent, collArrive_ok (State.thread_setThread_same s t b), hcontr,
      State.setThread_setThread, State.arrivalOf_true ht hg, hout]
    rfl
  · have hg' : a.guard (headerOf iss.word) = false := by simpa using hg
    have hlane : collLane i pick iss s t
        = (runLane i iss (collArrive i pick) s t).arrive t (emptyArrival t iss.pc i) := by
      simp [collLane, ht, hg']
    rw [hlane, runLane_false ht hg', State.arrivalOf_false ht hg']
    simp only [Thread.collOut, Thread.laneOut, if_neg hg]
    rfl

end Member

/-! ## The group, member after member -/

/-- What holds after the members `done` have arrived at a collective that crew `k` executes from the state `s0`, before
the crew is tested: their arrivals are pending, and only their own threads have changed. -/
structure ArrivedBy (i : Instr) (pick : Thread → Word × Word) (s0 : State) (iss : Issue) (k : Nat) (done : List Nat)
    (s : State) : Prop where
  alike    : Alike s0 { s with crews := s0.crews }
  table    : Tab.wf s.threads = true
  records  : (s.crew k).records = (s0.crew k).records
  arrivals : (s.crew k).arrivals = done.map (s0.arrivalOf i pick iss)
  others   : ∀ t, t ∉ done → s.thread t = s0.thread t
  own      : ∀ t ∈ done, ∀ a, s0.thread t = some a → s.thread t = some (a.collOut i s0 iss t)

section Group
variable {i : Instr} {pick : Thread → Word × Word} {s0 s : State} {iss : Issue} {k t : Nat} {done : List Nat}
  {a : Thread}

theorem crewOf_wholeCrew (hw : WholeCrew i s0 iss k) : ∀ t ∈ iss.members, crewOf t = k :=
  fun t ht => ((hw.crew t).1 ht).1

theorem ArrivedBy.nil (hw : WholeCrew i s0 iss k) : ArrivedBy i pick s0 iss k [] s0 :=
  ⟨Alike.refl s0, hw.table, rfl, hw.pending, fun _ _ => rfl, fun _ ht => absurd ht List.not_mem_nil⟩

/-- One more member has arrived. -/
theorem ArrivedBy.next (hs : ArrivedBy i pick s0 iss k done s) (hnew : t ∉ done) (ht : s0.thread t = some a) :
    ArrivedBy i pick s0 iss k (done ++ [t])
      ((s.setThread t (a.collOut i s0 iss t)).noted k (s0.arrivalOf i pick iss t)) where
  alike := hs.alike.setThread ((hs.others t hnew).trans ht) Thread.collOut_gang
  table := Tab.wf_set _ _ _ hs.table
  records := (congrArg Crew.records (State.crew_setCrew_same _ _ _)).trans hs.records
  arrivals := by
    refine (congrArg Crew.arrivals (State.crew_setCrew_same _ _ _)).trans ?_
    rw [List.map_append, ← hs.arrivals]
    rfl
  others u hu := by
    have hu' : u ∉ done ∧ u ≠ t := by simpa using hu
    exact (State.thread_setThread_other s t u _ hu'.2).trans (hs.others u hu'.1)
  own u hu b hb := by
    by_cases e : u = t
    · subst e
      obtain rfl : a = b := Option.some.inj (ht.symm.trans hb)
      exact State.thread_setThread_same s u _
    · have hu' : u ∈ done := by simpa [e] using hu
      exact (State.thread_setThread_other s t u _ e).trans (hs.own u hu' b hb)

/-- The next member arrives, and the crew is tested. -/
theorem ArrivedBy.collLane_eq (hs : ArrivedBy i pick s0 iss k done s) (hpick : ReadsData pick) (hnew : t ∉ done)
    (ht : s0.thread t = some a) (hk : crewOf t = k)
    (hpass : a.guard (headerOf iss.word) = true → precheck s0 t a i = none ∧ a.untokened i) :
    collLane i pick iss s t
      = ((s.setThread t (a.collOut i s0 iss t)).noted k (s0.arrivalOf i pick iss t)).retestCrew k := by
  have hst : s.thread t = some a := (hs.others t hnew).trans ht
  have hout : a.collOut i s iss t = a.collOut i s0 iss t := by
    have hloop : s.inLoop t iss.pc = s0.inLoop t iss.pc := hs.alike.inLoop t iss.pc
    have hsched : s.sched = s0.sched := hs.alike.sched
    simp only [Thread.collOut, hloop, State.issueWord, hsched]
  have harr : s.arrivalOf i pick iss t = s0.arrivalOf i pick iss t := by
    simp only [State.arrivalOf, hst, ht]
  have hlane := Machine.collLane_eq hpick hst fun hg =>
    (hpass hg).imp_left (hs.alike.precheck t a i).trans
  rwa [hk, hout, harr] at hlane

/-- The members still live in their crew, and nobody else does. -/
theorem ArrivedBy.liveLanes (hs : ArrivedBy i pick s0 iss k done s) (hw : WholeCrew i s0 iss k)
    (hsub : done ⊆ iss.members) : s.liveLanes k = lanesOf k iss.members := by
  refine State.liveLanes_eq hs.table fun t => ?_
  by_cases hd : t ∈ done
  · have ht := hsub hd
    obtain ⟨hk, a, ha, -⟩ := (hw.crew t).1 ht
    have hlive : (a.collOut i s0 iss t).hold ≠ .exited := by simp [Thread.collOut_hold]
    exact iff_of_true ht ⟨hk, _, hs.own t hd a ha, hlive⟩
  · rw [hw.crew, hs.others t hd]

theorem ArrivedBy.firstOf (hs : ArrivedBy i pick s0 iss k done s) (hw : WholeCrew i s0 iss k)
    (hsub : done ⊆ iss.members) :
    (s.crew k).firstOf (s.liveLanes k) = (lanesOf k done).map fun l => s0.arrivalOf i pick iss (32 * k + l) := by
  rw [hs.liveLanes hw hsub]
  exact firstOf_arrivals (fun t ht => crewOf_wholeCrew hw t (hsub ht)) hsub hs.arrivals

/-- While a member has not arrived, the collective waits. -/
theorem ArrivedBy.waits (hs : ArrivedBy i pick s0 iss k done s) (hw : WholeCrew i s0 iss k) {rest : List Nat}
    (hrest : done ++ rest = iss.members) (hne : rest ≠ []) : s.retestCrew k = s := by
  have hsub : done ⊆ iss.members := hrest ▸ List.subset_append_left done rest
  have hd : done.Nodup := (hrest ▸ hw.ready.distinct : (done ++ rest).Nodup).of_append_left
  have hdone : (lanesOf k done).length = done.length := length_lanesOf hd fun t ht => crewOf_wholeCrew hw t (hsub ht)
  have hall : (lanesOf k iss.members).length = iss.members.length :=
    length_lanesOf hw.ready.distinct (crewOf_wholeCrew hw)
  refine State.performCrew_none (State.gathered_none ?_) _
  rw [hs.firstOf hw hsub, hs.liveLanes hw hsub, List.length_map, hdone, hall, ← hrest, List.length_append]
  exact Nat.lt_add_of_pos_right (List.length_pos_of_ne_nil hne)

/-- When every member has arrived, the collective performs with the contributions of its contributors. -/
theorem ArrivedBy.performs (hs : ArrivedBy i pick s0 iss k iss.members s) (hw : WholeCrew i s0 iss k) :
    s.retestCrew k = s.performed k (contributions i pick iss.pc (contrib s0 iss)) := by
  have hperm := lanesOf_threads_perm hw.ready.distinct (crewOf_wholeCrew hw)
  have hne : (lanesOf k iss.members).map (fun l => s0.arrivalOf i pick iss (32 * k + l)) ≠ [] := by
    rw [Ne, List.map_eq_nil_iff, ← List.length_eq_zero_iff, length_lanesOf hw.ready.distinct (crewOf_wholeCrew hw),
      List.length_eq_zero_iff]
    exact hw.inhabited
  rw [← filter_counts_arrivals (crewOf_wholeCrew hw)]
  refine State.retestCrew_gathered
    (State.gathered_some (pc := iss.pc) (hs.firstOf hw (List.Subset.refl _)) hne ?_ ?_) ?_ hne
  · rw [List.length_map, hs.liveLanes hw (List.Subset.refl _)]
  · intro x hx
    obtain ⟨l, -, rfl⟩ := List.mem_map.1 hx
    exact State.arrivalOf_pc
  · rw [hs.arrivals]
    simpa [Function.comp_def] using hperm.map (s0.arrivalOf i pick iss)

/-- The lane of the next member of the group. -/
theorem ArrivedBy.lane (hs : ArrivedBy i pick s0 iss k done s) (hpick : ReadsData pick) (hw : WholeCrew i s0 iss k)
    {rest : List Nat} (hrest : done ++ t :: rest = iss.members) :
    ∃ s', ArrivedBy i pick s0 iss k (done ++ [t]) s' ∧ collLane i pick iss s t = s'.retestCrew k := by
  have ht : t ∈ iss.members := hrest ▸ List.mem_append_right done List.mem_cons_self
  have hd := List.nodup_middle.1 (hrest ▸ hw.ready.distinct : (done ++ t :: rest).Nodup)
  have hnew : t ∉ done := fun h => (List.nodup_cons.1 hd).1 (List.mem_append_left rest h)
  obtain ⟨a, ha, -, hpass⟩ := hw.ready.passes t ht
  exact ⟨_, hs.next hnew ha, hs.collLane_eq hpick hnew ha (crewOf_wholeCrew hw t ht) hpass⟩

/-- A group that lacks some member's arrival has only noted those of the others. -/
theorem arrivedBy_foldl (hpick : ReadsData pick) (hw : WholeCrew i s0 iss k) {rest : List Nat}
    (hrest : done ++ rest = iss.members) (hne : rest ≠ []) :
    ArrivedBy i pick s0 iss k done (done.foldl (collLane i pick iss) s0) := by
  induction done using List.reverseRecOn generalizing rest with
  | nil => exact ArrivedBy.nil hw
  | append_singleton ts t ih =>
    have hrest' : ts ++ t :: rest = iss.members := by simpa using hrest
    obtain ⟨s', hs', hlane⟩ := (ih hrest' (List.cons_ne_nil t rest)).lane hpick hw hrest'
    rw [List.foldl_append, List.foldl_cons, List.foldl_nil, hlane, hs'.waits hw hrest hne]
    exact hs'

/-- The whole group: from the state in which every member has arrived, the collective performs. -/
theorem collective_whole (hpick : ReadsData pick) (hw : WholeCrew i s0 iss k) :
    ∃ s, ArrivedBy i pick s0 iss k iss.members s ∧
      collective i pick s0 = .next (s.performed k (contributions i pick iss.pc (contrib s0 iss))) := by
  obtain ⟨ts, t, hts⟩ : ∃ ts t, ts ++ [t] = iss.members := ⟨_, _, List.dropLast_append_getLast hw.inhabited⟩
  obtain ⟨s', hs', hlane⟩ := (arrivedBy_foldl hpick hw hts (List.cons_ne_nil t [])).lane hpick hw hts
  rw [hts] at hs'
  have hfold : iss.members.foldl (collLane i pick iss) s0 = s'.retestCrew k := by
    rw [← hts, List.foldl_append, List.foldl_cons, List.foldl_nil, hlane]
  rw [hs'.performs hw] at hfold
  exact ⟨s', hs', by rw [collective, hw.ready.latched, ← hfold]⟩

/-- A contributor has received its result. -/
theorem ArrivedBy.thread_contributor (hs : ArrivedBy i pick s0 iss k iss.members s) (hw : WholeCrew i s0 iss k)
    (ht : t ∈ iss.members) (ha : s0.thread t = some a) (hg : a.guard (headerOf iss.word) = true) :
    (s.performed k (contributions i pick iss.pc (contrib s0 iss))).thread t
      = some ((a.collOut i s0 iss t).collDone (a.contribution i pick iss.pc (laneOf t))
        (collResult (contributions i pick iss.pc (contrib s0 iss)) (a.contribution i pick iss.pc (laneOf t)))) := by
  have hk := crewOf_wholeCrew hw
  have hlane := lane_crew (hk t ht)
  have hcon : contrib s0 iss (laneOf t) = some a :=
    (contrib_eq_some hk (laneOf_lt t)).2 (by rw [hlane]; exact ⟨ht, ha, hg⟩)
  have hmem : a.contribution i pick iss.pc (laneOf t) ∈ contributions i pick iss.pc (contrib s0 iss) :=
    mem_contributions.2 ⟨laneOf t, laneOf_lt t, a, hcon, rfl⟩
  have hgiven := State.thread_giveResults_same (s := s.setCrew k { s.crew k with arrivals := [] }) (k := k)
    (r := collResult (contributions i pick iss.pc (contrib s0 iss))) contributions_lanes hmem
  rw [show 32 * k + (a.contribution i pick iss.pc (laneOf t)).lane = t from hlane] at hgiven
  exact hgiven.trans (congrArg (Option.map _) (hs.own t ht a ha))

/-- Who does not contribute receives nothing. -/
theorem thread_performed_other (hw : WholeCrew i s0 iss k)
    (hno : t ∈ iss.members → ∀ a, s0.thread t = some a → ¬a.guard (headerOf iss.word) = true) :
    (s.performed k (contributions i pick iss.pc (contrib s0 iss))).thread t = s.thread t := by
  refine State.thread_giveResults_other fun x hx e => ?_
  obtain ⟨l, hl, a, ha, rfl⟩ := mem_contributions.1 hx
  obtain ⟨ht, hat, hg⟩ := (contrib_eq_some (crewOf_wholeCrew hw) hl).1 ha
  rw [show 32 * k + l = t from e.symm] at ht hat
  exact hno ht a hat hg

end Group

/-! ## What the contributors receive -/

theorem SameRest.withLongs (a : Thread) (l : List Outstanding) : SameRest a { a with longs := l } :=
  ⟨rfl, rfl, rfl, rfl, rfl, rfl, rfl, rfl, rfl, rfl, rfl, rfl, rfl, rfl⟩

section Receive
variable {i : Instr} {pick : Thread → Word × Word} {s : State} {iss : Issue} {t : Nat} {a : Thread}

/-- A contributor that has received its result has nothing of the collective outstanding. -/
theorem Thread.computed_collDone {w : Nat → Option Word} {f : Nat} {p : BitVec 3 → Option Bool} {r : CollRes} {l : Nat}
    (hg : a.guard (headerOf iss.word) = true) (hwf : Sparse.wf a.regs = true) (ho : ∀ o ∈ a.longs, o.order ≤ a.order)
    (he : ∀ b, Sparse.wf b.regs = true →
      Effect (fun _ => w) (fun _ => f) (fun _ => p) (fun _ => []) (fun b => b.receive r) b) :
    Computed iss.pc w f p [] a ((a.collOut i s iss t).collDone (a.contribution i pick iss.pc l) r) := by
  obtain ⟨b, -, hout, hb, hold⟩ := a.collOut_true i s t hg
  have hwf' : Sparse.wf b.regs = true := hb.data.regs ▸ hwf
  have hbegin := Effect.begin (pc := iss.pc) (word := s.issueWord) (k := fun _ => .coll i) b
  have hrecv := he (b.begin iss.pc s.issueWord (.coll i)) hwf'
  have hkept : (b.begin iss.pc s.issueWord (.coll i)).longs.filter (fun o => o.order != a.order + 1) = b.longs := by
    have hothers : b.longs.filter (fun o => o.order != a.order + 1) = b.longs := by
      refine List.filter_eq_self.2 fun o hmem => ?_
      obtain ⟨o', ho', hord⟩ := hold o hmem
      have hle := ho o' ho'
      simp only [bne_iff_ne]
      omega
    simp [Thread.begin, List.filter_append, hothers, hb.order]
  rw [hout, Thread.collDone_eq]
  exact {
    pc := (hrecv.pc.trans hbegin.pc).trans hb.pc
    regs := fun q => (hrecv.regs q).trans (congrArg (w q).getD ((hbegin.regs q).trans (Thread.reg_congr hb.data.regs q)))
    flg := by rw [← hb.data.flg]; exact hrecv.flg
    preds := fun n => (hrecv.preds n).trans (congrArg (p n).getD (Thread.pred_congr hb.data.preds n))
    longs := by
      simp only [Thread.longs_receive, Thread.contribution, hkept, hb.longs, List.append_nil]
    rest := (hb.data.rest.trans hbegin.rest).trans (hrecv.rest.trans (SameRest.withLongs _ _)) }

end Receive

end Sys2Proof.Machine
end

section
/-! SUPPORT and CLAIM. SHFL and VOTE (R158, R159): from what a collective computes of its contributions to the claim about
a whole crew. -/

namespace Sys2Proof.Machine

/-! ## From the result of a contributor to the claim -/

section Collects
variable {i : Instr} {pick : Thread → Word × Word}

/-- A collective makes the claim whose writes, flags and predicates are those of the result of each contributor. -/
theorem collects_of_result {w : (Nat → Option Thread) → Nat → Thread → Nat → Option Word}
    {f : (Nat → Option Thread) → Nat → Thread → Nat}
    {p : (Nat → Option Thread) → Nat → Thread → BitVec 3 → Option Bool}
    (hexec : ∀ s, exec i s = collective i pick s) (hpick : ReadsData pick)
    (hres : ∀ pc c l a b, l < 32 → Sparse.wf b.regs = true →
      Effect (fun _ => w c l a) (fun _ => f c l a) (fun _ => p c l a) (fun _ => [])
        (fun b => b.receive (collResult (contributions i pick pc c) (a.contribution i pick pc l))) b) :
    Collects i w f p := by
  intro s iss k hw
  obtain ⟨s1, hs1, hrun⟩ := collective_whole hpick hw
  refine ⟨_, (hexec s).trans hrun, ?_, by rw [State.crew_performed], by rw [State.crew_performed, ← hs1.records],
    fun t ht => ?_, fun t ht a ha => ?_⟩
  · obtain ⟨ts, hts⟩ := s1.performed_eq_threads k (contributions i pick iss.pc (contrib s iss))
    rw [hts]
    exact hs1.alike.rest
  · exact (thread_performed_other hw fun h => absurd h ht).trans (hs1.others t ht)
  · by_cases hg : a.guard (headerOf iss.word) = true
    · obtain ⟨b, hb, hwf, -⟩ := hw.ready.passes t ht
      obtain rfl : b = a := Option.some.inj (hb.symm.trans ha)
      refine ⟨_, hs1.thread_contributor hw ht ha hg, ?_⟩
      rw [if_pos hg]
      exact Thread.computed_collDone hg hwf (hw.order t ht b ha) fun b' hb' => hres iss.pc _ _ b b' (laneOf_lt t) hb'
    · have hno : ∀ b, s.thread t = some b → ¬b.guard (headerOf iss.word) = true :=
        fun b hb => Option.some.inj (ha.symm.trans hb) ▸ hg
      refine ⟨_, (thread_performed_other hw fun _ => hno).trans (hs1.own t ht a ha), ?_⟩
      rw [if_neg hg, Thread.collOut, Thread.laneOut, if_neg hg]
      exact Thread.computed_passed a i iss _

theorem Thread.receive_collReg (b : Thread) (d : Reg) (v : Word) : b.receive (collReg d v) = b.setReg d.toNat v :=
  Thread.raise_zero _

theorem Thread.receive_collPred (b : Thread) (p : BitVec 3) (v : Bool) :
    b.receive (collPred p v) = (b.setPred p v).raise 0 := by
  rw [Thread.raise_zero]
  exact congrArg (Thread.setPred · p v) b.raise_zero

theorem collectsReg_of {d : Reg} {v : (Nat → Option Thread) → Nat → Thread → Word}
    (hexec : ∀ s, exec i s = collective i pick s) (hpick : ReadsData pick)
    (hres : ∀ pc c l a, l < 32 →
      collResult (contributions i pick pc c) (a.contribution i pick pc l) = collReg d (v c l a)) : CollectsReg i d v :=
  collects_of_result hexec hpick fun pc c l a b hl hb => by
    simp only [hres pc c l a hl, Thread.receive_collReg]
    exact Effect.setReg (v := fun _ => v c l a) b hb

theorem collectsPred_of {p : BitVec 3} {v : (Nat → Option Thread) → Nat → Thread → Bool}
    (hexec : ∀ s, exec i s = collective i pick s) (hpick : ReadsData pick)
    (hres : ∀ pc c l a, collResult (contributions i pick pc c) (a.contribution i pick pc l) = collPred p (v c l a)) :
    CollectsPred i p v :=
  collects_of_result hexec hpick fun pc c l a b _ _ => by
    simp only [hres, Thread.receive_collPred]
    exact Effect.setPred (v := fun _ => v c l a) (f := fun _ => 0) b

end Collects

/-! ## SHFL -/

/-- A lane shuffles in the first operand of the source lane's contributor, or its own where there is none (R158). -/
theorem shflValue_contributions {i : Instr} {pick : Thread → Word × Word} {pc : Addr56} {c : Nat → Option Thread}
    {l src : Nat} (a : Thread) (hsrc : src < 32) :
    shflValue src (contributions i pick pc c) (a.contribution i pick pc l) = (pick ((c src).getD a)).1 := by
  rw [shflValue, contributor_contributions hsrc]
  cases c src <;> rfl

theorem natBits_zero (v n : Nat) : natBits v 0 n = v % 2 ^ n := by simp [natBits]

theorem shflUpLane_lt {x : Arrival} (h : x.lane < 32) : shflUpLane x < 32 := by
  unfold shflUpLane
  split <;> omega

theorem shflDownLane_lt {x : Arrival} (h : x.lane < 32) : shflDownLane x < 32 := by
  unfold shflDownLane
  split <;> omega

/-- Settles O18: each of the four source lanes of R158 lies in the crew. -/
theorem shuffleReadsTheSourceLane : Obligations.ShuffleReadsTheSourceLane := by
  intro h x
  have hpick : ReadsData fun a => (a.reg x.a.toNat, a.b32 x.b) := (ReadsData.reg _).map₂ (ReadsData.b32 _) Prod.mk
  refine ⟨?_, ?_, ?_, ?_⟩
  · refine collectsReg_of (fun _ => rfl) hpick fun pc c l a _ => congrArg (collReg x.d) ?_
    have hsrc : shflIdxLane (a.contribution (.shflIdx h x) (fun a => (a.reg x.a.toNat, a.b32 x.b)) pc l)
        = (a.b32 x.b).toNat % 32 := natBits_zero _ 5
    rw [hsrc]
    exact shflValue_contributions a (Nat.mod_lt _ (by decide))
  · refine collectsReg_of (fun _ => rfl) hpick fun pc c l a hl => congrArg (collReg x.d) ?_
    exact shflValue_contributions a (shflUpLane_lt hl)
  · refine collectsReg_of (fun _ => rfl) hpick fun pc c l a hl => congrArg (collReg x.d) ?_
    exact shflValue_contributions a (shflDownLane_lt hl)
  · refine collectsReg_of (fun _ => rfl) hpick fun pc c l a hl => congrArg (collReg x.d) ?_
    have hsrc : shflXorLane (a.contribution (.shflXor h x) (fun a => (a.reg x.a.toNat, a.b32 x.b)) pc l)
        = l ^^^ (a.b32 x.b).toNat % 32 := congrArg (Nat.xor l) (natBits_zero _ 5)
    rw [hsrc]
    exact shflValue_contributions a (Nat.xor_lt_two_pow (n := 5) hl (Nat.mod_lt _ (by decide)))

/-! ## VOTE -/

theorem bitOf_predWord (a : Thread) (p : BitVec 3) : bitOf (predWord a p) 0 = a.pred p := by
  cases h : a.pred p <;> simp [bitOf, predWord, bit, h]

section Vote
variable {i : Instr} {pa : BitVec 3} {pc : Addr56} {c : Nat → Option Thread}

/-- What a thread contributes to a VOTE: its predicate `pa`. -/
def voteOf (pa : BitVec 3) (a : Thread) : Word × Word := (predWord a pa, 0#32)

theorem ReadsData.voteOf (pa : BitVec 3) : ReadsData (voteOf pa) :=
  (ReadsData.pred pa).map fun v => (BitVec.ofNat 32 (bit v), 0#32)

theorem all_votes : ((contributions i (voteOf pa) pc c).all fun x => bitOf x.a 0)
    = (List.range 32).all fun l => (c l).all fun b => b.pred pa := by
  rw [contributions, List.all_filterMap]
  congr
  funext l
  cases c l <;> simp [Thread.contribution, voteOf, bitOf_predWord]

theorem any_votes : ((contributions i (voteOf pa) pc c).any fun x => bitOf x.a 0)
    = (List.range 32).any fun l => (c l).any fun b => b.pred pa := by
  rw [contributions, List.any_filterMap]
  congr
  funext l
  cases c l <;> simp [Thread.contribution, voteOf, bitOf_predWord]

theorem ballot_votes : ballot (contributions i (voteOf pa) pc c) = laneWord fun l => (c l).any fun b => b.pred pa := by
  rw [ballot, contributions, List.foldl_filterMap, laneWord]
  congr
  funext w l
  cases c l <;> simp [Thread.contribution, voteOf, bitOf_predWord]

end Vote

theorem getLsbD_foldl_lanes (f : Nat → Bool) (ls : List Nat) (w : Word) {j : Nat} (hj : j < 32) :
    (ls.foldl (fun w l => if f l then w ||| (1#32 <<< l) else w) w).getLsbD j
      = (w.getLsbD j || (decide (j ∈ ls) && f j)) := by
  induction ls generalizing w with
  | nil => simp
  | cons l ls ih =>
    have hbit : (1#32 <<< l).getLsbD j = decide (j = l) := by
      rw [BitVec.getLsbD_shiftLeft, BitVec.getLsbD_one, Bool.eq_iff_iff]
      simp only [Bool.and_eq_true, Bool.not_eq_true', decide_eq_true_eq, decide_eq_false_iff_not]
      omega
    rw [List.foldl_cons, ih]
    by_cases e : j = l
    · subst e
      cases f j <;> simp [hbit]
    · cases f l <;> simp [hbit, e]

/-- A lane's bit of a lane word. -/
theorem getLsbD_laneWord (f : Nat → Bool) {j : Nat} (hj : j < 32) : (laneWord f).getLsbD j = f j := by
  rw [laneWord, getLsbD_foldl_lanes f _ _ hj]
  simp [hj]

theorem popBits_eq (v n : Nat) : popBits v n = ((List.range n).filter v.testBit).length := by
  induction n with
  | zero => rfl
  | succ n ih =>
    rw [popBits, ih, List.range_succ, List.filter_append, List.length_append, Nat.add_comm]
    congr 1
    have hbit : v.testBit n = decide (v / 2 ^ n % 2 = 1) := Nat.testBit_eq_decide_div_mod_eq
    rcases Nat.mod_two_eq_zero_or_one (v / 2 ^ n) with h | h <;> simp [hbit, h]

/-- The ones of a lane word are the lanes that it admits. -/
theorem popc32_laneWord (f : Nat → Bool) : popc32 (laneWord f) = ((List.range 32).filter f).length := by
  rw [popc32, popBits_eq]
  exact congrArg List.length (List.filter_congr fun l hl => getLsbD_laneWord f (List.mem_range.1 hl))

/-- Settles O19: the votes that count are those of the contributors, lane by lane. -/
theorem voteCombinesThePredicates : Obligations.VoteCombinesThePredicates := by
  intro h
  refine ⟨fun x => ?_, fun x => ?_, fun x => ?_, fun x => ?_⟩
  · exact collectsPred_of (fun _ => rfl) (ReadsData.voteOf x.pa) fun _ _ _ _ => congrArg (collPred x.p) all_votes
  · exact collectsPred_of (fun _ => rfl) (ReadsData.voteOf x.pa) fun _ _ _ _ => congrArg (collPred x.p) any_votes
  · exact collectsReg_of (fun _ => rfl) (ReadsData.voteOf x.pa) fun _ _ _ _ _ => congrArg (collReg x.d) ballot_votes
  · refine collectsReg_of (fun _ => rfl) (ReadsData.voteOf x.pa) fun _ _ _ _ _ => congrArg (collReg x.d) ?_
    exact congrArg (BitVec.ofNat 32) ((congrArg popc32 ballot_votes).trans (popc32_laneWord _))

end Sys2Proof.Machine
end

section
/-! SUPPORT. FP32 patterns: the value of a pattern by its sign, exponent and fraction (R72), and the modifiers as changes
of its sign bit (R164). -/

namespace Sys2Proof.Machine

/-- The FP32 value of a sign, an exponent and a fraction (R72). -/
def fp32Of (s : Bool) (e f : Nat) : Val :=
  if e = 255 then if f = 0 then .inf s else .nan (decide (f < 2 ^ 22))
  else if e = 0 then .fin s f (-149)
  else .fin s (2 ^ 23 + f) (e - 150)

theorem fp32_fields :
    fp32 = { v := true, s := true, ew := 8, fw := 23, bias := 127, spec := 0, sub := true, blk := 0, xw := 0, rnd := 0,
             ovf := 1, rest := 0 } := by decide

theorem fp32_decode {b : Nat} (h : b < 2 ^ 32) :
    fp32.decode b = fp32Of (decide (2 ^ 31 ≤ b)) (natBits b 23 8) (b % 2 ^ 23) := by
  have hfr : natBits b 0 23 = b % 2 ^ 23 := natBits_zero b 23
  have hw : fp32.width = 32 := by decide
  rw [Entry.decode, hw]
  simp only [Nat.mod_eq_of_lt h, fp32_fields, hfr, fp32Of]
  generalize natBits b 23 8 = e
  generalize b % 2 ^ 23 = f
  by_cases he : e = 255
  · by_cases hf : f = 0 <;> simp [he, hf]
  · by_cases h0 : e = 0
    · simp [h0]
    · simp [he, h0]; omega

/-- Modifiers change the sign alone. -/
theorem fp32Of_mods (s : Bool) (e f : Nat) (neg abs : Bool) :
    (fp32Of s e f).mods neg abs = fp32Of (Bool.xor (s && !abs) neg) e f := by
  unfold fp32Of
  split_ifs <;> rfl

theorem bitOf_31 (v : Word) : bitOf v 31 = decide (2 ^ 31 ≤ v.toNat) := by
  rw [bitOf, ← BitVec.msb_eq_getLsbD_last v, BitVec.msb_eq_decide]

/-- R164: the modifiers on bits are the modifiers on the decoded value. -/
theorem fp32_decode_mods32 (v : Word) (neg abs : Bool) :
    fp32.decode (mods32 v neg abs) = ruleVal v neg abs := by
  have hv := v.isLt
  rw [ruleVal, fp32_decode hv, fp32Of_mods, mods32, bitOf_31]
  generalize Bool.xor (decide (2 ^ 31 ≤ v.toNat) && !abs) neg = s
  rw [fp32_decode (by split <;> omega)]
  congr 1
  · cases s
    · simp; omega
    · simp
  · simp only [natBits]; split <;> omega
  · split <;> omega

end Sys2Proof.Machine
end

section
/-! SUPPORT and CLAIM. FMIN and FMAX (R169): the comparison of values turns round with them, so that the lesser and the
greater stand in the order of R169 to both. -/

namespace Sys2Proof.Machine

/-! ## The order -/

/-- The signed significand of a finite value; 0 for any other. -/
def Val.signed : Val → Int
  | .fin s m _ => if s then -(m : Int) else m
  | _ => 0

/-- The exponent of a finite value; 0 for any other. -/
def Val.expo : Val → Int
  | .fin _ _ q => q
  | _ => 0

@[simp] theorem Val.signed_neg (x : Val) : x.neg.signed = -x.signed := by
  rcases x with g | s | ⟨s, m, q⟩
  · rfl
  · rfl
  · cases s <;> simp [Val.neg, Val.mods, Val.signed]

@[simp] theorem Val.expo_neg (x : Val) : x.neg.expo = x.expo := by cases x <;> rfl

theorem Val.signed_fin_eq_zero {s : Bool} {m : Nat} {q : Int} : (Val.fin s m q).signed = 0 ↔ m = 0 := by
  cases s <;> simp [Val.signed]

/-- One more value in an exact sum. -/
def addVal (a : Int × Int) (x : Val) : Int × Int :=
  if x.signed = 0 then a
  else if a.1 = 0 then (x.signed, x.expo)
  else if x.expo ≤ a.2 then (a.1 * (2 ^ (a.2 - x.expo).toNat : Nat) + x.signed, x.expo)
  else (a.1 + x.signed * (2 ^ (x.expo - a.2).toNat : Nat), a.2)

theorem sumVals_eq_foldl (xs : List Val) : sumVals xs = xs.foldl addVal (0, 0) := by
  unfold sumVals
  congr
  funext a x
  cases x with
  | nan g => rfl
  | inf s => rfl
  | fin s m q => simp only [addVal, Val.signed_fin_eq_zero]; rfl

/-- The exact difference turns round with its operands: whichever exponent is the lesser, it is the exponent of both. -/
theorem sumVals_sub_swap (x y : Val) : (sumVals [y, x.neg]).1 = -(sumVals [x, y.neg]).1 := by
  simp only [sumVals_eq_foldl, List.foldl, addVal, Val.signed_neg, Val.expo_neg, neg_eq_zero]
  by_cases hx : x.signed = 0
  · by_cases hy : y.signed = 0 <;> simp [hx, hy]
  · by_cases hy : y.signed = 0
    · simp [hx, hy]
    · rcases lt_trichotomy x.expo y.expo with h | h | h
      · simp [hx, hy, h.le, h.not_ge]
      · simp [hx, hy, h]
      · simp [hx, hy, h.le, h.not_ge]

/-- Where a value lies by its infinity: -1, 0 or 1. -/
def Val.rank : Val → Int
  | .inf true => -1
  | .inf false => 1
  | _ => 0

theorem Val.isInf_eq (x : Val) : x.isInf = decide (x.rank ≠ 0) := by
  rcases x with g | ⟨_ | _⟩ | ⟨s, m, q⟩ <;> rfl

theorem cmpVals_eq (x y : Val) : cmpVals x y =
    if x.rank ≠ y.rank then if x.rank < y.rank then .lt else .gt
    else if x.isInf then .eq
    else if (sumVals [x, y.neg]).1 < 0 then .lt
    else if (sumVals [x, y.neg]).1 = 0 then .eq else .gt := rfl

theorem cmpVals_swap (x y : Val) : cmpVals y x = (cmpVals x y).swap := by
  rw [cmpVals_eq, cmpVals_eq, sumVals_sub_swap x y]
  generalize (sumVals [x, y.neg]).1 = d
  rcases lt_trichotomy x.rank y.rank with h | h | h
  · simp [h, h.ne, h.ne', h.not_gt]
  · by_cases hinf : x.rank = 0
    · rcases lt_trichotomy d 0 with hd | hd | hd
      · simp [Val.isInf_eq, ← h, hinf, hd, hd.ne, hd.not_gt]
      · simp [Val.isInf_eq, ← h, hinf, hd]
      · simp [Val.isInf_eq, ← h, hinf, hd, hd.ne', hd.not_gt]
    · simp [Val.isInf_eq, ← h, hinf]
  · simp [h, h.ne, h.ne', h.not_gt]

theorem cmpVals_self (x : Val) : cmpVals x x = .eq := by
  have h := cmpVals_swap x x
  generalize cmpVals x x = o at h ⊢
  cases o <;> simp_all

theorem ruleBelow_self (x : Val) : ruleBelow x x = true := by
  simp [ruleBelow, cmpVals_self, or_assoc]

/-- Whether FMIN keeps its first operand, and FMAX its second (R169). -/
def takesFirst (x y : Val) : Bool :=
  match cmpVals x y with
  | .lt => true
  | .gt => false
  | .eq => x.sign

theorem ruleBelow_of_takesFirst {x y : Val} (h : takesFirst x y = true) : ruleBelow x y = true := by
  unfold takesFirst at h
  unfold ruleBelow
  cases ho : cmpVals x y <;> simp_all

theorem ruleBelow_of_not_takesFirst {x y : Val} (h : takesFirst x y = false) : ruleBelow y x = true := by
  unfold takesFirst at h
  unfold ruleBelow
  rw [cmpVals_swap x y]
  cases ho : cmpVals x y <;> simp_all

/-! ## The result -/

theorem fminmax_flags (wantMax : Bool) (p q : Nat) :
    (fminmax wantMax p q).flags
      = if (fp32.decode p).signals = true ∨ (fp32.decode q).signals = true then 1 else 0 := by
  simp only [fminmax, Bool.or_eq_true, apply_ite Flagged.flags, ite_self, Flag.invalid]

theorem fminmax_val (wantMax : Bool) (p q : Nat) :
    (fminmax wantMax p q).val =
      if (fp32.decode p).isNan = true ∧ (fp32.decode q).isNan = true then 0x7FC00000
      else if (fp32.decode p).isNan = true then q
      else if (fp32.decode q).isNan = true then p
      else if takesFirst (fp32.decode p) (fp32.decode q) = wantMax then q else p := by
  have hnan : fp32.nan = 0x7FC00000 := by decide
  simp only [fminmax, Bool.and_eq_true, apply_ite Flagged.val, hnan, beq_iff_eq]
  rfl

/-- The result of FMIN and FMAX stands as R169 asks. -/
theorem ruleMinMax_fminmax (greater : Bool) (p q : Nat) : ruleMinMax greater p q (fminmax greater p q).val := by
  simp only [ruleMinMax, fminmax_val]
  by_cases hp : (fp32.decode p).isNan
  · by_cases hq : (fp32.decode q).isNan <;> simp [hp, hq]
  by_cases hq : (fp32.decode q).isNan
  · simp [hp, hq]
  cases hfirst : takesFirst (fp32.decode p) (fp32.decode q) with
  | true =>
    have hbelow := ruleBelow_of_takesFirst hfirst
    cases greater <;> simp [hp, hq, hbelow, ruleBelow_self]
  | false =>
    have hbelow := ruleBelow_of_not_takesFirst hfirst
    cases greater <;> simp [hp, hq, hbelow, ruleBelow_self]

/-! ## The instructions -/

/-- The result of FMIN or FMAX on a thread (R164, R169). -/
def Thread.minMax (a : Thread) (greater : Bool) (x : FminArgs) : Flagged Nat :=
  fminmax greater (mods32 (a.a32 x.a) x.na x.aa) (mods32 (a.b32 x.b) x.nb x.ab)

theorem ReadsData.minMax (greater : Bool) (x : FminArgs) : ReadsData fun a => a.minMax greater x :=
  (ReadsData.a32 x.a).map₂ (ReadsData.b32 x.b) fun v w => fminmax greater (mods32 v x.na x.aa) (mods32 w x.nb x.ab)

theorem Thread.minMax_flags (a : Thread) (greater : Bool) (x : FminArgs) : (a.minMax greater x).flags =
    if (ruleVal (a.a32 x.a) x.na x.aa).signals ∨ (ruleVal (a.b32 x.b) x.nb x.ab).signals then 1 else 0 := by
  simp only [Thread.minMax, fminmax_flags, fp32_decode_mods32]

/-- FMIN and FMAX write their result with its flags, from the form of their meaning. -/
theorem writesMinMax_of {i : Instr} {x : FminArgs} {greater : Bool}
    (h : ∀ s, exec i s = perThread i (threadOnly fun th => th.putFlagged x.d (th.minMax greater x).word) s) :
    WritesRegFlags i x.d (fun a => BitVec.ofNat 32 (a.minMax greater x).val) fun a =>
      if (ruleVal (a.a32 x.a) x.na x.aa).signals ∨ (ruleVal (a.b32 x.b) x.nb x.ab).signals then 1 else 0 := by
  have hwrites := writesRegFlags_of ((ReadsData.minMax greater x).map Flagged.word) h
  simpa only [Flagged.word, Thread.minMax_flags] using hwrites

theorem exec_fmin (h : Hdr) (x : FminArgs) (s : State) : exec (.fmin h x) s =
    perThread (.fmin h x) (threadOnly fun th => th.putFlagged x.d (th.minMax false x).word) s := rfl

theorem exec_fmax (h : Hdr) (x : FminArgs) (s : State) : exec (.fmax h x) s =
    perThread (.fmax h x) (threadOnly fun th => th.putFlagged x.d (th.minMax true x).word) s := rfl

/-- Settles O5: FMIN and FMAX change their thread alone, by the operand that R169 names and the flag of a signalling one. -/
theorem minMaxOrderAndNan : Obligations.MinMaxOrderAndNan := fun h x =>
  ⟨⟨fun a => (a.minMax false x).val, writesMinMax_of (exec_fmin h x), fun _ => ruleMinMax_fminmax _ _ _⟩,
    ⟨fun a => (a.minMax true x).val, writesMinMax_of (exec_fmax h x), fun _ => ruleMinMax_fminmax _ _ _⟩⟩

end Sys2Proof.Machine
end

section
/-! SUPPORT and CLAIM. FCLASS (R173): the class of an FP32 pattern, read off its sign, exponent and fraction. -/

namespace Sys2Proof.Machine

/-- The model's bit is that of the class by sign, exponent and fraction. -/
theorem fclassBits_eq (v : Word) : fclassBits v.toNat = 2 ^ ruleClass v := by
  rw [fclassBits, fp32_decode v.isLt]
  have he : v.toNat / 2 ^ 23 % 256 = natBits v.toNat 23 8 := rfl
  simp only [fp32Of, ruleClass, he]
  generalize natBits v.toNat 23 8 = e
  generalize v.toNat % 2 ^ 23 = f
  generalize decide (2 ^ 31 ≤ v.toNat) = s
  by_cases htop : e = 255
  · by_cases hf : f = 0
    · cases s <;> simp [htop, hf]
    · simp [htop, hf]
  · by_cases hzero : e = 0
    · by_cases hf : f = 0 <;> cases s <;> simp [hzero, hf]
    · cases s <;> simp [htop, hzero]

theorem exec_fclass (h : Hdr) (x : UnArgs) (s : State) :
    exec (.fclass h x) s = perThread (.fclass h x) (threadOnly fun th =>
      th.setReg x.d.toNat (BitVec.ofNat 32 (fclassBits (th.reg x.b.toNat).toNat))) s := rfl

/-- Settles O6: FCLASS changes its thread alone, by the one bit of the class of its operand. -/
theorem classifyNamesOneClass : Obligations.ClassifyNamesOneClass := by
  intro h x
  refine writesReg_of ((ReadsData.reg x.b.toNat).map fun v => BitVec.ofNat 32 (2 ^ ruleClass v)) fun s => ?_
  simp only [exec_fclass, fclassBits_eq]

end Sys2Proof.Machine
end

section
/-! SUPPORT. The bytes of an on-chip bank (R43 to R45): what a masked write leaves in byte memory, and what performing
such a write leaves of the machine (R35, R265, R386). -/

namespace Sys2Proof.Machine

/-! ## Fields of a number in byte memory -/

section Memory
variable {m : Memory} {a n lo len v : Nat}

/-- Bytes that are those of a number are read as its bits. -/
theorem Memory.readNat_eq_natBits (h : ∀ i, i < len → (Memory.read m (a + i)).toNat = byteOf v (lo + i)) :
    Memory.readNat m a len = natBits v (8 * lo) (8 * len) := by
  induction len generalizing a lo with
  | zero => simp [Memory.readNat, natBits, Nat.mod_one]
  | succ len ih =>
    have hrest : Memory.readNat m (a + 1) len = natBits v (8 * (lo + 1)) (8 * len) := ih fun i hi => by
      simpa only [Nat.add_assoc, Nat.add_comm 1 i] using h (i + 1) (by omega)
    have hpow : ∀ k, 2 ^ (8 * k) = 256 ^ k := fun k => by rw [Nat.pow_mul]
    have hfirst := h 0 (by omega)
    simp only [Nat.add_zero] at hfirst
    rw [Memory.readNat, hfirst, hrest, natBits, natBits, byteOf, hpow, hpow, hpow, hpow, Nat.pow_succ, Nat.pow_succ,
      Nat.mul_comm (256 ^ len) 256, Nat.mod_mul, ← Nat.div_div_eq_div_mul]

/-- The bytes of a number read from memory. -/
theorem Memory.byteOf_readNat {i : Nat} (hi : i < n) : byteOf (Memory.readNat m a n) i = (Memory.read m (a + i)).toNat := by
  induction n generalizing a i with
  | zero => exact absurd hi (Nat.not_lt_zero i)
  | succ n ih =>
    have hbyte := (Memory.read m a).isLt
    cases i with
    | zero => rw [Memory.readNat, byteOf, Nat.pow_zero, Nat.div_one, Nat.add_zero a]; omega
    | succ i =>
      have hdiv : ((Memory.read m a).toNat + 256 * Memory.readNat m (a + 1) n) / 256 = Memory.readNat m (a + 1) n := by
        omega
      rw [Memory.readNat, byteOf, Nat.pow_succ', ← Nat.div_div_eq_div_mul, hdiv, show a + (i + 1) = a + 1 + i by omega]
      exact ih (by omega)

/-- A field of whole bytes of a number in memory is the number in those bytes. -/
theorem Memory.natBits_readNat (h : lo + len ≤ n) :
    natBits (Memory.readNat m a n) (8 * lo) (8 * len) = Memory.readNat m (a + lo) len :=
  (Memory.readNat_eq_natBits fun i hi => by
    rw [Memory.byteOf_readNat (show lo + i < n by omega), Nat.add_assoc]).symm

/-- A byte read where a masked number has been written. -/
theorem Memory.read_writeMasked_inside (h : Memory.wf m = true) (v mask : Nat) {i : Nat} (hi : i < n) :
    (Memory.read (Memory.writeMasked m a n v mask) (a + i)).toNat
      = if mask.testBit i = true then byteOf v i else (Memory.read m (a + i)).toNat := by
  induction n generalizing m a v mask i with
  | zero => exact absurd hi (Nat.not_lt_zero i)
  | succ n ih =>
    rw [Memory.writeMasked]
    cases i with
    | zero =>
      rw [Nat.add_zero a, Memory.read_writeMasked_outside _ _ _ _ _ _ (by omega)]
      by_cases hmask : mask % 2 = 1
      · rw [if_pos hmask, if_pos (by simp [Nat.testBit_zero, hmask]), Memory.read_write_same _ _ _ h]
        simp [byteOf]
      · rw [if_neg hmask, if_neg (by simp [Nat.testBit_zero, hmask])]
    | succ i =>
      have hwf : Memory.wf (if mask % 2 = 1 then Memory.write m a (BitVec.ofNat 8 v) else m) = true := by
        split
        · exact Memory.wf_write _ _ _ h
        · exact h
      have hother : Memory.read (if mask % 2 = 1 then Memory.write m a (BitVec.ofNat 8 v) else m) (a + 1 + i)
          = Memory.read m (a + 1 + i) := by
        split
        · exact Memory.read_write_other _ _ _ _ (by omega)
        · rfl
      rw [show a + (i + 1) = a + 1 + i by omega, ih hwf _ _ (by omega), hother, Nat.testBit_succ, byteOf, byteOf,
        Nat.pow_succ', Nat.div_div_eq_div_mul]

end Memory

/-! ## Banks after a write -/

/-- The memory of a bank is there: a region of the scratchpad is that of a gang (R43). -/
def State.hasBank (s : State) : Bank → Prop
  | .scr g => (s.gang g).isSome = true
  | .clu _ => True
  | .lag _ => True

section Banks
variable {s : State} {b c : Bank}

theorem State.bankMem_setBankMem_same (h : s.hasBank b) (m : Memory) : (s.setBankMem b m).bankMem b = m := by
  cases b with
  | scr g =>
    obtain ⟨x, hx⟩ := Option.isSome_iff_exists.1 h
    have hx' : Tab.get? s.gangs g = some x := hx
    simp [State.setBankMem, State.bankMem, State.gang, Tab.get?_modify, hx']
  | clu n => exact s.bankMem_setBankMem_core n m
  | lag n => exact s.bankMem_setBankMem_isle n m

theorem State.bankMem_setBankMem_other (h : c ≠ b) (m : Memory) : (s.setBankMem b m).bankMem c = s.bankMem c := by
  cases b with
  | scr g =>
    cases c with
    | scr k =>
      have hk : k ≠ g := fun e => h (congrArg Bank.scr e)
      simp [State.setBankMem, State.bankMem, State.gang, Tab.get?_modify, hk]
    | clu _ | lag _ => rfl
  | clu n =>
    cases c with
    | clu k => exact congrArg Core.lent (s.core_setCore_other n k _ fun e => h (congrArg Bank.clu e))
    | scr _ | lag _ => rfl
  | lag n =>
    cases c with
    | lag k => exact congrArg Isle.lagoon (s.isle_setIsle_other n k _ fun e => h (congrArg Bank.lag e))
    | scr _ | clu _ => rfl

@[simp] theorem State.setBankMem_threads (s : State) (b : Bank) (m : Memory) : (s.setBankMem b m).threads = s.threads := by
  cases b <;> rfl

@[simp] theorem State.setBankMem_mem (s : State) (b : Bank) (m : Memory) : (s.setBankMem b m).mem = s.mem := by
  cases b <;> rfl

@[simp] theorem State.bankMem_modThread (s : State) (t : Nat) (f : Thread → Thread) (b : Bank) :
    (s.modThread t f).bankMem b = s.bankMem b := by
  cases b <;> simp [State.bankMem, State.gang, State.core, State.isle]

/-- A bank's memory does not change with its gangs' records, where these keep their scratchpads. -/
theorem State.bankMem_mapGangs (s : State) {f : Nat × Gang → Nat × Gang} (hkey : ∀ g, (f g).1 = g.1)
    (hscr : ∀ g, (f g).2.scratch = g.2.scratch) (b : Bank) :
    ({ s with gangs := s.gangs.map f } : State).bankMem b = s.bankMem b := by
  cases b with
  | scr g =>
    have hf : f = fun p => (p.1, (f (p.1, p.2)).2) := funext fun p => Prod.ext (hkey p) rfl
    have hget : Tab.get? (s.gangs.map f) g = (Tab.get? s.gangs g).map fun x => (f (g, x)).2 := by
      rw [hf]; exact Tab.get?_map s.gangs g fun k x => (f (k, x)).2
    simp [State.bankMem, State.gang, hget, Function.comp_def, hscr]
  | clu _ | lag _ => rfl

/-- A bank's memory does not change with a core that keeps its lent bytes. -/
theorem State.bankMem_modCore (s : State) (n : Nat) {f : Core → Core} (h : (f (s.core n)).lent = (s.core n).lent)
    (b : Bank) : (s.modCore n f).bankMem b = s.bankMem b := by
  cases b with
  | clu k =>
    by_cases hk : k = n
    · subst hk; simp [State.bankMem, State.modCore, h]
    · exact congrArg Core.lent (s.core_setCore_other n k _ hk)
  | scr _ | lag _ => rfl

/-- A bank's memory does not change with an isle that keeps its Lagoon. -/
theorem State.bankMem_modIsle (s : State) (n : Nat) {f : Isle → Isle} (h : (f (s.isle n)).lagoon = (s.isle n).lagoon)
    (b : Bank) : (s.modIsle n f).bankMem b = s.bankMem b := by
  cases b with
  | lag k =>
    by_cases hk : k = n
    · subst hk; simp [State.bankMem, State.modIsle, h]
    · exact congrArg Isle.lagoon (s.isle_setIsle_other n k _ hk)
  | scr _ | clu _ => rfl

end Banks

/-! ## What a write announces -/

/-- A thread without its watch. -/
def Thread.unwatched (th : Thread) : Thread := { th with watch := none }

/-- State `s'` is `s` but for what announces a write: no byte of a bank and nothing of DRAM and the second tier has
changed, and of a thread its watch alone. -/
structure Announced (s s' : State) : Prop where
  banks   : ∀ b, s'.bankMem b = s.bankMem b
  mem     : s'.mem = s.mem
  threads : ∀ t, (s'.thread t).map Thread.unwatched = (s.thread t).map Thread.unwatched

theorem Announced.refl (s : State) : Announced s s := ⟨fun _ => rfl, rfl, fun _ => rfl⟩

theorem Announced.trans {s s' s'' : State} (h : Announced s s') (k : Announced s' s'') : Announced s s'' :=
  ⟨fun b => (k.banks b).trans (h.banks b), k.mem.trans h.mem, fun t => (k.threads t).trans (h.threads t)⟩

/-- A thread after an announcement differs in its watch alone. -/
theorem Announced.thread {s s' : State} {t : Nat} {a : Thread} (h : Announced s s') (ha : s.thread t = some a) :
    ∃ w, s'.thread t = some { a with watch := w } := by
  have hmap := h.threads t
  rw [ha, Option.map_some, Option.map_eq_some_iff] at hmap
  obtain ⟨b, hb, hsame⟩ := hmap
  have hback : b = { b.unwatched with watch := b.watch } := rfl
  exact ⟨b.watch, by rw [hb, hback, hsame]; rfl⟩

section Announce
variable (s : State)

theorem State.announced_watchEvent (t reason : Nat) : Announced s (s.modThread t fun th => th.watchEvent reason) where
  banks b := by simp
  mem := by simp
  threads u := by
    rw [State.thread_modThread]
    split
    · rw [Option.map_map]; rfl
    · rfl

theorem State.announced_wake (sp : Space) (line reason : Nat) (who : Nat → Bool) :
    Announced s (s.wake sp line reason who) := by
  refine List.foldlRecOn (motive := Announced s) s.threads _ (Announced.refl s) fun s1 h p _ => ?_
  split
  · exact h
  · split
    · exact h.trans (s1.announced_watchEvent p.1 reason)
    · exact h

/-- Gangs' records may change with an announcement, where they keep their scratchpads. -/
theorem State.announced_mapGangs {f : Nat × Gang → Nat × Gang} (hkey : ∀ g, (f g).1 = g.1)
    (hscr : ∀ g, (f g).2.scratch = g.2.scratch) : Announced s { s with gangs := s.gangs.map f } :=
  ⟨s.bankMem_mapGangs hkey hscr, rfl, fun _ => rfl⟩

theorem State.announced_unpark (b : Bank) (off : Nat) : Announced s (s.unpark b off) := by
  unfold State.unpark
  split
  · exact Announced.refl s
  · refine s.announced_mapGangs (fun g => ?_) (fun g => ?_) <;> dsimp only <;> split <;> rfl

theorem State.weigh_scratch (h : Nat) (g : Gang) : (s.weigh h g).scratch = g.scratch := by
  unfold State.weigh; split <;> rfl

theorem State.announced_reweighFrom (before : State) : Announced s (s.reweighFrom before) := by
  unfold State.reweighFrom
  split
  · exact Announced.refl s
  · refine s.announced_mapGangs (fun g => ?_) (fun g => ?_)
    · split <;> rfl
    · split
      · exact s.weigh_scratch g.1 g.2
      · rfl

theorem State.announced_setBankPoison (b : Bank) (l : List Nat) : Announced s (s.setBankPoison b l) := by
  cases b with
  | scr g => refine s.announced_mapGangs (fun p => ?_) (fun p => ?_) <;> dsimp only <;> split <;> rfl
  | clu n => exact ⟨s.bankMem_modCore n rfl, rfl, fun _ => rfl⟩
  | lag n => exact ⟨s.bankMem_modIsle n rfl, rfl, fun _ => rfl⟩

/-- Performing bytes of a bank writes them and announces the write (R35, R265, R386). -/
theorem State.announced_performBank (b : Bank) (off : Nat) (data : BitVec 128) (mask : BitVec 16) (poison : Bool) :
    Announced (s.setBankMem b (Memory.writeMasked (s.bankMem b) (16 * (off / 16)) 16 data.toNat mask.toNat))
      (s.performBank b off data mask poison) := by
  unfold State.performBank
  extract_lets w before s1 s2 s3
  have hpoison : Announced s1 s2 := by
    unfold s2
    split
    · exact s1.announced_setBankPoison b _
    · split
      · exact s1.announced_setBankPoison b _
      · exact Announced.refl s1
  have hpipes : Announced s2 s3 := by
    unfold s3
    split
    · exact Announced.refl s2
    · exact (s2.announced_unpark b off).trans (State.announced_reweighFrom _ before)
  exact (hpoison.trans hpipes).trans (s3.announced_wake _ _ _ _)

end Announce

end Sys2Proof.Machine
end

section
/-! SUPPORT and CLAIM. BARA (R184, R201, R203): the arrival object that an operand names, its fields and bytes, and an
arrival that takes units off it. -/

namespace Sys2Proof.Machine

/-! ## Where an object stands -/

section Spot
variable {s s' : State} {t n : Nat} {sp : Space} {ea : DWord} {acc : Access}

theorem State.resolve_issued (h : s.resolve t sp ea n = some acc) : acc.issued = ea := by
  cases sp <;> simp only [State.resolve] at h
  all_goals
    repeat' split at h
    all_goals cases h
    all_goals rfl

/-- An access that passes its checks is at the address as issued, and aligned (R184). -/
theorem State.checkAddr_issued (h : s.checkAddr t sp ea n = .ok acc) : acc.issued = ea ∧ acc.addr % n = 0 := by
  unfold State.checkAddr at h
  split at h
  · cases h
  · next a ha =>
    split at h
    · cases h
    · next hal => cases h; exact ⟨State.resolve_issued ha, Decidable.not_not.1 hal⟩

/-- Banks are laid out in blocks of 16 bytes (R43 to R45). -/
theorem State.bankOf_aligned (s : State) (core part : Nat) (h : acc.addr % 16 = 0) :
    (s.bankOf core part acc).2 % 16 = 0 := by
  unfold State.bankOf
  split <;> dsimp only <;> omega

theorem State.hasBank_bankOf (core part : Nat) (hsp : acc.space = .scr ∨ acc.space = .clu ∨ acc.space = .lag)
    (h : acc.space = .scr → (s.gang acc.region).isSome = true) : s.hasBank (s.bankOf core part acc).1 := by
  unfold State.bankOf
  rcases hsp with e | e | e <;> rw [e]
  · exact h e
  · trivial
  · trivial

/-- The address of an object is its operand (R42, R184). -/
theorem Thread.base_eq_ruleEa (th : Thread) (sp : Space) (a : SrcA) : th.base sp a = ruleEa th sp a 0#32 := by
  rw [← effAddr_base, effAddr]
  split
  · simp
  · next h => simp [Thread.base, h, lo32]

/-- An object whose address passes its checks (R201). -/
theorem withObject_ok {pc : Addr56} {a : Thread} {r : Reg} {f : Access → LaneRes} (ha : s.thread t = some a)
    (hsp : sp ≠ .glb) (hacc : s.checkAddr t sp (ruleEa a sp (.reg r) 0#32) 16 = .ok acc) :
    withObject s t pc sp r f = f acc := by
  simp only [withObject, ha, Thread.base_eq_ruleEa]
  exact withAccess_ok hacc (fun h => absurd h hsp) fun _ => rfl

/-- An instruction at an object that passes its checks acts there once it has issued. -/
theorem Single.withObject_issued {i : Instr} {iss : Issue} {th : Thread} {r : Reg} (hs : Single i s iss t th)
    (hsp : sp ≠ .glb) (hacc : s.checkAddr t sp (ruleEa th sp (.reg r) 0#32) 16 = .ok acc) :
    ∃ e, s.entered i t th iss = s.setThread t e ∧ Issued iss th e ∧ Alike s (s.setThread t e) ∧
      ∀ f, withObject (s.setThread t e) t iss.pc sp r f = f acc := by
  obtain ⟨e, hent, he⟩ := State.entered_eq i s t th iss
  have halike : Alike s (s.setThread t e) := hent ▸ State.entered_alike iss hs.thread
  refine ⟨e, hent, he, halike, fun f => withObject_ok (State.thread_setThread_same s t e) hsp ?_⟩
  rw [halike.checkAddr, he.ruleEa_eq, hacc]

theorem Alike.bankOf (h : Alike s s') (core part : Nat) (acc : Access) :
    s'.bankOf core part acc = s.bankOf core part acc := by
  obtain ⟨ts, rfl⟩ := h.eq_threads; rfl

theorem Alike.bankMem (h : Alike s s') (b : Bank) : s'.bankMem b = s.bankMem b := by
  obtain ⟨ts, rfl⟩ := h.eq_threads; cases b <;> rfl

theorem Alike.mem (h : Alike s s') : s'.mem = s.mem := by
  obtain ⟨ts, rfl⟩ := h.eq_threads; rfl

theorem Alike.hasBank (h : Alike s s') {b : Bank} (hb : s.hasBank b) : s'.hasBank b := by
  obtain ⟨ts, rfl⟩ := h.eq_threads; cases b <;> exact hb

/-- What an on-chip access costs, and whether it may start, does not change as its instruction issues. -/
theorem Alike.accessCost (h : Alike s s') (load : Bool) : s'.accessCost t acc none load = s.accessCost t acc none load := by
  simp only [State.accessCost, h.partOf t, h.bankOf]

theorem Alike.affordsFor (h : Alike s s') (c : Budget) : s'.affordsFor t c = s.affordsFor t c := by
  have hpart := h.partOf t
  have hvdev : s'.vdevOf t = s.vdevOf t := by simp only [State.vdevOf, h.jobOf t]
  obtain ⟨ts, rfl⟩ := h.eq_threads
  simp only [State.affordsFor, hpart, hvdev]
  rfl

end Spot

/-! ## The fields of an object (Table 10-2) -/

section Object
variable {m : Memory} {a : Nat} {o : ArrObj}

/-- The object whose bytes stand at an address. -/
def ArrObj.readAt (m : Memory) (a : Nat) : ArrObj where
  count := Memory.readNat m a 4
  remain := Memory.readNat m (a + 4) 4
  phase := Memory.readNat m (a + 8) 3
  status := Memory.readNat m (a + 11) 1

theorem ArrObj.ofNat_readNat (m : Memory) (a : Nat) : ArrObj.ofNat (Memory.readNat m a 16) = ArrObj.readAt m a := by
  simp only [ArrObj.ofNat, ArrObj.readAt, ArrObj.mk.injEq]
  exact ⟨Memory.natBits_readNat (lo := 0) (len := 4) (by decide), Memory.natBits_readNat (lo := 4) (len := 4) (by decide),
    Memory.natBits_readNat (lo := 8) (len := 3) (by decide), Memory.natBits_readNat (lo := 11) (len := 1) (by decide)⟩

theorem State.arrObj_eq (s : State) (b : Bank × Nat) : s.arrObj b = ArrObj.readAt (s.bankMem b.1) b.2 :=
  ArrObj.ofNat_readNat _ _

/-- The phase word is bits [95:64] (R203). -/
theorem ArrObj.phaseWord_readAt (m : Memory) (a : Nat) :
    (ArrObj.readAt m a).phaseWord = BitVec.ofNat 32 (Memory.readNat m (a + 8) 4) := by
  simp only [ArrObj.phaseWord, ArrObj.readAt, Memory.readNat, Nat.add_assoc, Nat.reduceAdd]
  congr 1; omega

/-- The fields of an object have their widths. -/
structure ArrObj.Fits (o : ArrObj) : Prop where
  count  : o.count < 2 ^ 32
  remain : o.remain < 2 ^ 32
  phase  : o.phase < 2 ^ 24
  status : o.status < 2 ^ 8

theorem ArrObj.fits_readAt (m : Memory) (a : Nat) : (ArrObj.readAt m a).Fits :=
  ⟨m.readNat_lt _ 4, m.readNat_lt _ 4, m.readNat_lt _ 3, m.readNat_lt _ 1⟩

theorem ArrObj.Fits.arrive (h : o.Fits) (n : Nat) : (o.arrive n).Fits := by
  obtain ⟨hcount, hremain, hphase, hstatus⟩ := h
  unfold ArrObj.arrive
  split
  · exact ⟨hcount, hcount, Nat.mod_lt _ (by decide), hstatus⟩
  · exact ⟨hcount, Nat.lt_of_le_of_lt (Nat.sub_le _ _) hremain, hphase, hstatus⟩

@[simp] theorem ArrObj.arrive_remain (o : ArrObj) (n : Nat) :
    (o.arrive n).remain = if o.remain ≤ n then o.count else o.remain - n := by
  unfold ArrObj.arrive; split <;> rfl

@[simp] theorem ArrObj.arrive_phase (o : ArrObj) (n : Nat) :
    (o.arrive n).phase = if o.remain ≤ n then (o.phase + 1) % 2 ^ 24 else o.phase := by
  unfold ArrObj.arrive; split <;> rfl

@[simp] theorem ArrObj.arrive_status (o : ArrObj) (n : Nat) : (o.arrive n).status = o.status := by
  unfold ArrObj.arrive; split <;> rfl

/-- The bytes of an object that an arrival writes back, in their places. -/
def ArrObj.bytes (o : ArrObj) : Nat :=
  (BitVec.ofNat 128 (o.remain * 2 ^ 32 + o.phase * 2 ^ 64 + o.status * 2 ^ 88)).toNat

/-- Byte memory with REMAIN, PHASE and STATUS of an object written back at an address. -/
def ArrObj.putAt (o : ArrObj) (m : Memory) (a : Nat) : Memory := Memory.writeMasked m a 16 o.bytes 0x0FF0

theorem ArrObj.Fits.bytes_eq (h : o.Fits) : o.bytes = o.remain * 2 ^ 32 + o.phase * 2 ^ 64 + o.status * 2 ^ 88 := by
  obtain ⟨-, hremain, hphase, hstatus⟩ := h
  rw [ArrObj.bytes, BitVec.toNat_ofNat]
  omega

/-- Bytes 4 to 11 are those written back. -/
theorem ArrObj.testBit_mask : ∀ i < 16, (0x0FF0).testBit i = decide (4 ≤ i ∧ i < 12) := by decide

theorem ArrObj.read_putAt (hwf : Memory.wf m = true) (o : ArrObj) {i : Nat} (hi : i < 16) :
    (Memory.read (o.putAt m a) (a + i)).toNat
      = if 4 ≤ i ∧ i < 12 then byteOf o.bytes i else (Memory.read m (a + i)).toNat := by
  rw [ArrObj.putAt, Memory.read_writeMasked_inside hwf _ _ hi, ArrObj.testBit_mask i hi]
  simp only [decide_eq_true_eq]

/-- A field of whole bytes among those written back. -/
theorem ArrObj.readNat_putAt (hwf : Memory.wf m = true) (o : ArrObj) {lo len : Nat} (hlo : 4 ≤ lo)
    (hlen : lo + len ≤ 12) : Memory.readNat (o.putAt m a) (a + lo) len = natBits o.bytes (8 * lo) (8 * len) :=
  Memory.readNat_eq_natBits fun i hi => by
    rw [Nat.add_assoc, ArrObj.read_putAt hwf o (by omega), if_pos (by omega)]

theorem ArrObj.Fits.remain_putAt (h : o.Fits) (hwf : Memory.wf m = true) :
    Memory.readNat (o.putAt m a) (a + 4) 4 = o.remain := by
  rw [ArrObj.readNat_putAt hwf o (by decide) (by decide), h.bytes_eq, natBits]
  obtain ⟨-, hremain, hphase, hstatus⟩ := h
  omega

theorem ArrObj.Fits.phase_putAt (h : o.Fits) (hwf : Memory.wf m = true) :
    Memory.readNat (o.putAt m a) (a + 8) 3 = o.phase := by
  rw [ArrObj.readNat_putAt hwf o (by decide) (by decide), h.bytes_eq, natBits]
  obtain ⟨-, hremain, hphase, hstatus⟩ := h
  omega

/-- An object with its STATUS as it stood leaves every byte but REMAIN and PHASE. -/
theorem ArrObj.Fits.others_putAt (h : o.Fits) (hwf : Memory.wf m = true)
    (hsame : o.status = Memory.readNat m (a + 11) 1) {k : Nat} (hk : k < a + 4 ∨ a + 11 ≤ k) :
    Memory.read (o.putAt m a) k = Memory.read m k := by
  by_cases hout : k < a ∨ a + 16 ≤ k
  · exact Memory.read_writeMasked_outside _ _ _ _ _ _ hout
  obtain ⟨i, rfl⟩ := Nat.exists_eq_add_of_le (show a ≤ k by omega)
  apply BitVec.eq_of_toNat_eq
  rw [ArrObj.read_putAt hwf o (by omega)]
  split
  · obtain rfl : i = 11 := by omega
    have hbyte : Memory.readNat m (a + 11) 1 = (Memory.read m (a + 11)).toNat := by simp [Memory.readNat]
    rw [← hbyte, ← hsame, h.bytes_eq, byteOf]
    obtain ⟨-, hremain, hphase, hstatus⟩ := h
    omega
  · rfl

/-- An object written back at an aligned place of a bank that is there. -/
theorem State.announced_putArrObj (s : State) {b : Bank × Nat} (o : ArrObj) (hal : b.2 % 16 = 0) :
    Announced (s.setBankMem b.1 (o.putAt (s.bankMem b.1) b.2)) (s.putArrObj b o) := by
  have hspot : 16 * (b.2 / 16) = b.2 := by omega
  have h := s.announced_performBank b.1 b.2
    (BitVec.ofNat 128 (o.remain * 2 ^ 32 + o.phase * 2 ^ 64 + o.status * 2 ^ 88)) 0x0FF0#16 false
  rwa [hspot] at h

end Object

/-! ## The instruction -/

/-- BARA on its lane, at an object that has passed its checks (R203). -/
def State.bara (s : State) (t : Nat) (pc : Addr56) (x : BaraArgs) (acc : Access) : LaneRes :=
  match s.thread t with
  | none => .ok s
  | some th =>
    if (th.b32 x.n).toNat = 0 then .fault (addrFault Code.bounds acc.issued)
    else s.ifAffords t pc (s.accessCost t acc none false) fun s1 =>
      let b := s.bankOf (coreOf t) (s.partOf t) acc
      .ok ((s1.putArrObj b ((s1.arrObj b).arrive (th.b32 x.n).toNat)).modThread t fun th =>
        th.setReg x.d.toNat (s1.arrObj b).phaseWord)

theorem exec_bara (h : Hdr) (x : BaraArgs) (s : State) : exec (.bara h x) s =
    perThread (.bara h x) (fun pc s t => withObject s t pc x.space x.a fun acc => s.bara t pc x acc) s := rfl

section Lane
variable {s : State} {t : Nat} {a : Thread} {pc : Addr56} {x : BaraArgs} {acc : Access}

theorem State.bara_zero (ha : s.thread t = some a) (hn : a.b32 x.n = 0#32) :
    s.bara t pc x acc = .fault (addrFault Code.bounds acc.issued) := by
  simp [State.bara, ha, hn]

/-- An arrival that its budget lets start: its cost is paid, the object written back, and the phase word from before
returned. -/
theorem State.bara_arrives {b : Bank × Nat} {o : ArrObj} (ha : s.thread t = some a) (hn : a.b32 x.n ≠ 0#32)
    (hpays : s.affordsFor t (s.accessCost t acc none false) = true) (hb : s.bankOf (coreOf t) (s.partOf t) acc = b)
    (ho : ArrObj.readAt (s.bankMem b.1) b.2 = o) :
    s.bara t pc x acc = .ok (((s.payFor t (s.accessCost t acc none false)).putArrObj b
      (o.arrive (a.b32 x.n).toNat)).modThread t fun th => th.setReg x.d.toNat o.phaseWord) := by
  have hpos : (a.b32 x.n).toNat ≠ 0 := fun h => hn (BitVec.eq_of_toNat_eq h)
  have hobj : (s.payFor t (s.accessCost t acc none false)).arrObj b = o := by
    rw [State.arrObj_eq, State.payFor, State.pay_bankMem, ho]
  simp only [State.bara, ha, if_neg hpos, State.ifAffords, hpays, if_true, hb, hobj]

/-- What an arrival leaves of the machine. -/
theorem State.arrived {b : Bank × Nat} {o : ArrObj} (c : Budget) (r : Nat) (v : Word) (ha : s.thread t = some a)
    (hal : b.2 % 16 = 0) (hbank : s.hasBank b.1) :
    let s' := ((s.payFor t c).putArrObj b o).modThread t fun th => th.setReg r v
    (∃ w, s'.thread t = some ({ a with watch := w }.setReg r v)) ∧
      s'.bankMem b.1 = o.putAt (s.bankMem b.1) b.2 ∧ (∀ c, c ≠ b.1 → s'.bankMem c = s.bankMem c) ∧ s'.mem = s.mem := by
  intro s'
  have hann := (s.payFor t c).announced_putArrObj o hal
  have hpaid : ∀ d, (s.payFor t c).bankMem d = s.bankMem d := State.pay_bankMem s _ _ _ c
  have hbank' : (s.payFor t c).hasBank b.1 := by
    generalize b.1 = d at hbank ⊢
    cases d with
    | scr g => simpa [State.hasBank, State.payFor, State.gang] using hbank
    | clu _ | lag _ => trivial
  refine ⟨?_, ?_, fun d hd => ?_, ?_⟩
  · obtain ⟨w, hw⟩ := hann.thread (t := t) (a := a) (by simpa [State.thread, State.payFor] using ha)
    exact ⟨w, by simp [s', State.thread_modThread, hw]⟩
  · rw [State.bankMem_modThread, hann.banks, State.bankMem_setBankMem_same hbank', hpaid]
  · rw [State.bankMem_modThread, hann.banks, State.bankMem_setBankMem_other hd, hpaid]
  · rw [State.modThread_mem, hann.mem, State.setBankMem_mem, State.payFor, State.pay_mem]

end Lane

/-- A BARA that its budget lets start: the object as it stood gives gD, and the arrival is written back. -/
theorem Single.bara_next (h : Hdr) (x : BaraArgs) {s : State} {iss : Issue} {t : Nat} {th : Thread} {acc : Access}
    (hs : Single (.bara h x) s iss t th) (hobj : ObjectAt (.bara h x) s iss t th x.space x.a acc)
    (hn : th.b32 x.n ≠ 0#32) (hpays : s.affordsFor t (s.accessCost t acc none false) = true) :
    let b := objectSpot s t acc
    let o := ArrObj.readAt (s.bankMem b.1) b.2
    ∃ s' a, exec (.bara h x) s = .next s' ∧ s'.thread t = some a ∧ a.reg x.d.toNat = o.phaseWord ∧ a.psq = th.psq ∧
      a.flg = th.flg ∧ a.pc = iss.pc + 12#56 ∧ s'.bankMem b.1 = (o.arrive (th.b32 x.n).toNat).putAt (s.bankMem b.1) b.2 ∧
      (∀ c, c ≠ b.1 → s'.bankMem c = s.bankMem c) ∧ s'.mem = s.mem := by
  intro b o
  obtain ⟨hsp, hacc, -, hgang⟩ := hobj
  rw [(State.entered_alike iss hs.thread).checkAddr] at hacc
  have hglb : x.space ≠ .glb := by rcases hsp with k | k | k <;> rw [k] <;> decide
  obtain ⟨e, hent, he, halike, hobject⟩ := hs.withObject_issued hglb hacc
  have hset := State.thread_setThread_same s t e
  obtain ⟨hspace, -⟩ := State.checkAddr_ok hacc
  have hal : b.2 % 16 = 0 := s.bankOf_aligned _ _ (State.checkAddr_issued hacc).2
  have hbank : (s.setThread t e).hasBank b.1 :=
    halike.hasBank (State.hasBank_bankOf _ _ (hspace.symm ▸ hsp) fun hscr => hgang (hspace ▸ hscr))
  have hb32 : e.b32 x.n = th.b32 x.n := ReadsData.b32 x.n th e he.data
  have hlane := State.bara_arrives (pc := iss.pc) (x := x) (acc := acc) (b := b) (o := o) hset (hb32 ▸ hn)
    (by rwa [halike.affordsFor, halike.accessCost]) (by rw [halike.bankOf, halike.partOf]; rfl)
    (by rw [halike.bankMem])
  rw [hb32] at hlane
  obtain ⟨⟨w, hthread⟩, hhere, helse, hmem⟩ := State.arrived (o := o.arrive (th.b32 x.n).toNat)
    ((s.setThread t e).accessCost t acc none false) x.d.toNat o.phaseWord hset hal hbank
  refine ⟨_, _, (exec_bara h x s).trans (hs.next_of_ok ?_), hthread, ?_, he.data.rest.psq, he.data.flg,
    he.pc, ?_, fun d hd => ?_, ?_⟩
  · rw [hent, hobject]
    exact hlane
  · exact Thread.reg_setReg_same _ _ _ (show Sparse.wf e.regs = true by rw [he.data.regs]; exact hs.regs)
  · rw [hhere, halike.bankMem]
  · rw [helse d hd, halike.bankMem]
  · rw [hmem, halike.mem]

/-- Settles O31: the object is read field by field from its bytes, and the arrival writes bytes 4 to 11 of it back, of
which STATUS is as it stood. -/
theorem barrierArrives : Obligations.BarrierArrives := by
  intro h x
  refine ⟨?_, raises_of_fault (exec_bara h x) (by decide) (by decide) ?_⟩
  · intro s iss t th acc hs hobj hn hpays b m n count remain phase
    obtain ⟨s', a, hexec, hthread, hreg, hpsq, hflg, hpc, hhere, helse, hmem⟩ := hs.bara_next h x hobj hn hpays
    obtain ⟨-, -, hwf, -⟩ := hobj
    have hfits := (ArrObj.fits_readAt m b.2).arrive n
    refine ⟨s', a, hexec, hthread, hreg.trans (ArrObj.phaseWord_readAt m b.2), hpsq, hflg, hpc, ?_, ?_, fun k hk => ?_, helse,
      hmem⟩ <;> rw [hhere]
    · exact (hfits.remain_putAt hwf).trans (ArrObj.arrive_remain _ n)
    · exact (hfits.phase_putAt hwf).trans (ArrObj.arrive_phase _ n)
    · exact hfits.others_putAt hwf (ArrObj.arrive_status _ n) hk
  · intro s iss t th hs hc
    obtain ⟨⟨acc, hacc⟩, hglb, hn⟩ := hc
    obtain ⟨e, hent, he, -, hobject⟩ := hs.withObject_issued hglb hacc
    have hzero : e.b32 x.n = 0#32 := (ReadsData.b32 x.n th e he.data).trans hn
    rw [hent, hobject, State.bara_zero (State.thread_setThread_same s t e) hzero, (State.checkAddr_issued hacc).1]
    rfl

end Sys2Proof.Machine
end

section
/-! SUPPORT and CLAIM. TRAILW (R244): a run of registers is trailed, and undoing its entries, newest first, gives each
register the value that its entry holds (R241). -/

namespace Sys2Proof.Machine

/-! ## The trail entries of registers -/

/-- The trail entry of a register (TKIND 2, Table 12-3). -/
def regEntry (r : Nat) (v : Word) : Nat := v.toNat * 2 ^ 64 + 2 * 2 ^ 62 + r

theorem regEntry_lt {r : Nat} (v : Word) (hr : r < 512) : regEntry r v < 256 ^ 16 := by
  have hv := v.isLt
  unfold regEntry
  omega

/-- The entries of the `n` registers from `first`, of values `v`, stand in ascending order from the address `x`. -/
def RegEntries (m : Memory) (x first n : Nat) (v : Nat → Word) : Prop :=
  ∀ j, j < n → Memory.readNat m (x + 16 * j) 16 = regEntry (first + j) (v (first + j))

/-! ## Trailing -/

section Trail
variable {th a : Thread} {first n : Nat}

/-- The registers are trailed one after the other, each above those before it. -/
theorem Thread.trailRegs_succ (th : Thread) (first n : Nat) : th.trailRegs first (n + 1) =
    (th.trailRegs first n).trail 2 ((first + n) % 512) ((th.trailRegs first n).reg (first + n)).toNat := by
  simp [Thread.trailRegs, List.range_succ]

theorem Thread.trail_reg_priv (th : Thread) {r : Nat} (v : Word) (hr : r < 512) :
    (th.trail 2 (r % 512) v.toNat).priv = Memory.writeNat th.priv th.trp 16 (regEntry r v) := by
  have hloc : r % 512 % 2 ^ 18 = r := by omega
  simp only [Thread.trail, Thread.setTrp, Thread.privWrite, regEntry, hloc]

/-- Thread `a` is thread `th` after it has trailed `n` registers from `first`. -/
structure RegsTrailed (th : Thread) (first n : Nat) (a : Thread) : Prop where
  same    : SameButPriv th a
  wf      : Memory.wf a.priv = true
  choice  : a.choice = th.choice.withTrp (th.trp + 16 * n)
  others  : ∀ c, c < th.trp ∨ th.trp + 16 * n ≤ c → Memory.read a.priv c = Memory.read th.priv c
  entries : RegEntries a.priv th.trp first n th.reg

/-- An instruction that changes `.priv` bytes and choice registers alone leaves the rest of its thread as it was. -/
theorem Issued.rest_of_sameButPriv {iss : Issue} {b : Thread} (h : Issued iss th a) (hb : SameButPriv a b) :
    b.pc = iss.pc + 12#56 ∧ b.regs = th.regs ∧ b.preds = th.preds ∧ b.flg = th.flg ∧ b.psq = th.psq := by
  unfold SameButPriv at hb
  rw [hb]
  exact ⟨h.pc, h.data.regs, h.data.preds, h.data.flg, h.data.rest.psq⟩

theorem SameButPriv.regs_eq (h : SameButPriv th a) : a.regs = th.regs := by
  unfold SameButPriv at h
  rw [h]

/-- Entries that fit below the choice stack end at an address that TRP can hold. -/
theorem Thread.trp_add_lt {k : Nat} (hfit : th.trp + k + 32 * th.cpd ≤ th.trl) : th.trp + k < 2 ^ 32 :=
  Nat.lt_of_le_of_lt (Nat.le_of_add_right_le hfit) th.choice.trl.isLt

theorem RegsTrailed.trp (h : RegsTrailed th first n a) (hfit : th.trp + 16 * n < 2 ^ 32) : a.trp = th.trp + 16 * n := by
  rw [Thread.trp, h.choice]
  exact (BitVec.toNat_ofNat _ 32).trans (Nat.mod_eq_of_lt hfit)

/-- One more register is trailed. -/
theorem RegsTrailed.succ (h : RegsTrailed th first n a) (hr : first + n < 512) (hfit : th.trp + 16 * n < 2 ^ 32) :
    RegsTrailed th first (n + 1) (a.trail 2 ((first + n) % 512) (a.reg (first + n)).toNat) := by
  have htrp := h.trp hfit
  have hpriv := a.trail_reg_priv (a.reg (first + n)) hr
  rw [htrp] at hpriv
  obtain ⟨hsame, hwf, hchoice, hothers, hentries⟩ := h
  refine ⟨hsame.trans (a.trail_same _ _ _), a.trail_wf _ _ _ hwf, ?_, fun c hc => ?_, fun j hj => ?_⟩
  · change a.choice.withTrp (a.trp + 16) = _
    rw [hchoice, htrp, Choice.withTrp_withTrp, Nat.add_assoc, Nat.mul_succ]
  · rw [hpriv, Memory.read_writeNat_outside _ _ 16 _ _ (by omega), hothers c (by omega)]
  · rw [hpriv]
    rcases Nat.lt_succ_iff_lt_or_eq.1 hj with hlt | rfl
    · rw [← hentries j hlt]
      exact Memory.readNat_congr fun b _ hb => Memory.read_writeNat_outside _ _ 16 _ _ (by omega)
    · rw [Memory.readNat_writeNat _ _ _ _ hwf, Nat.mod_eq_of_lt (regEntry_lt _ hr), Thread.reg_congr hsame.regs_eq]

theorem Thread.regsTrailed (hwf : Memory.wf th.priv = true) (hregs : first + n ≤ 512)
    (hfit : th.trp + 16 * n < 2 ^ 32) : RegsTrailed th first n (th.trailRegs first n) := by
  induction n with
  | zero => exact ⟨rfl, hwf, th.choice.withTrp_self.symm, fun _ _ => rfl, fun _ hj => absurd hj (Nat.not_lt_zero _)⟩
  | succ n ih =>
    rw [Thread.trailRegs_succ]
    exact (ih (by omega) (by omega)).succ (by omega) (by omega)

end Trail

/-! ## Undoing -/

section Undo
variable {c : Thread} {rc pbytes x first n fuel : Nat} {v : Nat → Word}

/-- The entry of a register, undone, gives the register its value (R241). -/
theorem Thread.undoEntry_reg {r at_ : Nat} {w : Word} (he : Memory.readNat c.priv at_ 16 = regEntry r w) (hr : r < 512)
    (hrc : r < rc) : c.undoEntry rc pbytes at_ = c.setReg r w := by
  have hw := w.isLt
  have hkind : natBits (regEntry r w) 62 2 = 2 := by unfold natBits regEntry; omega
  have hloc : natBits (regEntry r w) 0 18 % 512 = r := by unfold natBits regEntry; omega
  have hold : natBits (regEntry r w) 64 32 = w.toNat := by unfold natBits regEntry; omega
  simp [Thread.undoEntry, he, hkind, hloc, hold, hrc]

theorem Thread.undoLoop_done (h : c.trp ≤ x) : c.undoLoop rc pbytes x fuel = c := by
  cases fuel with
  | zero => rfl
  | succ fuel => exact if_neg (Nat.not_lt.2 h)

theorem Thread.undoLoop_step (h : x < c.trp) : c.undoLoop rc pbytes x (fuel + 1) =
    ((c.undoEntry rc pbytes (c.trp - 16)).setTrp (c.trp - 16)).undoLoop rc pbytes x fuel := if_pos h

/-- The newest entry, of a register, is undone, and the undo goes on below it (R241). -/
theorem Thread.undoLoop_regEntry {r at_ : Nat} {w : Word} (he : Memory.readNat c.priv at_ 16 = regEntry r w)
    (htrp : c.trp = at_ + 16) (hx : x ≤ at_) (hwf : Sparse.wf c.regs = true) (hr : r < 512) (hrc : r < rc) :
    ∃ d : Thread, c.undoLoop rc pbytes x (fuel + 1) = d.undoLoop rc pbytes x fuel ∧ d.priv = c.priv ∧ d.trp = at_ ∧
      Sparse.wf d.regs = true ∧ ∀ q, d.reg q = if q = r then w else c.reg q := by
  have hbound : c.trp < 2 ^ 32 := c.choice.trp.isLt
  refine ⟨(c.setReg r w).setTrp at_, ?_, rfl,
    (BitVec.toNat_ofNat _ 32).trans (Nat.mod_eq_of_lt (by omega)), Thread.wf_setReg c r w hwf,
    fun q => Thread.reg_setReg c r q w hwf⟩
  rw [Thread.undoLoop_step (by omega), show c.trp - 16 = at_ by omega, Thread.undoEntry_reg he hr hrc]

/-- With the entries of a run of registers at the top of the trail, the undo down to them gives those registers their
values and changes no other register (R241). -/
theorem Thread.undoLoop_regs (hentries : RegEntries c.priv x first n v) (htrp : c.trp = x + 16 * n)
    (hwf : Sparse.wf c.regs = true) (hregs : first + n ≤ 512) (hrc : first + n ≤ rc) (hfuel : n ≤ fuel) :
    (c.undoLoop rc pbytes x fuel).trp = x ∧
      ∀ r, (c.undoLoop rc pbytes x fuel).reg r = if first ≤ r ∧ r < first + n then v r else c.reg r := by
  induction n generalizing c fuel with
  | zero =>
    rw [Thread.undoLoop_done (by omega)]
    exact ⟨htrp, fun r => (if_neg (by omega)).symm⟩
  | succ n ih =>
    obtain ⟨fuel, rfl⟩ : ∃ k, fuel = k + 1 := ⟨fuel - 1, by omega⟩
    obtain ⟨d, hstep, hpriv, hdtrp, hdwf, hreg⟩ := Thread.undoLoop_regEntry (pbytes := pbytes) (fuel := fuel)
      (hentries n (Nat.lt_succ_self n)) htrp (Nat.le_add_right x _) hwf (by omega) (by omega : first + n < rc)
    obtain ⟨hend, hvalues⟩ := ih (c := d) (fuel := fuel) (fun j hj => hpriv ▸ hentries j (Nat.lt_succ_of_lt hj))
      hdtrp hdwf (by omega) (by omega) (by omega)
    rw [hstep]
    refine ⟨hend, fun r => ?_⟩
    rw [hvalues, hreg]
    by_cases hr : r = first + n
    · subst hr; simp
    · rw [if_neg hr]
      exact if_congr (by omega) rfl rfl

theorem Thread.undoTo_regs (hentries : RegEntries c.priv x first n v) (htrp : c.trp = x + 16 * n)
    (hwf : Sparse.wf c.regs = true) (hregs : first + n ≤ 512) (hrc : first + n ≤ rc) :
    (c.undoTo rc pbytes x).trp = x ∧
      ∀ r, (c.undoTo rc pbytes x).reg r = if first ≤ r ∧ r < first + n then v r else c.reg r :=
  Thread.undoLoop_regs hentries htrp hwf hregs hrc (by omega)

end Undo

/-! ## The instruction -/

/-- The effect of TRAILW on its lane (R244). -/
def State.trailw (s : State) (t : Nat) (x : TrailwArgs) : LaneRes :=
  match s.thread t with
  | none => .ok s
  | some th =>
    if th.cpd = 0 then .ok s
    else if !th.trailFits x.n.toNat then .fault (plainFault Code.trailFull)
    else .ok (s.setThread t (th.trailRegs x.a.toNat x.n.toNat))

theorem exec_trailw (h : Hdr) (x : TrailwArgs) (s : State) :
    exec (.trailw h x) s = perThread (.trailw h x) (fun _ s t => s.trailw t x) s := rfl

section Lane
variable {s : State} {t : Nat} {a : Thread} {x : TrailwArgs}

/-- Without a choice point nothing is trailed. -/
theorem State.trailw_idle (ha : s.thread t = some a) (hc : a.cpd = 0) : s.trailw t x = .ok s := by
  simp [State.trailw, ha, hc]

theorem State.trailw_full (ha : s.thread t = some a) (hc : a.cpd ≠ 0)
    (hfull : a.trl < a.trp + 16 * x.n.toNat + 32 * a.cpd) : s.trailw t x = .fault (plainFault Code.trailFull) := by
  simp [State.trailw, ha, hc, Thread.trailFits, hfull]

theorem State.trailw_trails (ha : s.thread t = some a) (hc : a.cpd ≠ 0)
    (hfit : a.trp + 16 * x.n.toNat + 32 * a.cpd ≤ a.trl) :
    s.trailw t x = .ok (s.setThread t (a.trailRegs x.a.toNat x.n.toNat)) := by
  simp [State.trailw, ha, hc, Thread.trailFits, hfit]

end Lane

section Single
variable {h : Hdr} {x : TrailwArgs} {s : State} {iss : Issue} {t : Nat} {th : Thread}

/-- TRAILW with room trails the registers of its thread as it has issued. -/
theorem Single.trailw_next (hs : Single (.trailw h x) s iss t th) (hc : th.cpd ≠ 0)
    (hfit : th.trp + 16 * x.n.toNat + 32 * th.cpd ≤ th.trl) (hregs : x.a.toNat + x.n.toNat ≤ 512)
    (hwf : Memory.wf th.priv = true) :
    ∃ a b, Issued iss th a ∧ exec (.trailw h x) s = .next (s.setThread t b) ∧
      RegsTrailed a x.a.toNat x.n.toNat b := by
  obtain ⟨a, hent, ha⟩ := State.entered_eq (.trailw h x) s t th iss
  have hchoice := ha.data.rest.choice
  have hlane := State.trailw_trails (x := x) (State.thread_setThread_same s t a)
    (by rwa [Thread.cpd, hchoice]) (by rwa [Thread.trp, Thread.cpd, Thread.trl, hchoice])
  rw [State.setThread_setThread] at hlane
  refine ⟨a, _, ha, (exec_trailw h x s).trans (hs.next_of_ok (by rw [hent, hlane])), Thread.regsTrailed ?_ hregs ?_⟩
  · rwa [ha.data.rest.priv]
  · rw [Thread.trp, hchoice]
    exact Thread.trp_add_lt hfit

end Single

/-- Settles O41: the entries that TRAILW leaves are those of its registers, which the undo reads back from the
newest down. -/
theorem trailedRegistersComeBack : Obligations.TrailedRegistersComeBack := by
  intro h x
  refine ⟨?_, ?_, raises_of_fault (exec_trailw h x) (by decide) (by decide) ?_⟩
  · intro s iss t th hs hc
    obtain ⟨a, hent, ha⟩ := State.entered_eq (.trailw h x) s t th iss
    have hlane := State.trailw_idle (x := x) (State.thread_setThread_same s t a)
      (by rwa [Thread.cpd, ha.data.rest.choice])
    exact ⟨a, (exec_trailw h x s).trans (hs.next_of_ok (by rw [hent, hlane])), ha.computed⟩
  · intro s iss t th hs hc hfit hregs hwf
    obtain ⟨a, b, ha, hexec, htrailed⟩ := hs.trailw_next hc hfit hregs hwf
    have htrp : a.trp = th.trp := congrArg (·.trp.toNat) ha.data.rest.choice
    have hreg : a.reg = th.reg := funext (Thread.reg_congr ha.data.regs)
    have hbtrp := htrailed.trp (by rw [htrp]; exact Thread.trp_add_lt hfit)
    obtain ⟨hsame, -, hchoice, hothers, hentries⟩ := htrailed
    rw [htrp] at hbtrp hothers hentries
    rw [hreg] at hentries
    rw [ha.data.rest.priv] at hothers
    obtain ⟨hpc, hregs', hpreds, hflg, hpsq⟩ := ha.rest_of_sameButPriv hsame
    refine ⟨b, hexec, hpc, hregs', hpreds, hflg, hpsq, hbtrp, ?_, hentries, hothers,
      fun c rc pbytes hpriv hcchoice hcwf hrc => ?_⟩
    · rw [Thread.cpd, hchoice, ha.data.rest.choice]; rfl
    · exact Thread.undoTo_regs (hpriv ▸ hentries) (by rw [← hbtrp, Thread.trp, hcchoice]; rfl) hcwf hregs hrc
  · intro s iss t th hs hfull
    obtain ⟨hc, hfull⟩ := hfull
    obtain ⟨a, hent, ha⟩ := State.entered_eq (.trailw h x) s t th iss
    have hchoice := ha.data.rest.choice
    rw [hent, State.trailw_full (State.thread_setThread_same s t a) (by rwa [Thread.cpd, hchoice])
      (by rwa [Thread.trp, Thread.cpd, Thread.trl, hchoice])]
    rfl

end Sys2Proof.Machine
end
